-- ==== Sys2Proof/Word.lean ====
section
/-! DEFINITION. The word types and their plainest arithmetic (spec/00_scope.md R7; spec/04_fetched.md R87). -/

namespace Sys2Proof

/-- A 64-bit register or memory word. -/
abbrev Word := BitVec 64

/-- One byte of memory. -/
abbrev Byte := BitVec 8

/-- One slot of an instruction line (R66). -/
abbrev Half := BitVec 16

/-- A vector register of 512 bits (R92). -/
abbrev VReg := BitVec 512

/-- The number of a g or v register, as a 5-bit field holds it. -/
abbrev R := BitVec 5

/-- The number of a pointer register p0-p7. -/
abbrev P := BitVec 3

end Sys2Proof
end

