-- ==== Sys2Proof/Syntax.lean ====
section
/-! DEFINITION. The instructions and the device's other steps: one constructor of Instr per row of
spec/opcode_table.json. Operands are typed by the fields of spec/04_fetched.md R77; the guard, the
safe-point bit and the live mask belong to the head (R71), not to a term of Instr. -/

namespace Sys2Proof

/-- The type codes of R77. -/
inductive VType where
  | i8 | i16 | i32 | i64 | n8 | n16 | n32 | n64 | fp32 | fp16 | bf16 | e4m3 | e5m2 | e2m1
  deriving DecidableEq, Repr

/-- The rounding modes of R77 and R150. -/
inductive Rnd where
  | rn | rz | rd | ru | rna
  deriving DecidableEq, Repr

/-- The scopes of R77. -/
inductive Scope where
  | t | c | d | p | s
  deriving DecidableEq, Repr

/-- The scopes an atomic (R319) and an engine command (R226) accept: every one but T. -/
inductive XScope where
  | c | d | p | s
  deriving DecidableEq, Repr

/-- The orders of R77. -/
inductive Order where
  | rlx | acq | rel | ar
  deriving DecidableEq, Repr

/-- The order and scope of a load (R192): relaxed, or acquire at a scope. -/
inductive LdOrd where
  | rlx
  | acq (sc : Scope)
  deriving DecidableEq, Repr

/-- The order and scope of a store (R192): relaxed, or release at a scope. -/
inductive StOrd where
  | rlx
  | rel (sc : Scope)
  deriving DecidableEq, Repr

/-- The system registers of R102. -/
inductive SysReg where
  | thread | core | owner | domid | ddepth | tvec | tcause | tpc | taddr | tinfo | vresume
  | qmod | qmu | pb1 | pb2 | pb3 | spbudget | wdog | tsc | fetchctl | blax | blad
  deriving DecidableEq, Repr

/-- The conditions of VCMP (R166). -/
inductive Cond where
  | eq | ne | lt | le | gt | ge
  deriving DecidableEq, Repr

/-- The conditions of VFCMP (R166). -/
inductive FCond where
  | eq | ne | lt | le | gt | ge | un | or
  deriving DecidableEq, Repr

/-- The sizes of LDA (R195). -/
inductive LdSize where
  | z8 | z16 | z32 | z64 | s8 | s16 | s32
  deriving DecidableEq, Repr

/-- The sizes of STA (R195). -/
inductive StSize where
  | z8 | z16 | z32 | z64
  deriving DecidableEq, Repr

/-- The types of atomics and reductions (R319, R322). -/
inductive AType where
  | i32 | i64 | n32 | n64
  deriving DecidableEq, Repr

/-- The element types of vector atomics (R326). -/
inductive VAType where
  | i32 | i64 | n32 | n64 | fp32
  deriving DecidableEq, Repr

/-- The element types of VGATH and VSCAT (R198). -/
inductive GType where
  | i32 | i64 | n32 | n64 | fp32
  deriving DecidableEq, Repr

/-- FP32, FP16 and BF16: the types of the floating lane forms (R164). -/
inductive FType where
  | fp32 | fp16 | bf16
  deriving DecidableEq, Repr

/-- The input types of VDOT (R175). -/
inductive DotType where
  | i8 | n8 | fp16 | bf16
  deriving DecidableEq, Repr

/-- The kinds of ALOAD and ASTORE (R238). -/
inductive Kind where
  | fp32 | i32 | n64
  deriving DecidableEq, Repr

/-- The element types of CRED (R249). -/
inductive CredType where
  | i32 | i64 | n32 | n64 | fp32 | fp16 | bf16
  deriving DecidableEq, Repr

/-- The operations of CRED (R249). -/
inductive CredOp where
  | add | min | max
  deriving DecidableEq, Repr

/-- The mask field and the reuse hint that formats V and M carry (R77, R101, R159). -/
structure VCtl where
  sel   : BitVec 3
  reuse : Bool
  deriving DecidableEq, Repr

/-- The scope and the semaphore fields of an engine command (R226). -/
structure EngF where
  sc    : XScope
  kwait : BitVec 8
  thr   : BitVec 8
  ksig  : BitVec 8
  inc   : BitVec 8
  deriving DecidableEq, Repr

/-- The X word of SGEMV (R244). The counts are the field values, one below the counts. -/
structure SgemvX where
  xfp32 : Bool
  ydst  : Bool
  acc   : Bool
  nvec  : BitVec 3
  ncols : BitVec 11
  col0  : BitVec 11
  nrows : BitVec 16
  row0  : BitVec 16
  deriving DecidableEq, Repr

/-- The X word of GATHER and SCATTER (R248). -/
structure IndexX where
  iw    : Bool
  shift : BitVec 3
  esz   : BitVec 3
  n     : BitVec 16
  deriving DecidableEq, Repr

/-- Where a dispatcher or Kiosk core takes a launch header from (R34, R37). -/
inductive LaunchSrc where
  | host (queue : Nat)
  | device (die : Nat) (owner : BitVec 4)
  deriving DecidableEq, Repr

/-- The four engines of a core and its group port (R225, R256). -/
inductive EngineId where
  | matrix | copy | grotto | group
  deriving DecidableEq, Repr

/-- A resource with a TDM schedule (R52). -/
inductive Resource where
  | link (die : Nat) (key : Nat) (port : Nat)
  | slicePort (die : Nat) (slice : Nat)
  | channel (stack : Nat) (ch : Nat)
  deriving DecidableEq, Repr

/-- One TDM slot (R52). -/
structure Slot where
  shared : Bool
  owner  : BitVec 4
  deriving DecidableEq, Repr

/-- The states of a link in the topology map (R275). -/
inductive LinkState where
  | absent | up | down
  deriving DecidableEq, Repr

/-- A register that a REGISTER_WRITE stores to (R109, R291, R391, R396). -/
inductive RegTarget where
  | migctl
  | xfence
  | dbgctl (core : Nat)
  | dbgsel (core : Nat)
  | dbgm (core : Nat) (n : BitVec 2)
  deriving DecidableEq, Repr

/-- The requester of a debug access: its level (R5) and owner (R391). -/
structure Requester where
  level : BitVec 2
  owner : Option (BitVec 4)
  deriving DecidableEq, Repr

/-- The completion of a PCIe AtomicOp (R294). -/
inductive AtomicReply where
  | done | unsupported | timeout
  deriving DecidableEq, Repr

/-- The sensors of R381. -/
inductive Sensor where
  | voltage | temperature | clock
  deriving DecidableEq, Repr

/-- The causes that remove every supply (R412): a rail above its band, or the trip limit. -/
inductive TripCause where
  | overVoltage | thermal
  deriving DecidableEq, Repr

/-- The outcome of one bring-up step: success, or the cause BOOTSTAT records (R414, R415). -/
inductive BootResult where
  | ok | signature | memory | pool | fabric
  deriving DecidableEq, Repr

/-- The way a storage command ends at its target (R305). -/
inductive StorageResult where
  | success (value : List Byte)
  | notFound
  | truncated (stored : BitVec 32)
  | unreachable
  deriving DecidableEq, Repr

/-- A state class that DBGSEL names (R391). -/
inductive DbgClass where
  | g | v | p | lc | pc | sys | tags | none
  deriving DecidableEq, Repr

/-- The instructions of the machine and its other steps; one constructor per row of the opcode table.
The order of the constructors has no meaning. Compiled Lean can build only the first 245 constructors
with arguments, so the steps that meanings post come first, then the instructions other than the scalar
ones, and the steps that only the outside posts come last. -/
inductive Instr where
  /-- FUNDAMENTAL_RESET (R414). -/
  | fundamentalReset (result : BootResult)
  /-- TVEC_WRITE (R109). -/
  | tvecWrite (core thr : Nat) (dom : BitVec 8) (v : Word)
  /-- BLAX_CLEAR (R407). -/
  | blaxClear (core : Nat) (index : BitVec 6)
  /-- COMMAND_START (R227). -/
  | commandStart (core : Nat) (e : EngineId)
  /-- COMMAND_COMPLETE (R226). -/
  | commandComplete (core : Nat) (cmd : Nat)
  /-- GROUP_REQUEST (R257). -/
  | groupRequest (req : Nat)
  /-- GROUP_FILL (R261). -/
  | groupFill (fill : Nat)
  /-- GROUP_TIMER_EXPIRY (R258). -/
  | groupTimerExpiry (die : Nat) (slot : BitVec 8)
  /-- SETUP_FLIT (R281). -/
  | setupFlit (stream : Nat)
  /-- STREAM_WORD_ARRIVAL (R283). -/
  | streamWordArrival (stream : Nat)
  /-- CLOSING_MARKER (R284). -/
  | closingMarker (stream : Nat)
  /-- REMOTE_ACCESS (R185). -/
  | remoteAccess (msg : Nat)
  /-- PREPARE (R40). -/
  | prepare (die : Nat) (header : Nat)
  /-- WATCHDOG (R385). -/
  | watchdog (core thr : Nat)
  /-- BUDGET_EXPIRY (R215). -/
  | budgetExpiry (core thr : Nat) (frame : Nat)
  /-- UNWIND (R219). -/
  | unwind (core thr : Nat)
  /-- UNWIND_HANDLER_EXPIRY (R220). -/
  | unwindHandlerExpiry (core thr : Nat)
  /-- ASYNC_TRAP_DELIVERY (R380). -/
  | asyncTrapDelivery (core thr : Nat)
  /-- WSLEEP_LIMIT (R202). -/
  | wsleepLimit (core thr : Nat)
  /-- BLOCKED_PARK (R63). -/
  | blockedPark (core thr : Nat)
  /-- RECORD_HOLD_BACK (R59). -/
  | recordHoldBack (core : Nat) (rec : Nat)
  /-- PRIORITY_PROMOTION (R62). -/
  | priorityPromotion (core : Nat) (rec : Nat)
  /-- PREEMPTION_REQUEST (R386). -/
  | preemptionRequest (core thr : Nat)
  /-- CORE_PREEMPTION_REQUEST (R386). -/
  | corePreemptionRequest (core : Nat)
  /-- FORCED_SAVE (R218). -/
  | forcedSave (core thr : Nat)
  /-- SAFE_POINT_PREEMPTION (R387). -/
  | safePointPreemption (core thr : Nat)
  /-- HARD_PREEMPTION (R388). -/
  | hardPreemption (core thr : Nat)
  /-- CONTINUATION_SELECT (R61). -/
  | continuationSelect (core thr : Nat)
  /-- RECORD_CREATE (R56). -/
  | recordCreate (launch : Nat) (n : Nat)
  /-- SCRUB_END (R51). -/
  | scrubEnd (core : Nat)
  /-- SCHEDULE_TAKES_EFFECT (R52). -/
  | scheduleTakesEffect (res : Resource)
  /-- U_COPY_EVICTION (R324). -/
  | uCopyEviction (core line : Nat)
  /-- KILL (R222). -/
  | kill (cont : Nat)
  /-- DEBUG_STOP (R393). -/
  | debugStop (core : Nat)
  /-- DEBUG_STOP_REVOCATION (R393). -/
  | debugStopRevocation (core : Nat)
  /-- LINK_DOWN (R284). -/
  | linkDown (die key port : Nat)
  /-- TOPOLOGY_MAP_CHANGE (R276). -/
  | topologyMapChange (changes : List (Nat × Nat × Nat × LinkState))
  /-- LAUNCH_ACCEPT (R20). -/
  | launchAccept (src : LaunchSrc)
  /-- PREPARED (R40). -/
  | prepared (launch : Nat) (member : Nat)
  /-- PREPARE_TIMEOUT (R40). -/
  | prepareTimeout (launch : Nat)
  /-- PREPARED_HOLD_TIMEOUT (R40). -/
  | preparedHoldTimeout (launch : Nat)
  /-- COMMIT (R40). -/
  | commit (launch : Nat)
  /-- COMMITTED (R40). -/
  | committed (launch : Nat) (member : Nat)
  /-- COMMITTED_TIMEOUT (R40). -/
  | committedTimeout (launch : Nat) (member : Nat)
  /-- ABORT (R40). -/
  | abort (launch : Nat)
  /-- LOST (R41). -/
  | lost (launch : Nat) (member : Nat)
  /-- MIGRATION_TIMEOUT (R292). -/
  | migrationTimeout (core thr : Nat)
  /-- COLLECTIVE_REGISTER (R42). -/
  | collectiveRegister (launch : Nat) (pa : Nat)
  /-- STORAGE_ENTRY (R304). -/
  | storageEntry (queue : Nat)
  /-- STORAGE_COMPLETION (R305). -/
  | storageCompletion (entry : Nat) (result : StorageResult)
  /-- OWNER_SCRUB (R47). -/
  | ownerScrub (owner : BitVec 4)
  /-- PAGE_MOVE (R292). -/
  | pageMove (page : Nat)
  /-- GATE_FREE (R206). -/
  | gateFree (gate : BitVec 12)
  /-- SHOOTDOWN (R180). -/
  | shootdown (dom : BitVec 8)
  /-- CLOCK_RESTORE_STEP (R412). -/
  | clockRestoreStep (die : Nat)
  /-- TRIP (R412). -/
  | trip (cause : TripCause)
  /-- ATOMICOP_COMPLETION (R294). -/
  | atomicOpCompletion (core thr : Nat) (reply : AtomicReply)
  /-- QUIESCENCE_SWEEP (R403). -/
  | quiescenceSweep (die : Nat)
  /-- CLOCK_THROTTLE_STEP (R412). -/
  | clockThrottleStep (die : Nat)
  /-- OWNER_FREEZE (R47). -/
  | ownerFreeze (owner : BitVec 4)
  /-- LOCK_RETURN (R412). -/
  | lockReturn (die : Nat)
  /-- ALARM_CONDITION_CLEAR (R412). -/
  | alarmConditionClear (die : Nat)
  /-- BR (R128). -/
  | br (off : BitVec 27)
  /-- BEQ (R129). -/
  | beq (a b : R) (off : BitVec 16)
  /-- BNE (R129). -/
  | bne (a b : R) (off : BitVec 16)
  /-- BLT (R129). -/
  | blt (a b : R) (off : BitVec 16)
  /-- BGE (R129). -/
  | bge (a b : R) (off : BitVec 16)
  /-- BLTN (R129). -/
  | bltn (a b : R) (off : BitVec 16)
  /-- BGEN (R129). -/
  | bgen (a b : R) (off : BitVec 16)
  /-- BBS (R130). -/
  | bbs (a : R) (k : BitVec 6) (off : BitVec 16)
  /-- BBC (R130). -/
  | bbc (a : R) (k : BitVec 6) (off : BitVec 16)
  /-- CALL (R128). -/
  | call (d : R) (off : BitVec 27)
  /-- JR (R131). -/
  | jr (a : R)
  /-- CALLR (R131). -/
  | callr (d a : R)
  /-- RET (R131). -/
  | ret (a : R)
  /-- LOOP (R134). -/
  | loop (n : Fin 3) (a : R) (off : BitVec 16)
  /-- LOOPI (R134). -/
  | loopi (n : Fin 3) (cnt : BitVec 10) (off : BitVec 16)
  /-- SPAWN (R137). -/
  | spawn (d a : R)
  /-- SPAWNL (R137). -/
  | spawnl (d a : R)
  /-- LAUNCH (R37). -/
  | launch (d a : R)
  /-- TRAP (R140). -/
  | trap (code : BitVec 11)
  /-- SRD (R109). -/
  | srd (d : R) (r : SysReg)
  /-- SWR (R109). -/
  | swr (d : R) (r : SysReg)
  /-- SSET (R109). -/
  | sset (d : R) (r : SysReg)
  /-- SCLR (R109). -/
  | sclr (d : R) (r : SysReg)
  /-- FENCE (R141). -/
  | fence (sc : Scope)
  /-- FENCE_ACQ (R141). -/
  | fenceAcq (sc : Scope)
  /-- FENCE_REL (R141). -/
  | fenceRel (sc : Scope)
  /-- BRK (R399). -/
  | brk (code : BitVec 11)
  /-- TRACE (R399). -/
  | trace (d : R) (tag : BitVec 11)
  /-- TSR (R399). -/
  | tsr (d : R) (mask : BitVec 5)
  /-- LD8 (R194). -/
  | ld8 (d a : R) (o : LdOrd) (off : BitVec 16)
  /-- LD16 (R194). -/
  | ld16 (d a : R) (o : LdOrd) (off : BitVec 16)
  /-- LD32 (R194). -/
  | ld32 (d a : R) (o : LdOrd) (off : BitVec 16)
  /-- LD64 (R194). -/
  | ld64 (d a : R) (o : LdOrd) (off : BitVec 16)
  /-- LDS8 (R194). -/
  | lds8 (d a : R) (o : LdOrd) (off : BitVec 16)
  /-- LDS16 (R194). -/
  | lds16 (d a : R) (o : LdOrd) (off : BitVec 16)
  /-- LDS32 (R194). -/
  | lds32 (d a : R) (o : LdOrd) (off : BitVec 16)
  /-- ST8 (R194). -/
  | st8 (d a : R) (o : StOrd) (off : BitVec 16)
  /-- ST16 (R194). -/
  | st16 (d a : R) (o : StOrd) (off : BitVec 16)
  /-- ST32 (R194). -/
  | st32 (d a : R) (o : StOrd) (off : BitVec 16)
  /-- ST64 (R194). -/
  | st64 (d a : R) (o : StOrd) (off : BitVec 16)
  /-- LDA (R195). -/
  | lda (d : R) (p : P) (sz : LdSize) (post : Bool)
  /-- STA (R195). -/
  | sta (d : R) (p : P) (sz : StSize) (post : Bool)
  /-- WATCH (R201). -/
  | watch (d a : R) (s : Bool)
  /-- WSLEEP (R202). -/
  | wsleep (d a : R)
  /-- PF (R203). -/
  | pf (a : R)
  /-- PFX (R203). -/
  | pfx (a : R)
  /-- CLEAN (R203). -/
  | clean (a : R)
  /-- INVAL (R203). -/
  | inval (a : R)
  /-- TAKE (R309). -/
  | take (d a : R)
  /-- TAKEN (R309). -/
  | taken (d a b : R)
  /-- PUT (R309). -/
  | put (a b : R)
  /-- PUTN (R309). -/
  | putn (d a b : R)
  /-- LDF (R309). -/
  | ldf (d a : R)
  /-- SETF (R309). -/
  | setf (a : R)
  /-- SETE (R309). -/
  | sete (a : R)
  /-- QTAG (R309). -/
  | qtag (d a : R)
  /-- AADD (R320). -/
  | aadd (d a b : R) (t : AType) (o : Order) (sc : XScope) (reuse : Bool)
  /-- AAND (R320). -/
  | aand (d a b : R) (t : AType) (o : Order) (sc : XScope) (reuse : Bool)
  /-- AOR (R320). -/
  | aor (d a b : R) (t : AType) (o : Order) (sc : XScope) (reuse : Bool)
  /-- AXOR (R320). -/
  | axor (d a b : R) (t : AType) (o : Order) (sc : XScope) (reuse : Bool)
  /-- AMIN (R320). -/
  | amin (d a b : R) (t : AType) (o : Order) (sc : XScope) (reuse : Bool)
  /-- AMAX (R320). -/
  | amax (d a b : R) (t : AType) (o : Order) (sc : XScope) (reuse : Bool)
  /-- AMINN (R320). -/
  | aminn (d a b : R) (t : AType) (o : Order) (sc : XScope) (reuse : Bool)
  /-- AMAXN (R320). -/
  | amaxn (d a b : R) (t : AType) (o : Order) (sc : XScope) (reuse : Bool)
  /-- ASWP (R320). -/
  | aswp (d a b : R) (t : AType) (o : Order) (sc : XScope) (reuse : Bool)
  /-- ACAS (R320). -/
  | acas (d a b c : R) (t : AType) (o : Order) (sc : XScope) (reuse : Bool)
  /-- RADD (R323). -/
  | radd (a b : R) (t : AType)
  /-- RAND (R323). -/
  | rand (a b : R) (t : AType)
  /-- ROR_REDUCE (R323). -/
  | rorReduce (a b : R) (t : AType)
  /-- RXOR (R323). -/
  | rxor (a b : R) (t : AType)
  /-- RMIN (R323). -/
  | rmin (a b : R) (t : AType)
  /-- RMAX (R323). -/
  | rmax (a b : R) (t : AType)
  /-- RFADD (R323). -/
  | rfadd (a b : R)
  /-- SWAIT (R313). -/
  | swait (k : BitVec 8) (v : BitVec 16)
  /-- SSIG (R313). -/
  | ssig (k : BitVec 8) (v : BitVec 16)
  /-- SRDK (R313). -/
  | srdk (d : R) (k : BitVec 8)
  /-- SSETK (R313). -/
  | ssetk (d : R) (k : BitVec 8)
  /-- BARJ (R317). -/
  | barj (d a : R)
  /-- BARA (R317). -/
  | bara (d a : R)
  /-- BARW (R317). -/
  | barw (d a b : R)
  /-- BARL (R317). -/
  | barl (d a : R)
  /-- VADD (R163). -/
  | vadd (d a b : R) (t : VType) (sat : Bool) (m : VCtl)
  /-- VSUB (R163). -/
  | vsub (d a b : R) (t : VType) (sat : Bool) (m : VCtl)
  /-- VMUL (R163). -/
  | vmul (d a b : R) (t : VType) (m : VCtl)
  /-- VMULH (R163). -/
  | vmulh (d a b : R) (t : VType) (m : VCtl)
  /-- VMIN (R163). -/
  | vmin (d a b : R) (t : VType) (m : VCtl)
  /-- VMAX (R163). -/
  | vmax (d a b : R) (t : VType) (m : VCtl)
  /-- VAND (R163). -/
  | vand (d a b : R) (t : VType) (m : VCtl)
  /-- VOR (R163). -/
  | vor (d a b : R) (t : VType) (m : VCtl)
  /-- VXOR (R163). -/
  | vxor (d a b : R) (t : VType) (m : VCtl)
  /-- VSHL (R163). -/
  | vshl (d a b : R) (t : VType) (m : VCtl)
  /-- VSHR (R163). -/
  | vshr (d a b : R) (t : VType) (m : VCtl)
  /-- VSRA (R163). -/
  | vsra (d a b : R) (t : VType) (m : VCtl)
  /-- VFADD (R164). -/
  | vfadd (d a b : R) (t : FType) (rm : Rnd) (m : VCtl)
  /-- VFSUB (R164). -/
  | vfsub (d a b : R) (t : FType) (rm : Rnd) (m : VCtl)
  /-- VFMUL (R164). -/
  | vfmul (d a b : R) (t : FType) (rm : Rnd) (m : VCtl)
  /-- VFMIN (R164). -/
  | vfmin (d a b : R) (t : FType) (rm : Rnd) (m : VCtl)
  /-- VFMAX (R164). -/
  | vfmax (d a b : R) (t : FType) (rm : Rnd) (m : VCtl)
  /-- VFDIV (R164). -/
  | vfdiv (d a b : R) (t : FType) (rm : Rnd) (m : VCtl)
  /-- VFSQRT (R164). -/
  | vfsqrt (d a : R) (t : FType) (rm : Rnd) (m : VCtl)
  /-- VFMA (R165). -/
  | vfma (d a b c : R) (t : FType) (rm : Rnd) (m : VCtl)
  /-- VFMS (R165). -/
  | vfms (d a b c : R) (t : FType) (rm : Rnd) (m : VCtl)
  /-- VFNMA (R165). -/
  | vfnma (d a b c : R) (t : FType) (rm : Rnd) (m : VCtl)
  /-- VFNMS (R165). -/
  | vfnms (d a b c : R) (t : FType) (rm : Rnd) (m : VCtl)
  /-- VCMP (R166). -/
  | vcmp (d a b : R) (cond : Cond) (t : VType) (m : VCtl)
  /-- VFCMP (R166). -/
  | vfcmp (d a b : R) (cond : FCond) (t : FType) (m : VCtl)
  /-- VCVT (R167). -/
  | vcvt (d a : R) (dst src : VType) (part : BitVec 5) (rm : Rnd) (m : VCtl)
  /-- VRSUM (R168). -/
  | vrsum (d a : R) (t : VType) (rm : Rnd) (m : VCtl)
  /-- VRMAX (R168). -/
  | vrmax (d a : R) (t : VType) (m : VCtl)
  /-- VRMIN (R168). -/
  | vrmin (d a : R) (t : VType) (m : VCtl)
  /-- VSHUF (R169). -/
  | vshuf (d a b : R) (t : VType) (m : VCtl)
  /-- VSLIDE (R169). -/
  | vslide (d a b : R) (t : VType) (m : VCtl)
  /-- VBCAST (R169). -/
  | vbcast (d a : R) (t : VType) (m : VCtl)
  /-- VZIP (R169). -/
  | vzip (d a b : R) (h : Bool) (t : VType) (m : VCtl)
  /-- VUNZIP (R169). -/
  | vunzip (d a b : R) (h : Bool) (t : VType) (m : VCtl)
  /-- VMOV (R170). -/
  | vmov (d a : R) (t : VType) (m : VCtl)
  /-- VMOVG (R170). -/
  | vmovg (d a : R) (k : BitVec 3) (reuse : Bool)
  /-- VEXT (R170). -/
  | vext (d a b : R) (t : VType) (reuse : Bool)
  /-- VINS (R170). -/
  | vins (d a b : R) (t : VType) (reuse : Bool)
  /-- VSEL (R171). -/
  | vsel (d a b c : R) (t : VType) (m : VCtl)
  /-- VMULQ (R172). -/
  | vmulq (d a b : R) (m : VCtl)
  /-- VADDQ (R172). -/
  | vaddq (d a b : R) (m : VCtl)
  /-- VSUBQ (R172). -/
  | vsubq (d a b : R) (m : VCtl)
  /-- VBFLY (R173). -/
  | vbfly (d a b c : R) (m : VCtl)
  /-- VIBFLY (R173). -/
  | vibfly (d a b c : R) (m : VCtl)
  /-- VEXP2 (R174). -/
  | vexp2 (d a : R) (t : FType) (m : VCtl)
  /-- VLOG2 (R174). -/
  | vlog2 (d a : R) (t : FType) (m : VCtl)
  /-- VRCP (R174). -/
  | vrcp (d a : R) (t : FType) (m : VCtl)
  /-- VRSQ (R174). -/
  | vrsq (d a : R) (t : FType) (m : VCtl)
  /-- VDOT (R175). -/
  | vdot (d a b : R) (t : DotType) (rm : Rnd) (m : VCtl)
  /-- VLD (R197). -/
  | vld (d a : R) (off : BitVec 16) (t : VType) (m : VCtl) (o : LdOrd)
  /-- VST (R197). -/
  | vst (d a : R) (off : BitVec 16) (t : VType) (m : VCtl) (o : StOrd)
  /-- VLDA (R197). -/
  | vlda (d : R) (p : P) (off : BitVec 16) (post : Bool) (t : VType) (m : VCtl) (o : LdOrd)
  /-- VSTA (R197). -/
  | vsta (d : R) (p : P) (off : BitVec 16) (post : Bool) (t : VType) (m : VCtl) (o : StOrd)
  /-- VGATH (R199). -/
  | vgath (d a b : R) (shift : BitVec 2) (off : BitVec 16) (t : GType) (m : VCtl) (o : LdOrd)
  /-- VSCAT (R199). -/
  | vscat (d a b : R) (shift : BitVec 2) (off : BitVec 16) (t : GType) (m : VCtl) (o : StOrd)
  /-- VAADD (R327). -/
  | vaadd (d a b : R) (shift : BitVec 2) (off : BitVec 16) (t : VAType) (m : VCtl) (o : Order) (sc : XScope)
  /-- VRADD (R327). -/
  | vradd (d a b : R) (shift : BitVec 2) (off : BitVec 16) (t : VAType) (m : VCtl)
  /-- VAMIN (R327). -/
  | vamin (d a b : R) (shift : BitVec 2) (off : BitVec 16) (t : VAType) (m : VCtl) (o : Order) (sc : XScope)
  /-- VAMAX (R327). -/
  | vamax (d a b : R) (shift : BitVec 2) (off : BitVec 16) (t : VAType) (m : VCtl) (o : Order) (sc : XScope)
  /-- VLDW (R200). -/
  | vldw (d : R) (p : P) (off : BitVec 16) (post : Bool) (t : FType) (m : VCtl)
  /-- MMA (R234). -/
  | mma (t : BitVec 4) (pa pb : P) (postA postB : Bool) (e : EngF)
  /-- MMAZ (R234). -/
  | mmaz (t : BitVec 4) (pa pb : P) (postA postB : Bool) (e : EngF)
  /-- MMAS (R235). -/
  | mmas (t : BitVec 4) (pa pb : P) (postA postB : Bool) (e : EngF)
  /-- MMAQ (R237). -/
  | mmaq (t : BitVec 4) (pa pb : P) (postA postB clear : Bool) (e : EngF)
  /-- AZERO (R239). -/
  | azero (t : BitVec 4) (k : Kind) (e : EngF)
  /-- ASTORE (R240). -/
  | astore (t : BitVec 4) (p : P) (k : Kind) (rm : Rnd) (e : EngF)
  /-- ALOAD (R239). -/
  | aload (t : BitVec 4) (p : P) (k : Kind) (e : EngF)
  /-- MQSTAT (R236). -/
  | mqstat (d : R)
  /-- SGEMV (R245). -/
  | sgemv (a : R) (px : P) (c : R) (x : SgemvX) (e : EngF)
  /-- SMAP (R243). -/
  | smap (d a : R)
  /-- SSTAT (R243). -/
  | sstat (d a : R)
  /-- CPYIN (R247). -/
  | cpyin (a b : R) (p : P) (e : EngF)
  /-- CPYOUT (R247). -/
  | cpyout (a b : R) (p : P) (e : EngF)
  /-- CPYPP (R247). -/
  | cpypp (a b : R) (p : P) (e : EngF)
  /-- CPYSC (R247). -/
  | cpysc (a b : R) (p : P) (e : EngF)
  /-- CPYMQ (R247). -/
  | cpymq (a : R) (count : BitVec 8) (e : EngF)
  /-- GATHER (R248). -/
  | gather (a : R) (pidx pdense : P) (x : IndexX) (e : EngF)
  /-- SCATTER (R248). -/
  | scatter (a : R) (pidx pdense : P) (x : IndexX) (e : EngF)
  /-- CRED (R249). -/
  | cred (op : CredOp) (t : CredType) (a b : R) (p : P) (e : EngF)
  /-- ECANCEL (R250). -/
  | ecancel (d : R) (mask : BitVec 3)
  /-- ESTAT (R250). -/
  | estat (d : R) (sel : Fin 6)
  /-- GJOIN (R254). -/
  | gjoin (d a : R)
  /-- GLEAVE (R254). -/
  | gleave (a : R)
  /-- GLOAD (R256). -/
  | gload (d a b : R) (p : P) (e : EngF)
  /-- GSTAT (R265). -/
  | gstat (d a : R)
  /-- RTSET (R279). -/
  | rtset (a b : R)
  /-- RTGET (R279). -/
  | rtget (d a : R) (sel : BitVec 2)
  /-- RTCHK (R279). -/
  | rtchk (d a : R)
  /-- SOPEN (R281). -/
  | sopen (ch : BitVec 2) (a b : R)
  /-- SCLOSE (R284). -/
  | sclose (d : R) (ch : BitVec 2)
  /-- SSEND (R283). -/
  | ssend (ch : BitVec 2) (a : R)
  /-- SSENDP (R283). -/
  | ssendp (ch : BitVec 2) (p : P) (post : Bool)
  /-- HALLOC (R336). -/
  | halloc (d a : R)
  /-- HFREE (R337). -/
  | hfree (a : R)
  /-- HSPLIT (R339). -/
  | hsplit (d a b : R)
  /-- HJOIN (R340). -/
  | hjoin (d a b : R)
  /-- HCPY_IN (R342). -/
  | hcpyIn (a : R) (p : P) (post : Bool)
  /-- HCPY_OUT (R342). -/
  | hcpyOut (a : R) (p : P) (post : Bool)
  /-- HMOV (R343). -/
  | hmov (d a : R)
  /-- HINFO (R344). -/
  | hinfo (d a : R) (sel : BitVec 2)
  /-- PUTH (R345). -/
  | puth (a b : R)
  /-- TAKEH (R345). -/
  | takeh (d a : R)
  /-- GCALL (R211). -/
  | gcall (gate : BitVec 12) (a b : R)
  /-- GOPEN (R208). -/
  | gopen (d a : R)
  /-- GCLOSE (R209). -/
  | gclose (a : R)
  /-- GQUERY (R209). -/
  | gquery (d a : R)
  /-- DSTAT (R217). -/
  | dstat (d : R) (sel : BitVec 2)
  /-- ADD (R111). -/
  | add (d a b : R)
  /-- SUB (R111). -/
  | sub (d a b : R)
  /-- AND (R111). -/
  | and (d a b : R)
  /-- OR (R111). -/
  | or (d a b : R)
  /-- XOR (R111). -/
  | xor (d a b : R)
  /-- ANDN (R111). -/
  | andn (d a b : R)
  /-- ORN (R111). -/
  | orn (d a b : R)
  /-- XNOR (R111). -/
  | xnor (d a b : R)
  /-- MIN (R111). -/
  | min (d a b : R)
  /-- MAX (R111). -/
  | max (d a b : R)
  /-- MINN (R111). -/
  | minn (d a b : R)
  /-- MAXN (R111). -/
  | maxn (d a b : R)
  /-- SHL (R112). -/
  | shl (d a b : R)
  /-- SHR (R112). -/
  | shr (d a b : R)
  /-- SRA (R112). -/
  | sra (d a b : R)
  /-- ROL (R112). -/
  | rol (d a b : R)
  /-- ROR_ROTATE (R112). -/
  | rorRotate (d a b : R)
  /-- SEQ (R113). -/
  | seq (d a b : R)
  /-- SNE (R113). -/
  | sne (d a b : R)
  /-- SLT (R113). -/
  | slt (d a b : R)
  /-- SLTN (R113). -/
  | sltn (d a b : R)
  /-- SLE (R113). -/
  | sle (d a b : R)
  /-- SLEN (R113). -/
  | slen (d a b : R)
  /-- ADDI (R114). -/
  | addi (d a : R) (imm : BitVec 11)
  /-- ANDI (R114). -/
  | andi (d a : R) (imm : BitVec 11)
  /-- ORI (R114). -/
  | ori (d a : R) (imm : BitVec 11)
  /-- XORI (R114). -/
  | xori (d a : R) (imm : BitVec 11)
  /-- SHLI (R115). -/
  | shli (d a : R) (s : BitVec 6)
  /-- SHRI (R115). -/
  | shri (d a : R) (s : BitVec 6)
  /-- SRAI (R115). -/
  | srai (d a : R) (s : BitVec 6)
  /-- LI (R117). -/
  | li (d : R) (imm : BitVec 16)
  /-- LIW (R118). -/
  | liw (d : R) (imm : Word)
  /-- MUL (R119). -/
  | mul (d a b : R)
  /-- MULH (R119). -/
  | mulh (d a b : R)
  /-- MULHN (R119). -/
  | mulhn (d a b : R)
  /-- MADD (R119). -/
  | madd (d a b : R)
  /-- DIV (R120). -/
  | div (d a b : R)
  /-- DIVN (R120). -/
  | divn (d a b : R)
  /-- REM (R120). -/
  | rem (d a b : R)
  /-- REMN (R120). -/
  | remn (d a b : R)
  /-- CLZ (R121). -/
  | clz (d a : R)
  /-- CTZ (R121). -/
  | ctz (d a : R)
  /-- POPC (R121). -/
  | popc (d a : R)
  /-- BREV (R121). -/
  | brev (d a : R)
  /-- BSWAP (R121). -/
  | bswap (d a : R)
  /-- BFX (R122). -/
  | bfx (d a b : R)
  /-- BFXS (R122). -/
  | bfxs (d a b : R)
  /-- BFI (R122). -/
  | bfi (d a b : R)
  /-- SETB (R116). -/
  | setb (d a : R) (k : BitVec 6)
  /-- CLRB (R116). -/
  | clrb (d a : R) (k : BitVec 6)
  /-- TGLB (R116). -/
  | tglb (d a : R) (k : BitVec 6)
  /-- SEL (R123). -/
  | sel (d a b : R)
  /-- ADDPC (R124). -/
  | addpc (d : R) (off : BitVec 27)
  /-- PSET (R125). -/
  | pset (p : P) (a b : R)
  /-- PADD (R125). -/
  | padd (p : P) (a : R)
  /-- PGET (R125). -/
  | pget (d : R) (p : P)
  /-- PSTR (R125). -/
  | pstr (p : P) (a : R)
  /-- MULQ (R126). -/
  | mulq (d a b : R)
  /-- ADDQ (R126). -/
  | addq (d a b : R)
  /-- SUBQ (R126). -/
  | subq (d a b : R)
  /-- QUEUE_TAIL_WRITE (R33). -/
  | queueTailWrite (queue : Nat) (tail : Word)
  /-- REVOKE_DOMAIN (R218). -/
  | revokeDomain (dom : BitVec 8)
  /-- OWNER_CREATE (R44). -/
  | ownerCreate (owner : BitVec 4) (cert : Nat) (spDefault : Option (BitVec 32)) (lending : Bool) (eventWord : Nat) (traceRing : Nat) (traceLen : Nat)
  /-- QUEUE_CREATE (R32). -/
  | queueCreate (queue : Nat) (owner : BitVec 4) (kiosk : Nat) (ring : Word) (entries : BitVec 32)
  /-- STORAGE_QUEUE_CREATE (R303). -/
  | storageQueueCreate (queue : Nat) (owner : BitVec 4) (dom : BitVec 8) (kiosk : Nat) (ns : Nat) (ring : Word) (entries : BitVec 32) (tailWord : Word)
  /-- OWNER_CHANGE (R51). -/
  | ownerChange (core : Nat) (valid : Bool) (owner : BitVec 4)
  /-- TDM_SCHEDULE_WRITE (R52). -/
  | tdmScheduleWrite (res : Resource) (slots : List Slot)
  /-- REFUSED_PACKET (R273). -/
  | refusedPacket (pkt : Nat) (hop : BitVec 4) (reason : BitVec 8)
  /-- MEMBER_CHANGED (R45). -/
  | memberChanged (module : Nat) (digests : Nat)
  /-- GET_VERSION (R43). -/
  | getVersion (session : Nat)
  /-- GET_CAPABILITIES (R43). -/
  | getCapabilities (session : Nat)
  /-- NEGOTIATE_ALGORITHMS (R43). -/
  | negotiateAlgorithms (session : Nat)
  /-- GET_DIGESTS (R43). -/
  | getDigests (session : Nat)
  /-- GET_CERTIFICATE (R43). -/
  | getCertificate (session : Nat)
  /-- CHALLENGE (R43). -/
  | challenge (session : Nat)
  /-- GET_MEASUREMENTS (R43). -/
  | getMeasurements (session : Nat)
  /-- KEY_EXCHANGE (R43). -/
  | keyExchange (session : Nat)
  /-- FINISH (R43). -/
  | finish (session : Nat) (cert : Nat)
  /-- END_SESSION (R43). -/
  | endSession (session : Nat)
  /-- INSTALL_KEY (R44). -/
  | installKey (session : Nat) (dom : BitVec 8) (key : BitVec 256)
  /-- RESUME_OWNER (R47). -/
  | resumeOwner (session : Nat) (owner : BitVec 4)
  /-- OWNER_DIGEST (R44). -/
  | ownerDigest (session : Nat) (owner : BitVec 4)
  /-- CXL_MEM_ACCESS (R289). -/
  | cxlMemAccess (pa : Nat) (write : Option (BitVec 512))
  /-- SNPDATA (R293). -/
  | snpData (pa : Nat)
  /-- SNPINV (R293). -/
  | snpInv (pa : Nat)
  /-- SNPCUR (R293). -/
  | snpCur (pa : Nat)
  /-- DEBUG_HALT (R392). -/
  | debugHalt (core : Nat) (req : Requester)
  /-- DEBUG_RESUME (R392). -/
  | debugResume (core : Nat) (req : Requester)
  /-- DBGDATA (R395). -/
  | dbgData (core : Nat) (req : Requester) (write : Option Word)
  /-- SENSOR_ALARM (R381). -/
  | sensorAlarm (die : BitVec 2) (sensor : Sensor) (reading : BitVec 8)
  /-- LOSS_OF_LOCK (R412). -/
  | lossOfLock (die : Nat)
  /-- REGISTER_WRITE (R109). -/
  | registerWrite (target : RegTarget) (req : Requester) (v : Word)
  /-- LTR_MESSAGE (R413). -/
  | ltrMessage (snoop noSnoop : Nat)
  /-- DOMAIN_CREATE (R204). -/
  | domainCreate (dom : BitVec 8) (owner : BitVec 4) (root : Word)
  /-- NOP (R72). -/
  | nop
  /-- END (R138). -/
  | endC
  /-- YIELD (R139). -/
  | yield
  /-- PARK (R139). -/
  | park
  /-- ERET (R379). -/
  | eret
  /-- WFI (R140). -/
  | wfi
  /-- FETCHF (R143). -/
  | fetchf
  /-- EFENCE (R142). -/
  | efence
  /-- MQCLR (R236). -/
  | mqclr
  /-- GRET (R214). -/
  | gret
  /-- GDONE_UNWIND (R217). -/
  | gdoneUnwind
  /-- GDONE_GIVE_UP (R216). -/
  | gdoneGiveUp
  /-- XFENCE_READ (R30). -/
  | xfenceRead
  /-- HOT_RESET (R46). -/
  | hotReset
  /-- CONTROL_LINK_RETURN (R47). -/
  | controlLinkReturn
  /-- CXL_LINK_DOWN (R300). -/
  | cxlLinkDown
  /-- STRANDED_CLEAR (R302). -/
  | strandedClear
  /-- MIGRATION_EPOCH (R290). -/
  | migrationEpoch
  /-- POWER_STATE_ENTRY (R413). -/
  | powerStateEntry
  /-- WAKE (R413). -/
  | wake
  /-- DATA_LINK_RETURN (R300). -/
  | dataLinkReturn
  deriving DecidableEq, Repr

end Sys2Proof
end

