-- ==== Sys2Proof/WellFormed.lean ====
section
/-! DEFINITION. Which terms of Instr an encoding of spec/ can hold: the operand limits that the types of
Syntax.lean do not already express. For the steps that no word encodes, the ranges of core and die
numbers (R3, R48). -/

namespace Sys2Proof

/-- The integer types, codes 0-7 (R77). -/
def VType.isInt : VType → Bool
  | .i8 | .i16 | .i32 | .i64 | .n8 | .n16 | .n32 | .n64 => true
  | _ => false

/-- The types 0-10, which permutes, moves and vector loads accept (R169, R196). -/
def VType.isMove : VType → Bool
  | .e4m3 | .e5m2 | .e2m1 => false
  | _ => true

/-- The types horizontal reductions accept (R168). -/
def VType.isReduce (t : VType) : Bool :=
  t.isInt || t = .fp32 || t = .fp16 || t = .bf16

/-- The width of a lane in bits (R158). -/
def VType.width : VType → Nat
  | .i8 | .n8 | .e4m3 | .e5m2 => 8
  | .i16 | .n16 | .fp16 | .bf16 => 16
  | .i32 | .n32 | .fp32 => 32
  | .i64 | .n64 => 64
  | .e2m1 => 4

/-- A VCVT has two different formats and a part index below the ratio of their widths (R167). -/
def vcvtOk (dst src : VType) (part : BitVec 5) : Bool :=
  dst != src &&
    part.toNat < (Nat.max dst.width src.width) / (Nat.min dst.width src.width)

/-- A zero threshold names k0, and a zero increment names k0 (R226). -/
def EngF.ok (e : EngF) : Bool :=
  (e.thr != 0 || e.kwait == 0) && (e.inc != 0 || e.ksig == 0)

/-- Core numbers: compute, Pavilion, Kiosk, and the model's number 0x448 for the Lodge. -/
def coreOk (core : Nat) : Bool := core ≤ 0x448

/-- A thread of a core. -/
def threadOk (core thr : Nat) : Bool := coreOk core && thr < 4

/-- Whether a term of Instr can stand in a program or on the agenda. -/
def WellFormed : Instr → Bool
  | .vadd _ _ _ t _ _ | .vsub _ _ _ t _ _ => t.isInt
  | .vmul _ _ _ t _ | .vmulh _ _ _ t _ | .vmin _ _ _ t _ | .vmax _ _ _ t _ => t.isInt
  | .vand _ _ _ t _ | .vor _ _ _ t _ | .vxor _ _ _ t _ => t.isInt
  | .vshl _ _ _ t _ | .vshr _ _ _ t _ | .vsra _ _ _ t _ => t.isInt
  | .vcmp _ _ _ _ t _ => t.isInt
  | .vcvt _ _ dst src part _ _ => vcvtOk dst src part
  | .vrsum _ _ t rm _ => t.isReduce && (!t.isInt || rm = .rn)
  | .vrmax _ _ t _ | .vrmin _ _ t _ => t.isReduce
  | .vdot _ _ _ t rm _ => t = .fp16 || t = .bf16 || rm = .rn
  | .vshuf _ _ _ t _ | .vslide _ _ _ t _ | .vbcast _ _ t _ => t.isMove
  | .vzip _ _ _ _ t _ | .vunzip _ _ _ _ t _ | .vmov _ _ t _ => t.isMove
  | .vext _ _ _ t _ | .vins _ _ _ t _ | .vsel _ _ _ _ t _ => t.isMove
  | .vbfly d _ _ _ _ | .vibfly d _ _ _ _ => d.toNat % 2 = 0
  | .vld _ _ _ t _ _ | .vst _ _ _ t _ _ => t.isMove
  | .vlda _ _ _ _ t _ _ | .vsta _ _ _ _ t _ _ => t.isMove
  | .mma _ _ _ _ _ e | .mmaz _ _ _ _ _ e | .mmas _ _ _ _ _ e | .mmaq _ _ _ _ _ _ e => e.ok
  | .azero _ _ e | .astore _ _ _ _ e | .aload _ _ _ e => e.ok
  | .sgemv _ _ c x e => e.ok && (x.ydst || c.toNat < 8)
  | .cpyin _ _ _ e | .cpyout _ _ _ e | .cpypp _ _ _ e | .cpysc _ _ _ e => e.ok
  | .cpymq _ count e => e.ok && 1 ≤ count.toNat && count.toNat ≤ 64
  | .gather _ _ _ _ e | .scatter _ _ _ _ e | .cred _ _ _ _ _ e => e.ok
  | .gload _ _ _ _ e => e.ok
  | .halloc d _ | .hjoin d _ _ | .hmov d _ | .takeh d _ => d != 0
  | .hsplit d _ _ => d != 0 && d.toNat % 2 = 0
  | .tvecWrite core thr _ _ => threadOk core thr
  | .wsleepLimit core thr | .asyncTrapDelivery core thr | .watchdog core thr => threadOk core thr
  | .budgetExpiry core thr _ => threadOk core thr
  | .continuationSelect core thr | .blockedPark core thr => threadOk core thr
  | .preemptionRequest core thr | .safePointPreemption core thr => threadOk core thr
  | .hardPreemption core thr | .unwind core thr | .forcedSave core thr => threadOk core thr
  | .unwindHandlerExpiry core thr | .migrationTimeout core thr => threadOk core thr
  | .atomicOpCompletion core thr _ => threadOk core thr
  | .blaxClear core _ | .uCopyEviction core _ | .commandStart core _ => coreOk core
  | .commandComplete core _ | .recordHoldBack core _ | .priorityPromotion core _ => coreOk core
  | .corePreemptionRequest core | .ownerChange core _ _ | .scrubEnd core => coreOk core
  | .debugHalt core _ | .debugStop core | .debugResume core _ => coreOk core
  | .debugStopRevocation core | .dbgData core _ _ => coreOk core
  | .groupTimerExpiry die _ | .prepare die _ | .linkDown die _ _ => die < 4
  | .quiescenceSweep die | .clockThrottleStep die | .clockRestoreStep die => die < 4
  | .lossOfLock die | .lockReturn die | .alarmConditionClear die => die < 4
  | _ => true

end Sys2Proof
end

