-- ==== Sys2Proof/Decode.lean ====
section
/-! DEFINITION. Instruction lines, heads, tails and the opcode map (spec/04_fetched.md R66-R84), and after
the decoder an encoder from the same tables. -/

namespace Sys2Proof

/-- Why a head is no instruction (R83 steps 2-6). The number is the index TINFO [23:16] reports: the
tail halfword of the offending field, 0xFF for the head itself (R84). -/
inductive DErr where
  | illegal (index : Nat)
  | reserved (index : Nat)
  deriving DecidableEq, Repr

/-- The core types that R83 tells apart: compute, Pavilion or Kiosk, and the Lodge. -/
inductive CoreType where
  | compute | control | lodge
  deriving DecidableEq, Repr

/-- The tail formats of R77; `l` is LIW's and `x` is format E with an X word (R79). -/
inductive Fmt where
  | z | r | i | b | j | v | m | e | l | x
  deriving DecidableEq, Repr

/-- A guard (R73): the instruction executes when the bit differs from `sense`. -/
structure Guard where
  reg   : R
  bit   : BitVec 6
  sense : Bool
  deriving DecidableEq, Repr

/-- A decoded head: its instruction, its guard, and the live mask when it is a safe point (R75). -/
structure Decoded where
  instr : Instr
  guard : Option Guard
  safe  : Option Word
  deriving DecidableEq, Repr

/-! ### Halfword fields (R71, R77) -/

/-- Major opcode of a head. -/
def headOp (h : Half) : BitVec 7 := h.extractLsb' 6 7

/-- The d field of a head. -/
def headD (h : Half) : R := h.extractLsb' 1 5

/-- The ts code of a head. -/
def headTs (h : Half) : BitVec 2 := h.extractLsb' 14 2

/-- The sp bit of a head. -/
def headSp (h : Half) : Bool := h.getLsbD 13

/-- The g bit of a head. -/
def headG (h : Half) : Bool := h.getLsbD 0

/-- A head from its fields (R71). -/
def mkHead (ts : BitVec 2) (sp : Bool) (op : BitVec 7) (d : R) (g : Bool) : Half :=
  ts ++ BitVec.ofBool sp ++ op ++ d ++ BitVec.ofBool g

/-- Tail field a, [15:11]. -/
def fieldA (h : Half) : R := h.extractLsb' 11 5

/-- Tail field b, [10:6]. -/
def fieldB (h : Half) : R := h.extractLsb' 6 5

/-- Tail field fn, [5:0]. -/
def fieldFn (h : Half) : BitVec 6 := h.extractLsb' 0 6

/-- Tail field imm11, [10:0]. -/
def fieldImm (h : Half) : BitVec 11 := h.extractLsb' 0 11

/-- The 27-bit immediate of format J. -/
def fieldImm27 (h0 h1 : Half) : BitVec 27 := fieldImm h0 ++ h1

/-- A halfword a, b, fn. -/
def mkABF (a b : R) (fn : BitVec 6) : Half := a ++ b ++ fn

/-- A halfword a, imm11. -/
def mkAI (a : R) (imm : BitVec 11) : Half := a ++ imm

/-! ### Codes (R77 and the tables of each chapter) -/

/-- Codes of the type field. -/
def VType.code : VType → BitVec 4
  | .i8 => 0 | .i16 => 1 | .i32 => 2 | .i64 => 3 | .n8 => 4 | .n16 => 5 | .n32 => 6 | .n64 => 7
  | .fp32 => 8 | .fp16 => 9 | .bf16 => 10 | .e4m3 => 11 | .e5m2 => 12 | .e2m1 => 13

/-- The type of a code. -/
def VType.ofCode (c : BitVec 4) : Option VType :=
  [VType.i8, .i16, .i32, .i64, .n8, .n16, .n32, .n64, .fp32, .fp16, .bf16, .e4m3, .e5m2, .e2m1][c.toNat]?

/-- Codes of the rnd field. -/
def Rnd.code : Rnd → BitVec 3
  | .rn => 0 | .rz => 1 | .rd => 2 | .ru => 3 | .rna => 4

/-- The rounding mode of a code. -/
def Rnd.ofCode (c : BitVec 3) : Option Rnd := [Rnd.rn, .rz, .rd, .ru, .rna][c.toNat]?

/-- Codes of a scope. -/
def Scope.code : Scope → BitVec 3
  | .t => 0 | .c => 1 | .d => 2 | .p => 3 | .s => 4

/-- The scope of a code. -/
def Scope.ofCode (c : BitVec 3) : Option Scope := [Scope.t, .c, .d, .p, .s][c.toNat]?

/-- Codes of the scopes of atomics and engine commands. -/
def XScope.code : XScope → BitVec 3
  | .c => 1 | .d => 2 | .p => 3 | .s => 4

/-- The scope of a code, none for scope T and 5-7 (R226, R319). -/
def XScope.ofCode (c : BitVec 3) : Option XScope :=
  [none, some XScope.c, some .d, some .p, some .s].getD c.toNat none

/-- Codes of an order. -/
def Order.code : Order → BitVec 2
  | .rlx => 0 | .acq => 1 | .rel => 2 | .ar => 3

/-- The order of a code. -/
def Order.ofCode (c : BitVec 2) : Order := [Order.rlx, .acq, .rel, .ar].getD c.toNat .rlx

/-- Numbers of the system registers (R102). -/
def SysReg.code : SysReg → BitVec 11
  | .thread => 0x000 | .core => 0x001 | .owner => 0x002 | .domid => 0x003 | .ddepth => 0x004
  | .tvec => 0x008 | .tcause => 0x009 | .tpc => 0x00A | .taddr => 0x00B | .tinfo => 0x00C
  | .vresume => 0x00D | .qmod => 0x010 | .qmu => 0x011 | .pb1 => 0x018 | .pb2 => 0x019
  | .pb3 => 0x01A | .spbudget => 0x020 | .wdog => 0x021 | .tsc => 0x028 | .fetchctl => 0x030
  | .blax => 0x038 | .blad => 0x039

/-- The system register of a number. -/
def SysReg.ofCode (c : BitVec 11) : Option SysReg :=
  [SysReg.thread, .core, .owner, .domid, .ddepth, .tvec, .tcause, .tpc, .taddr, .tinfo, .vresume,
    .qmod, .qmu, .pb1, .pb2, .pb3, .spbudget, .wdog, .tsc, .fetchctl, .blax, .blad].find?
    (fun r => r.code == c)

/-- Codes of the conditions of VFCMP; VCMP uses the first six (R82). -/
def FCond.code : FCond → BitVec 3
  | .eq => 0 | .ne => 1 | .lt => 2 | .le => 3 | .gt => 4 | .ge => 5 | .un => 6 | .or => 7

/-- The condition of a code. -/
def FCond.ofCode (c : BitVec 3) : FCond :=
  [FCond.eq, .ne, .lt, .le, .gt, .ge, .un, .or].getD c.toNat .eq

/-- Codes of the conditions of VCMP. -/
def Cond.code : Cond → BitVec 3
  | .eq => 0 | .ne => 1 | .lt => 2 | .le => 3 | .gt => 4 | .ge => 5

/-- The condition of a code, none for UN and OR (R166). -/
def Cond.ofCode (c : BitVec 3) : Option Cond := [Cond.eq, .ne, .lt, .le, .gt, .ge][c.toNat]?

/-- Size codes of LDA (R195). -/
def LdSize.code : LdSize → BitVec 3
  | .z8 => 0 | .z16 => 1 | .z32 => 2 | .z64 => 3 | .s8 => 4 | .s16 => 5 | .s32 => 6

/-- The size of a code. -/
def LdSize.ofCode (c : BitVec 3) : Option LdSize :=
  [LdSize.z8, .z16, .z32, .z64, .s8, .s16, .s32][c.toNat]?

/-- Size codes of STA. -/
def StSize.code : StSize → BitVec 3
  | .z8 => 0 | .z16 => 1 | .z32 => 2 | .z64 => 3

/-- The size of a code. -/
def StSize.ofCode (c : BitVec 3) : Option StSize := [StSize.z8, .z16, .z32, .z64][c.toNat]?

/-- Atomic types as lane types (R319). -/
def AType.toV : AType → VType
  | .i32 => .i32 | .i64 => .i64 | .n32 => .n32 | .n64 => .n64

/-- The atomic type of a type code. -/
def AType.ofCode (c : BitVec 4) : Option AType := [AType.i32, .i64, .n32, .n64].find? (·.toV.code == c)

/-- Vector atomic types as lane types (R326). -/
def VAType.toV : VAType → VType
  | .i32 => .i32 | .i64 => .i64 | .n32 => .n32 | .n64 => .n64 | .fp32 => .fp32

/-- The vector atomic type of a type code. -/
def VAType.ofCode (c : BitVec 4) : Option VAType :=
  [VAType.i32, .i64, .n32, .n64, .fp32].find? (·.toV.code == c)

/-- Gather types as lane types (R198). -/
def GType.toV : GType → VType
  | .i32 => .i32 | .i64 => .i64 | .n32 => .n32 | .n64 => .n64 | .fp32 => .fp32

/-- The gather type of a type code. -/
def GType.ofCode (c : BitVec 4) : Option GType :=
  [GType.i32, .i64, .n32, .n64, .fp32].find? (·.toV.code == c)

/-- Floating lane types as lane types (R164). -/
def FType.toV : FType → VType
  | .fp32 => .fp32 | .fp16 => .fp16 | .bf16 => .bf16

/-- The floating lane type of a type code. -/
def FType.ofCode (c : BitVec 4) : Option FType := [FType.fp32, .fp16, .bf16].find? (·.toV.code == c)

/-- Dot-product types as lane types (R175). -/
def DotType.toV : DotType → VType
  | .i8 => .i8 | .n8 => .n8 | .fp16 => .fp16 | .bf16 => .bf16

/-- The dot-product type of a type code. -/
def DotType.ofCode (c : BitVec 4) : Option DotType :=
  [DotType.i8, .n8, .fp16, .bf16].find? (·.toV.code == c)

/-- Codes of the kinds of ALOAD and ASTORE (R238). -/
def Kind.code : Kind → BitVec 2
  | .fp32 => 0 | .i32 => 1 | .n64 => 2

/-- The kind of a code. -/
def Kind.ofCode (c : BitVec 2) : Option Kind := [Kind.fp32, .i32, .n64][c.toNat]?

/-- CRED types as lane types (R249). -/
def CredType.toV : CredType → VType
  | .i32 => .i32 | .i64 => .i64 | .n32 => .n32 | .n64 => .n64 | .fp32 => .fp32 | .fp16 => .fp16
  | .bf16 => .bf16

/-- The CRED type of a type code. -/
def CredType.ofCode (c : BitVec 4) : Option CredType :=
  [CredType.i32, .i64, .n32, .n64, .fp32, .fp16, .bf16].find? (·.toV.code == c)

/-- Codes of the CRED operations (R249). -/
def CredOp.code : CredOp → BitVec 2
  | .add => 0 | .min => 1 | .max => 2

/-- The CRED operation of a code. -/
def CredOp.ofCode (c : BitVec 2) : Option CredOp := [CredOp.add, .min, .max][c.toNat]?

/-- The ordering field of a load: scope [4:2], order [1:0] (R192). -/
def LdOrd.code : LdOrd → BitVec 5
  | .rlx => 0
  | .acq sc => sc.code ++ 1#2

/-- The ordering field of a store. -/
def StOrd.code : StOrd → BitVec 5
  | .rlx => 0
  | .rel sc => sc.code ++ 2#2

/-! ### Checks -/

/-- A check of steps 4 and 5: an unassigned code in halfword `ix`. -/
def ill (ok : Bool) (ix : Nat) : Except DErr Unit := if ok then .ok () else .error (.illegal ix)

/-- A check of step 6: a field that must be zero, in halfword `ix`. -/
def res (ok : Bool) (ix : Nat) : Except DErr Unit := if ok then .ok () else .error (.reserved ix)

/-- A code of step 5. -/
def need {α : Type} (o : Option α) (ix : Nat) : Except DErr α :=
  match o with
  | some x => .ok x
  | none => .error (.illegal ix)

/-- The form that a selector in halfword `ix` names (R81). -/
def pick (n : Nat) (forms : List Instr) (ix : Nat) : Except DErr Instr := need forms[n]? ix

/-- A pointer selector: 8-31 is illegal (R125). -/
def needP (f : R) (ix : Nat) : Except DErr P :=
  if f.toNat < 8 then .ok (f.setWidth 3) else .error (.illegal ix)

/-- A one-bit field of five bits: 2-31 is illegal (R196). -/
def needBit (f : R) (ix : Nat) : Except DErr Bool :=
  if f.toNat < 2 then .ok (f.getLsbD 0) else .error (.illegal ix)

/-- A load's order and scope from their codes, in halfword `ix` (R192). -/
def needLd (sc : BitVec 3) (o : BitVec 2) (ix : Nat) : Except DErr LdOrd := do
  let s ← need (Scope.ofCode sc) ix
  ill (o == 0 || o == 1) ix
  if o = 1 then pure (.acq s)
  else do
    res (sc == 0) ix
    pure .rlx

/-- A store's order and scope. -/
def needSt (sc : BitVec 3) (o : BitVec 2) (ix : Nat) : Except DErr StOrd := do
  let s ← need (Scope.ofCode sc) ix
  ill (o == 0 || o == 2) ix
  if o = 2 then pure (.rel s)
  else do
    res (sc == 0) ix
    pure .rlx

/-- The branch target field of format B and its registers. -/
def decodeB (fn4 : Nat) (forms : List Instr) (d : R) (h0 : Half) : Except DErr Instr := do
  let i ← pick fn4 forms 0
  res (d == 0) 0xFF
  res (h0.extractLsb' 0 2 == 0) 0
  pure i

/-- The V format's halfword 1 (R160): c, type, rnd, reuse, mk. -/
structure VWord where
  c    : R
  type : BitVec 4
  rnd  : BitVec 3
  ctl  : VCtl
  deriving DecidableEq, Repr

/-- Reads halfword 1 of format V or M; in format M `rnd` is ptr. -/
def vWord (h : Half) : VWord :=
  ⟨h.extractLsb' 11 5, h.extractLsb' 7 4, h.extractLsb' 4 3, ⟨h.extractLsb' 0 3, h.getLsbD 3⟩⟩

/-- Writes halfword 1 of format V or M. -/
def VWord.half (w : VWord) : Half :=
  w.c ++ w.type ++ w.rnd ++ BitVec.ofBool w.ctl.reuse ++ w.ctl.sel

/-- The engine fields of format E (R226): eng [7:0] and the semaphore fields. -/
def needE (t : List Half) : Except DErr (BitVec 8 × EngF) := do
  let h1 := t.getD 1 0
  let h2 := t.getD 2 0
  let h3 := t.getD 3 0
  let sc ← need (XScope.ofCode (h1.extractLsb' 8 3)) 1
  pure (h1.extractLsb' 0 8, ⟨sc, h2.extractLsb' 8 8, h2.extractLsb' 0 8, h3.extractLsb' 8 8, h3.extractLsb' 0 8⟩)

/-- The reserved semaphore fields of R226. -/
def resE (e : EngF) : Except DErr Unit := do
  res (e.thr != 0 || e.kwait == 0) 2
  res (e.inc != 0 || e.ksig == 0) 3

/-- The 64-bit word of four halfwords, the lowest first. -/
def word4 (l : List Half) : Word := l.getD 3 0 ++ l.getD 2 0 ++ l.getD 1 0 ++ l.getD 0 0

/-- The four halfwords of a 64-bit word, the lowest first. -/
def halves4 (w : Word) : List Half :=
  [w.extractLsb' 0 16, w.extractLsb' 16 16, w.extractLsb' 32 16, w.extractLsb' 48 16]

/-! ### Families -/

/-- Majors 0x00-0x0F (chapters 6 and 19, R36, R108). -/
def decodeControl (op : Nat) (d : R) (t : List Half) : Except DErr Instr :=
  let h0 := t.getD 0 0
  let h1 := t.getD 1 0
  let a := fieldA h0
  let b := fieldB h0
  let fn := (fieldFn h0).toNat
  let fn4 := (h0.extractLsb' 2 4).toNat
  let imm := fieldImm h0
  match op with
  | 0x00 => do
    res (d == 0) 0xFF
    pure .nop
  | 0x01 => do
    res (d == 0) 0xFF
    res (a == 0) 0
    pure (.br (fieldImm27 h0 h1))
  | 0x02 => decodeB fn4 [.beq a b h1, .bne a b h1, .blt a b h1, .bge a b h1, .bltn a b h1, .bgen a b h1] d h0
  | 0x03 => do
    let k : BitVec 6 := d.extractLsb' 0 1 ++ b
    let i ← pick fn4 [.bbs a k h1, .bbc a k h1] 0
    res (d.extractLsb' 1 4 == 0) 0xFF
    res (h0.extractLsb' 0 2 == 0) 0
    pure i
  | 0x04 => do
    res (a == 0) 0
    pure (.call d (fieldImm27 h0 h1))
  | 0x05 => do
    let i ← pick fn [.jr a, .callr d a, .ret a] 0
    res (fn == 1 || d == 0) 0xFF
    res (b == 0) 0
    pure i
  | 0x06 => do
    ill (fn4 == 0) 0
    ill (b.toNat < 3) 0
    res (d == 0) 0xFF
    res (h0.extractLsb' 0 2 == 0) 0
    pure (.loop (Fin.ofNat 3 b.toNat) a h1)
  | 0x07 => do
    ill (fn4 == 0) 0
    ill (b.toNat < 3) 0
    res (h0.extractLsb' 0 2 == 0) 0
    pure (.loopi (Fin.ofNat 3 b.toNat) (d ++ a) h1)
  | 0x08 => do
    let i ← pick fn [.spawn d a, .spawnl d a] 0
    res (b == 0) 0
    pure i
  | 0x09 => do
    res (d == 0) 0xFF
    pure .endC
  | 0x0A => pick d.toNat [.yield, .park] 0xFF
  | 0x0B => do
    let i ← pick fn [.launch d a] 0
    res (b == 0) 0
    pure i
  | 0x0C => do
    let i ← pick a.toNat [.trap imm, .eret, .wfi] 0
    res (d == 0) 0xFF
    res (a == 0 || imm == 0) 0
    pure i
  | 0x0D => do
    ill (a.toNat < 4) 0
    let r ← need (SysReg.ofCode imm) 0
    pick a.toNat [.srd d r, .swr d r, .sset d r, .sclr d r] 0
  | 0x0E =>
    if d.toNat = 24 then pure .fetchf
    else if d.toNat = 25 then pure .efence
    else do
      let sc ← need (Scope.ofCode (d.extractLsb' 0 3)) 0xFF
      pick (d.toNat / 8) [.fence sc, .fenceAcq sc, .fenceRel sc] 0xFF
  | 0x0F => do
    let i ← pick a.toNat [.brk imm, .trace d imm, .tsr d (imm.extractLsb' 0 5)] 0
    res (a != 0 || d == 0) 0xFF
    res (a.toNat != 2 || imm.extractLsb' 5 6 == 0) 0
    pure i
  | _ => .error (.illegal 0xFF)

/-- Majors 0x10-0x22 (chapter 5). -/
noncomputable def decodeScalar (op : Nat) (d : R) (t : List Half) : Except DErr Instr :=
  let h0 := t.getD 0 0
  let h1 := t.getD 1 0
  let a := fieldA h0
  let b := fieldB h0
  let fn := (fieldFn h0).toNat
  let imm := fieldImm h0
  let k6 := h0.extractLsb' 0 6
  match op with
  | 0x10 => pick fn [.add d a b, .sub d a b, .and d a b, .or d a b, .xor d a b, .andn d a b, .orn d a b,
      .xnor d a b, .min d a b, .max d a b, .minn d a b, .maxn d a b] 0
  | 0x11 => pick fn [.shl d a b, .shr d a b, .sra d a b, .rol d a b, .rorRotate d a b] 0
  | 0x12 => pick fn [.seq d a b, .sne d a b, .slt d a b, .sltn d a b, .sle d a b, .slen d a b] 0
  | 0x13 => pure (.addi d a imm)
  | 0x14 => pure (.andi d a imm)
  | 0x15 => pure (.ori d a imm)
  | 0x16 => pure (.xori d a imm)
  | 0x17 => do
    let i ← pick (h0.extractLsb' 8 3).toNat [.shli d a k6, .shri d a k6, .srai d a k6] 0
    res (h0.extractLsb' 6 2 == 0) 0
    pure i
  | 0x18 => pure (.li d h0)
  | 0x19 => pure (.liw d (word4 t))
  | 0x1A => pick fn [.mul d a b, .mulh d a b, .mulhn d a b, .madd d a b] 0
  | 0x1B => pick fn [.div d a b, .divn d a b, .rem d a b, .remn d a b] 0
  | 0x1C => do
    let i ← pick fn [.clz d a, .ctz d a, .popc d a, .brev d a, .bswap d a] 0
    res (b == 0) 0
    pure i
  | 0x1D => pick fn [.bfx d a b, .bfxs d a b, .bfi d a b] 0
  | 0x1E => do
    let i ← pick (h0.extractLsb' 8 3).toNat [.setb d a k6, .clrb d a k6, .tglb d a k6] 0
    res (h0.extractLsb' 6 2 == 0) 0
    pure i
  | 0x1F => pick fn [.sel d a b] 0
  | 0x20 => do
    res (a == 0) 0
    pure (.addpc d (fieldImm27 h0 h1))
  | 0x21 =>
    match fn with
    | 0 => do
      let p ← needP d 0xFF
      pure (.pset p a b)
    | 1 => do
      let p ← needP d 0xFF
      res (b == 0) 0
      pure (.padd p a)
    | 2 => do
      let p ← needP a 0
      res (b == 0) 0
      pure (.pget d p)
    | 3 => do
      let p ← needP d 0xFF
      res (b == 0) 0
      pure (.pstr p a)
    | _ => .error (.illegal 0)
  | 0x22 => pick fn [.mulq d a b, .addq d a b, .subq d a b] 0
  | _ => .error (.illegal 0xFF)

/-- Majors 0x28-0x2C (chapter 9). -/
def decodeMemory (op : Nat) (d : R) (t : List Half) : Except DErr Instr :=
  let h0 := t.getD 0 0
  let h1 := t.getD 1 0
  let a := fieldA h0
  let b := fieldB h0
  let fn := (fieldFn h0).toNat
  let fn4 := (h0.extractLsb' 2 4).toNat
  let sc := b.extractLsb' 2 3
  let od := b.extractLsb' 0 2
  match op with
  | 0x28 => do
    ill (fn4 < 7) 0
    let o ← needLd sc od 0
    let i ← pick fn4 [.ld8 d a o h1, .ld16 d a o h1, .ld32 d a o h1, .ld64 d a o h1, .lds8 d a o h1,
      .lds16 d a o h1, .lds32 d a o h1] 0
    res (h0.extractLsb' 0 2 == 0) 0
    pure i
  | 0x29 => do
    ill (fn4 < 4) 0
    let o ← needSt sc od 0
    let i ← pick fn4 [.st8 d a o h1, .st16 d a o h1, .st32 d a o h1, .st64 d a o h1] 0
    res (h0.extractLsb' 0 2 == 0) 0
    pure i
  | 0x2A =>
    match fn with
    | 0 => do
      let p ← needP a 0
      let z ← need (LdSize.ofCode (b.extractLsb' 0 3)) 0
      res (b.extractLsb' 4 1 == 0) 0
      pure (.lda d p z (b.getLsbD 3))
    | 1 => do
      let p ← needP a 0
      let z ← need (StSize.ofCode (b.extractLsb' 0 3)) 0
      res (b.extractLsb' 4 1 == 0) 0
      pure (.sta d p z (b.getLsbD 3))
    | _ => .error (.illegal 0)
  | 0x2B => do
    let i ← pick fn [.watch d a (b.getLsbD 0), .wsleep d a] 0
    res (if fn = 0 then b.extractLsb' 1 4 == 0 else b == 0) 0
    pure i
  | 0x2C => do
    let i ← pick fn [.pf a, .pfx a, .clean a, .inval a] 0
    res (d == 0) 0xFF
    res (b == 0) 0
    pure i
  | _ => .error (.illegal 0xFF)

/-- Majors 0x30-0x39 (chapter 15). -/
def decodeSync (op : Nat) (d : R) (t : List Half) : Except DErr Instr :=
  let h0 := t.getD 0 0
  let h1 := t.getD 1 0
  let a := fieldA h0
  let b := fieldB h0
  let fn := (fieldFn h0).toNat
  match op with
  | 0x30 => do
    let i ← pick fn [.take d a, .taken d a b] 0
    res (fn == 1 || b == 0) 0
    pure i
  | 0x31 => do
    let i ← pick fn [.put a b, .putn d a b] 0
    res (fn == 1 || d == 0) 0xFF
    pure i
  | 0x32 => do
    let i ← pick fn [.ldf d a, .setf a, .sete a, .qtag d a] 0
    res (fn == 0 || fn == 3 || d == 0) 0xFF
    res (b == 0) 0
    pure i
  | 0x33 => do
    let w := vWord h1
    let o := Order.ofCode (h0.extractLsb' 0 2)
    ill (fn < 40) 0
    let ty ← need (AType.ofCode w.type) 1
    let sc ← need (XScope.ofCode w.rnd) 1
    let u := w.ctl.reuse
    let i ← pick (fn / 4) [.aadd d a b ty o sc u, .aand d a b ty o sc u, .aor d a b ty o sc u,
      .axor d a b ty o sc u, .amin d a b ty o sc u, .amax d a b ty o sc u, .aminn d a b ty o sc u,
      .amaxn d a b ty o sc u, .aswp d a b ty o sc u, .acas d a b w.c ty o sc u] 0
    res (fn / 4 == 9 || w.c == 0) 1
    res (w.ctl.sel == 0) 1
    pure i
  | 0x34 =>
    if fn = 6 then do
      ill (d.extractLsb' 0 4 == VType.fp32.code) 0xFF
      res (d.extractLsb' 4 1 == 0) 0xFF
      pure (.rfadd a b)
    else do
      ill (fn < 7) 0
      let ty ← need (AType.ofCode (d.extractLsb' 0 4)) 0xFF
      res (d.extractLsb' 4 1 == 0) 0xFF
      pick fn [.radd a b ty, .rand a b ty, .rorReduce a b ty, .rxor a b ty, .rmin a b ty, .rmax a b ty] 0
  | 0x38 => do
    let im := fieldImm27 h0 h1
    let k := im.extractLsb' 0 8
    let v := im.extractLsb' 8 16
    let i ← pick a.toNat [.swait k v, .ssig k v, .srdk d k, .ssetk d k] 0
    res (2 ≤ a.toNat || d == 0) 0xFF
    res (im.extractLsb' 24 3 == 0) 0
    res (a.toNat < 2 || im.extractLsb' 16 8 == 0) 0
    res (a.toNat < 2 || im.extractLsb' 8 8 == 0) 1
    pure i
  | 0x39 => do
    let i ← pick fn [.barj d a, .bara d a, .barw d a b, .barl d a] 0
    res (fn == 2 || b == 0) 0
    pure i
  | _ => .error (.illegal 0xFF)

/-- Majors 0x40-0x4C (chapter 8). DESIGN CHOICE (log entry 67): of two fields that fail the same step of R83, b is tested before c and d
before the type; spec/ gives no order within a step. -/
def decodeVector (op : Nat) (d : R) (t : List Half) : Except DErr Instr :=
  let h0 := t.getD 0 0
  let w := vWord (t.getD 1 0)
  let a := fieldA h0
  let b := fieldB h0
  let fn := (fieldFn h0).toNat
  let m := w.ctl
  match op with
  | 0x40 => do
    ill (fn < 12) 0
    let ty ← need (VType.ofCode w.type) 1
    ill ty.isInt 1
    ill (2 ≤ fn || w.rnd.toNat < 2) 1
    let sat := w.rnd.getLsbD 0
    let i ← pick fn [.vadd d a b ty sat m, .vsub d a b ty sat m, .vmul d a b ty m, .vmulh d a b ty m,
      .vmin d a b ty m, .vmax d a b ty m, .vand d a b ty m, .vor d a b ty m, .vxor d a b ty m,
      .vshl d a b ty m, .vshr d a b ty m, .vsra d a b ty m] 0
    res (w.c == 0) 1
    res (fn < 2 || w.rnd == 0) 1
    pure i
  | 0x41 => do
    ill (fn < 7) 0
    let ty ← need (FType.ofCode w.type) 1
    let rm ← need (Rnd.ofCode w.rnd) 1
    let i ← pick fn [.vfadd d a b ty rm m, .vfsub d a b ty rm m, .vfmul d a b ty rm m, .vfmin d a b ty rm m,
      .vfmax d a b ty rm m, .vfdiv d a b ty rm m, .vfsqrt d a ty rm m] 0
    res (fn != 6 || b == 0) 0
    res (w.c == 0) 1
    pure i
  | 0x42 => do
    ill (fn < 4) 0
    let ty ← need (FType.ofCode w.type) 1
    let rm ← need (Rnd.ofCode w.rnd) 1
    pick fn [.vfma d a b w.c ty rm m, .vfms d a b w.c ty rm m, .vfnma d a b w.c ty rm m,
      .vfnms d a b w.c ty rm m] 0
  | 0x43 => do
    let c := h0.extractLsb' 0 3
    let i ← if h0.getLsbD 5 then do
        let ty ← need (FType.ofCode w.type) 1
        pure (Instr.vfcmp d a b (FCond.ofCode c) ty m)
      else do
        let cc ← need (Cond.ofCode c) 0
        let ty ← need (VType.ofCode w.type) 1
        ill ty.isInt 1
        pure (Instr.vcmp d a b cc ty m)
    res (h0.extractLsb' 3 2 == 0) 0
    res (w.c == 0) 1
    res (w.rnd == 0) 1
    pure i
  | 0x44 => do
    ill (fn == 0) 0
    let src ← need (if b.getLsbD 4 then none else VType.ofCode (b.extractLsb' 0 4)) 0
    let dst ← need (VType.ofCode w.type) 1
    let rm ← need (Rnd.ofCode w.rnd) 1
    ill (dst != src) 0
    ill (vcvtOk dst src w.c) 1
    pure (.vcvt d a dst src w.c rm m)
  | 0x45 => do
    ill (fn < 3) 0
    let ty ← need (VType.ofCode w.type) 1
    ill ty.isReduce 1
    let rm ← if fn = 0 && !ty.isInt then need (Rnd.ofCode w.rnd) 1 else pure .rn
    let i ← pick fn [.vrsum d a ty rm m, .vrmax d a ty m, .vrmin d a ty m] 0
    res (b == 0) 0
    res (w.c == 0) 1
    res ((fn == 0 && !ty.isInt) || w.rnd == 0) 1
    pure i
  | 0x46 => do
    ill (fn < 5) 0
    let ty ← need (VType.ofCode w.type) 1
    ill ty.isMove 1
    ill (fn < 3 || w.c.toNat < 2) 1
    let h := w.c.getLsbD 0
    let i ← pick fn [.vshuf d a b ty m, .vslide d a b ty m, .vbcast d a ty m, .vzip d a b h ty m,
      .vunzip d a b h ty m] 0
    res (fn != 2 || b == 0) 0
    res (3 ≤ fn || w.c == 0) 1
    res (w.rnd == 0) 1
    pure i
  | 0x47 => do
    ill (fn < 4) 0
    let ty ← need (VType.ofCode w.type) 1
    ill (if fn = 1 then w.type == 0 else ty.isMove) 1
    ill (fn != 1 || w.c.toNat < 8) 1
    let i ← pick fn [.vmov d a ty m, .vmovg d a (w.c.setWidth 3) m.reuse, .vext d a b ty m.reuse,
      .vins d a b ty m.reuse] 0
    res (2 ≤ fn || b == 0) 0
    res (fn == 1 || w.c == 0) 1
    res (w.rnd == 0) 1
    res (fn == 0 || m.sel == 0) 1
    pure i
  | 0x48 => do
    ill (fn < 3) 0
    ill (w.type == VType.n64.code) 1
    res (w.c == 0) 1
    res (w.rnd == 0) 1
    pick fn [.vmulq d a b m, .vaddq d a b m, .vsubq d a b m] 0
  | 0x49 => do
    ill (fn < 2) 0
    ill (d.toNat % 2 == 0) 0xFF
    ill (w.type == VType.n64.code) 1
    res (w.rnd == 0) 1
    pick fn [.vbfly d a b w.c m, .vibfly d a b w.c m] 0
  | 0x4A => do
    ill (fn < 4) 0
    let ty ← need (FType.ofCode w.type) 1
    res (b == 0) 0
    res (w.c == 0) 1
    res (w.rnd == 0) 1
    pick fn [.vexp2 d a ty m, .vlog2 d a ty m, .vrcp d a ty m, .vrsq d a ty m] 0
  | 0x4B => do
    ill (fn == 0) 0
    let ty ← need (VType.ofCode w.type) 1
    ill ty.isMove 1
    res (w.rnd == 0) 1
    pure (.vsel d a b w.c ty m)
  | 0x4C => do
    ill (fn == 0) 0
    let ty ← need (DotType.ofCode w.type) 1
    let fl := ty = .fp16 || ty = .bf16
    let rm ← if fl then need (Rnd.ofCode w.rnd) 1 else pure .rn
    res (w.c == 0) 1
    res (fl || w.rnd == 0) 1
    pure (.vdot d a b ty rm m)
  | _ => .error (.illegal 0xFF)

/-- Majors 0x58-0x5B (R196-R200, R326). -/
def decodeVMem (op : Nat) (d : R) (t : List Half) : Except DErr Instr :=
  let h0 := t.getD 0 0
  let w := vWord (t.getD 1 0)
  let off := t.getD 2 0
  let h3 := t.getD 3 0
  let sc := h3.extractLsb' 13 3
  let od := h3.extractLsb' 11 2
  let a := fieldA h0
  let b := fieldB h0
  let fn := (fieldFn h0).toNat
  let m := w.ctl
  match op with
  | 0x58 => do
    ill (fn < 4) 0
    let ty ← need (VType.ofCode w.type) 1
    ill ty.isMove 1
    ill (w.c.toNat < 2) 1
    let post := w.c.getLsbD 0
    let i ← if fn % 2 = 0 then do
        let o ← needLd sc od 3
        pure (if fn = 0 then Instr.vld d a off ty m o else .vlda d w.rnd off post ty m o)
      else do
        let o ← needSt sc od 3
        pure (if fn = 1 then Instr.vst d a off ty m o else .vsta d w.rnd off post ty m o)
    res (fn < 2 || a == 0) 0
    res (b == 0) 0
    res (2 ≤ fn || w.rnd == 0) 1
    res (2 ≤ fn || w.c == 0) 1
    res (h3.extractLsb' 0 11 == 0) 3
    pure i
  | 0x59 => do
    ill (fn < 2) 0
    let ty ← need (GType.ofCode w.type) 1
    ill (w.c.toNat < 4) 1
    let s := w.c.setWidth 2
    let i ← if fn = 0 then do
        let o ← needLd sc od 3
        pure (Instr.vgath d a b s off ty m o)
      else do
        let o ← needSt sc od 3
        pure (Instr.vscat d a b s off ty m o)
    res (w.rnd == 0) 1
    res (h3.extractLsb' 0 11 == 0) 3
    pure i
  | 0x5A => do
    ill (fn < 4) 0
    let ty ← need (VAType.ofCode w.type) 1
    ill (w.c.toNat < 4) 1
    let s := w.c.setWidth 2
    let i ← if fn = 1 then do
        ill (od == 0) 3
        res (sc == 0) 3
        pure (Instr.vradd d a b s off ty m)
      else do
        let x ← need (XScope.ofCode sc) 3
        let o := Order.ofCode od
        pure (if fn = 0 then Instr.vaadd d a b s off ty m o x
          else if fn = 2 then .vamin d a b s off ty m o x
          else .vamax d a b s off ty m o x)
    res (w.rnd == 0) 1
    res (h3.extractLsb' 0 11 == 0) 3
    pure i
  | 0x5B => do
    ill (fn == 0) 0
    let ty ← need (FType.ofCode w.type) 1
    let post ← needBit w.c 1
    ill (od == 0) 3
    discard (need (Scope.ofCode sc) 3)
    res (a == 0) 0
    res (b == 0) 0
    res (h3 == 0) 3
    pure (.vldw d w.rnd off post ty m)
  | _ => .error (.illegal 0xFF)

/-- The X word of SGEMV (R244). -/
def sgemvX (x : Word) : SgemvX :=
  ⟨x.getLsbD 59, x.getLsbD 58, x.getLsbD 57, x.extractLsb' 54 3, x.extractLsb' 43 11, x.extractLsb' 32 11,
    x.extractLsb' 16 16, x.extractLsb' 0 16⟩

/-- Writes the X word of SGEMV. -/
def SgemvX.word (x : SgemvX) : Word :=
  0#4 ++ BitVec.ofBool x.xfp32 ++ BitVec.ofBool x.ydst ++ BitVec.ofBool x.acc ++ x.nvec ++ x.ncols ++ x.col0 ++
    x.nrows ++ x.row0

/-- The X word of GATHER and SCATTER (R248). -/
def indexX (x : Word) : IndexX :=
  ⟨x.getLsbD 22, x.extractLsb' 19 3, x.extractLsb' 16 3, x.extractLsb' 0 16⟩

/-- Writes the X word of GATHER and SCATTER. -/
def IndexX.word (x : IndexX) : Word :=
  0#41 ++ BitVec.ofBool x.iw ++ x.shift ++ x.esz ++ x.n

/-- Majors 0x60-0x72 (chapters 11 and 12). -/
def decodeEngine (op : Nat) (d : R) (t : List Half) : Except DErr Instr :=
  let h0 := t.getD 0 0
  let a := fieldA h0
  let b := fieldB h0
  let c := fieldA (t.getD 1 0)
  let fn := (fieldFn h0).toNat
  let tl := d.extractLsb' 0 4
  let resT := res (d.extractLsb' 4 1 == 0) 0xFF
  let xw := word4 (t.drop 4)
  match op with
  | 0x60 => do
    ill (fn < 2) 0
    let pa ← needP a 0
    let pb ← needP b 0
    let (g, e) ← needE t
    let i ← pick fn [.mma tl pa pb (g.getLsbD 0) (g.getLsbD 1) e, .mmaz tl pa pb (g.getLsbD 0) (g.getLsbD 1) e] 0
    resT
    res (c == 0) 1
    res (g.extractLsb' 2 6 == 0) 1
    resE e
    pure i
  | 0x61 => do
    ill (fn == 0) 0
    let pa ← needP a 0
    let pb ← needP b 0
    let (g, e) ← needE t
    resT
    res (c == 0) 1
    res (g.extractLsb' 2 6 == 0) 1
    resE e
    pure (.mmas tl pa pb (g.getLsbD 0) (g.getLsbD 1) e)
  | 0x62 => do
    ill (fn == 0) 0
    let pa ← needP a 0
    let pb ← needP b 0
    let (g, e) ← needE t
    resT
    res (c == 0) 1
    res (g.extractLsb' 3 5 == 0) 1
    resE e
    pure (.mmaq tl pa pb (g.getLsbD 0) (g.getLsbD 1) (g.getLsbD 2) e)
  | 0x63 => do
    ill (fn < 3) 0
    let p ← if fn = 0 then pure 0 else needP a 0
    let (g, e) ← needE t
    let k ← need (Kind.ofCode (g.extractLsb' 6 2)) 1
    let rm ← if fn = 1 then need (Rnd.ofCode (g.extractLsb' 3 3)) 1 else pure .rn
    let i ← pick fn [.azero tl k e, .astore tl p k rm e, .aload tl p k e] 0
    resT
    res (fn != 0 || a == 0) 0
    res (b == 0) 0
    res (c == 0) 1
    res (fn == 1 || g.extractLsb' 3 3 == 0) 1
    res (g.extractLsb' 0 3 == 0) 1
    resE e
    pure i
  | 0x64 => do
    let i ← pick fn [.mqclr, .mqstat d] 0
    res (fn == 1 || d == 0) 0xFF
    res (a == 0) 0
    res (b == 0) 0
    pure i
  | 0x68 => do
    ill (fn == 0) 0
    let px ← needP b 0
    let x := sgemvX xw
    let (g, e) ← needE t
    ill (x.ydst || c.toNat < 8) 1
    res (d == 0) 0xFF
    res (g == 0) 1
    resE e
    res (xw.extractLsb' 60 4 == 0) 7
    pure (.sgemv a px c x e)
  | 0x69 => do
    let i ← pick fn [.smap d a, .sstat d a] 0
    res (b == 0) 0
    pure i
  | 0x6C =>
    if fn = 4 then do
      let (g, e) ← needE t
      ill (1 ≤ g.toNat && g.toNat ≤ 64) 1
      res (d == 0) 0xFF
      res (b == 0) 0
      res (c == 0) 1
      resE e
      pure (.cpymq a g e)
    else do
      ill (fn < 4) 0
      let p ← needP c 1
      let (g, e) ← needE t
      let i ← pick fn [.cpyin a b p e, .cpyout a b p e, .cpypp a b p e, .cpysc a b p e] 0
      res (d == 0) 0xFF
      res (g == 0) 1
      resE e
      pure i
  | 0x6D => do
    ill (fn < 2) 0
    let pi ← needP b 0
    let pd ← needP c 1
    let (g, e) ← needE t
    let x := indexX xw
    let i ← pick fn [.gather a pi pd x e, .scatter a pi pd x e] 0
    res (d == 0) 0xFF
    res (g == 0) 1
    resE e
    res (xw.extractLsb' 23 9 == 0) 5
    res (xw.extractLsb' 32 16 == 0) 6
    res (xw.extractLsb' 48 16 == 0) 7
    pure i
  | 0x6E => do
    ill (fn == 0) 0
    let p ← needP c 1
    let (g, e) ← needE t
    let ty ← need (CredType.ofCode (g.extractLsb' 4 4)) 1
    let o ← need (CredOp.ofCode (g.extractLsb' 2 2)) 1
    res (d == 0) 0xFF
    res (g.extractLsb' 0 2 == 0) 1
    resE e
    pure (.cred o ty a b p e)
  | 0x6F => do
    ill (fn < 2) 0
    ill (fn == 0 || b.toNat < 6) 0
    let i ← pick fn [.ecancel d (b.extractLsb' 0 3), .estat d (Fin.ofNat 6 b.toNat)] 0
    res (a == 0) 0
    res (fn == 1 || b.extractLsb' 3 2 == 0) 0
    pure i
  | 0x70 => do
    let i ← pick fn [.gjoin d a, .gleave a] 0
    res (fn == 0 || d == 0) 0xFF
    res (b == 0) 0
    pure i
  | 0x71 => do
    ill (fn == 0) 0
    let p ← needP c 1
    let (g, e) ← needE t
    res (g == 0) 1
    resE e
    pure (.gload d a b p e)
  | 0x72 => do
    let i ← pick fn [.gstat d a] 0
    res (b == 0) 0
    pure i
  | _ => .error (.illegal 0xFF)

/-- Majors 0x74-0x7E (chapters 13, 16 and 10). -/
noncomputable def decodeFar (op : Nat) (d : R) (t : List Half) : Except DErr Instr :=
  let h0 := t.getD 0 0
  let h1 := t.getD 1 0
  let a := fieldA h0
  let b := fieldB h0
  let fn := (fieldFn h0).toNat
  let fn4 := (h0.extractLsb' 2 4).toNat
  match op with
  | 0x74 => do
    ill (fn != 1 || b.toNat < 4) 0
    let i ← pick fn [.rtset a b, .rtget d a (b.extractLsb' 0 2), .rtchk d a] 0
    res (fn != 0 || d == 0) 0xFF
    res (fn != 2 || b == 0) 0
    pure i
  | 0x75 => do
    ill (fn < 2) 0
    ill (fn != 0 || d.toNat < 4) 0xFF
    ill (fn != 1 || b.toNat < 4) 0
    let i ← pick fn [.sopen (d.extractLsb' 0 2) a b, .sclose d (b.extractLsb' 0 2)] 0
    res (fn == 0 || a == 0) 0
    pure i
  | 0x76 => do
    ill (fn < 2) 0
    ill (d.toNat < 4) 0xFF
    let p ← if fn = 1 then needP a 0 else pure 0
    let i ← pick fn [.ssend (d.extractLsb' 0 2) a, .ssendp (d.extractLsb' 0 2) p (b.getLsbD 0)] 0
    res (if fn = 1 then b.extractLsb' 1 4 == 0 else b == 0) 0
    pure i
  | 0x78 => do
    ill (fn < 2) 0
    ill (fn == 1 || d != 0) 0xFF
    let i ← pick fn [.halloc d a, .hfree a] 0
    res (fn == 0 || d == 0) 0xFF
    res (b == 0) 0
    pure i
  | 0x79 => do
    ill (fn < 2) 0
    ill (d != 0) 0xFF
    ill (fn == 1 || d.toNat % 2 == 0) 0xFF
    pick fn [.hsplit d a b, .hjoin d a b] 0
  | 0x7A =>
    match fn with
    | 0 => do
      let p ← needP b 0
      res (d.extractLsb' 2 3 == 0) 0xFF
      pure (if d.getLsbD 0 then .hcpyOut a p (d.getLsbD 1) else .hcpyIn a p (d.getLsbD 1))
    | 1 => do
      ill (d != 0) 0xFF
      res (b == 0) 0
      pure (.hmov d a)
    | 2 => do
      ill (b.toNat < 4) 0
      pure (.hinfo d a (b.extractLsb' 0 2))
    | _ => .error (.illegal 0)
  | 0x7B => do
    ill (fn < 2) 0
    ill (fn == 0 || d != 0) 0xFF
    let i ← pick fn [.puth a b, .takeh d a] 0
    res (fn == 1 || d == 0) 0xFF
    res (fn == 0 || b == 0) 0
    pure i
  | 0x7C => do
    let i ← pick fn4 [.gcall (h1.extractLsb' 0 12) a b, .gret] 0
    res (d == 0) 0xFF
    res (h0.extractLsb' 0 2 == 0) 0
    res (fn4 == 0 || a == 0) 0
    res (fn4 == 0 || b == 0) 0
    res (if fn4 = 0 then h1.extractLsb' 12 4 == 0 else h1 == 0) 1
    pure i
  | 0x7D => do
    let i ← pick fn [.gopen d a, .gclose a, .gquery d a] 0
    res (fn != 1 || d == 0) 0xFF
    res (b == 0) 0
    pure i
  | 0x7E => do
    ill (fn < 2) 0
    ill (fn == 1 || b.toNat < 2) 0
    ill (fn == 0 || b.toNat < 4) 0
    let i ← pick fn [if b == 0 then .gdoneUnwind else .gdoneGiveUp, .dstat d (b.extractLsb' 0 2)] 0
    res (fn == 1 || d == 0) 0xFF
    res (a == 0) 0
    pure i
  | _ => .error (.illegal 0xFF)

/-- Steps 4 to 6 of R83 for the fields of one instruction: major, d, and the tail proper. -/
noncomputable def decodeFields (op : Nat) (d : R) (t : List Half) : Except DErr Instr :=
  match op / 16 with
  | 0 => decodeControl op d t
  | 1 => decodeScalar op d t
  | 2 => if op < 0x28 then decodeScalar op d t else decodeMemory op d t
  | 3 => decodeSync op d t
  | 4 => decodeVector op d t
  | 5 => decodeVMem op d t
  | 6 => decodeEngine op d t
  | _ => if op < 0x74 then decodeEngine op d t else decodeFar op d t

/-! ### Heads and lines -/

/-- The format of each assigned major (R82). -/
def majorFmt (op : Nat) : Option Fmt :=
  if op = 0x00 ∨ op = 0x09 ∨ op = 0x0A ∨ op = 0x0E then some .z
  else if op = 0x01 ∨ op = 0x04 ∨ op = 0x20 ∨ op = 0x38 then some .j
  else if op = 0x02 ∨ op = 0x03 ∨ op = 0x06 ∨ op = 0x07 ∨ op = 0x28 ∨ op = 0x29 ∨ op = 0x7C then some .b
  else if op = 0x05 ∨ op = 0x08 ∨ op = 0x0B then some .r
  else if op = 0x0C ∨ op = 0x0D ∨ op = 0x0F then some .i
  else if 0x10 ≤ op ∧ op ≤ 0x12 then some .r
  else if 0x13 ≤ op ∧ op ≤ 0x18 then some .i
  else if op = 0x19 then some .l
  else if op = 0x1E then some .i
  else if 0x1A ≤ op ∧ op ≤ 0x22 then some .r
  else if 0x2A ≤ op ∧ op ≤ 0x2C then some .r
  else if 0x30 ≤ op ∧ op ≤ 0x32 then some .r
  else if op = 0x33 then some .v
  else if op = 0x34 ∨ op = 0x39 then some .r
  else if 0x40 ≤ op ∧ op ≤ 0x4C then some .v
  else if 0x58 ≤ op ∧ op ≤ 0x5B then some .m
  else if 0x60 ≤ op ∧ op ≤ 0x63 then some .e
  else if op = 0x68 ∨ op = 0x6D then some .x
  else if op = 0x6C ∨ op = 0x6E ∨ op = 0x71 then some .e
  else if op = 0x64 ∨ op = 0x69 ∨ op = 0x6F ∨ op = 0x70 ∨ op = 0x72 then some .r
  else if 0x74 ≤ op ∧ op ≤ 0x76 then some .r
  else if 0x78 ≤ op ∧ op ≤ 0x7B then some .r
  else if op = 0x7D ∨ op = 0x7E then some .r
  else none

/-- The majors that fail step 2 on a core type (R83). -/
def majorBarred (ct : CoreType) (op : Nat) : Bool :=
  match ct with
  | .compute => false
  | .control =>
    (0x30 ≤ op && op ≤ 0x32) || (0x60 ≤ op && op ≤ 0x64) || op == 0x68 || op == 0x69 || (0x6C ≤ op && op ≤ 0x72)
  | .lodge =>
    op == 0x0F || (0x30 ≤ op && op ≤ 0x32) || op == 0x34 || op == 0x39 || (0x40 ≤ op && op ≤ 0x7E)

/-- The ts code a format and a g bit require (R78, R79, R118). -/
def Fmt.ts (f : Fmt) (g : Bool) : BitVec 2 :=
  match f with
  | .z => if g then 1 else 0
  | .r | .i => if g then 2 else 1
  | .b | .j | .v => if g then 3 else 2
  | .m | .e | .l | .x => 3

/-- Halfwords of the tail proper without its guard halfword and padding. -/
def Fmt.body : Fmt → Nat
  | .z => 0
  | .r | .i => 1
  | .b | .j | .v => 2
  | .m | .e | .l => 4
  | .x => 8

/-- Halfwords of padding that a guarded tail has before its guard halfword (R78). -/
def Fmt.pad : Fmt → Nat
  | .b | .j | .v => 1
  | _ => 0

/-- Halfwords of the tail proper (R78, R79). -/
def Fmt.halves (f : Fmt) (g : Bool) : Nat := if g then f.body + f.pad + 1 else f.body

/-- Halfwords that a ts code stands for by itself (R80). -/
def tsHalves (ts : BitVec 2) : Nat := [0, 1, 2, 4].getD ts.toNat 0

/-- Tail halfwords of a head, without the live mask (R80). -/
def tailHalves (h : Half) : Nat :=
  match majorFmt (headOp h).toNat with
  | some f => if headTs h = f.ts (headG h) then f.halves (headG h) else tsHalves (headTs h)
  | none => tsHalves (headTs h)

/-- len(j) of R80. -/
def headLen (h : Half) : Nat := tailHalves h + (if headSp h then 4 else 0)

/-- The guard halfword's fields (R73). -/
def guardOf (h : Half) : Guard := ⟨h.extractLsb' 11 5, h.extractLsb' 5 6, h.getLsbD 4⟩

/-- A guard halfword. -/
def Guard.half (g : Guard) : Half := g.reg ++ g.bit ++ BitVec.ofBool g.sense ++ 0#4

/-- Steps 2 to 6 of R83 for a head and its tail (the tail proper, then the live mask). DESIGN CHOICE (log entry 67): where two
fields of one head fail the same step, the field whose index TINFO names is the one that the decoder of its major tests first; spec/
gives no order within a step. -/
noncomputable def decodeHead (ct : CoreType) (h : Half) (tail : List Half) : Except DErr Decoded := do
  let op := (headOp h).toNat
  let f ← need (majorFmt op) 0xFF
  ill (!majorBarred ct op) 0xFF
  ill (headTs h == f.ts (headG h)) 0xFF
  let n := f.halves (headG h)
  let i ← decodeFields op (headD h) (tail.take f.body)
  res (!headG h || f.pad == 0 || tail.getD f.body 0 == 0) f.body
  let gh := tail.getD (n - 1) 0
  res (!headG h || gh.extractLsb' 0 4 == 0) (n - 1)
  pure ⟨i, if headG h then some (guardOf gh) else none, if headSp h then some (word4 (tail.drop n)) else none⟩

/-- The heads of a line, slots 1 to h. -/
def lineHeads (line : List Half) : List Half :=
  (line.drop 1).take ((line.getD 0 0).extractLsb' 0 5).toNat

/-- Why a line is not well formed (R68), coded as TINFO [1:0] of R84. -/
def lineBad (line : List Half) : Option Nat :=
  let c := line.getD 0 0
  let h := (c.extractLsb' 0 5).toNat
  if c.extractLsb' 5 11 ≠ 0 ∨ h = 0 then some 2
  else if 32 < 1 + h + ((lineHeads line).map headLen).sum then some 3
  else none

/-- The tail of the head in slot i of a line (R80). -/
def lineTail (line : List Half) (slot : Nat) : List Half :=
  let below := (((lineHeads line).take slot).map headLen).sum
  (line.drop (32 - below)).take (headLen (line.getD slot 0))

/-! ### The encoder -/

/-- Format E's halfwords 1-3 (R226). -/
def EngF.halves (e : EngF) (c : R) (eng : BitVec 8) : List Half :=
  [c ++ e.sc.code ++ eng, e.kwait ++ e.thr, e.ksig ++ e.inc]

/-- A post-increment pair of eng bits (R233). -/
def postBits (a b : Bool) : BitVec 8 := 0#6 ++ BitVec.ofBool b ++ BitVec.ofBool a

/-- A pointer number in a five-bit field. -/
def P.wide (p : P) : R := p.setWidth 5

/-- Format R's tail. -/
def rTail (a b : R) (fn : BitVec 6) : List Half := [mkABF a b fn]

/-- Format B's tail with fn4. -/
def bTail (a b : R) (fn4 : BitVec 4) (disp : Half) : List Half := [a ++ b ++ fn4 ++ 0#2, disp]

/-- Format J's tail. -/
def jTail (x : R) (imm : BitVec 27) : List Half := [mkAI x (imm.extractLsb' 16 11), imm.extractLsb' 0 16]

/-- Format V's tail. -/
def vTail (a b : R) (fn : BitVec 6) (c : R) (type : BitVec 4) (rnd : BitVec 3) (m : VCtl) : List Half :=
  [mkABF a b fn, (VWord.mk c type rnd m).half]

/-- Format M's tail. -/
def mTail (a b : R) (fn : BitVec 6) (c : R) (type : BitVec 4) (ptr : P) (m : VCtl) (off : Half)
    (sc : BitVec 3) (o : BitVec 2) : List Half :=
  [mkABF a b fn, (VWord.mk c type ptr m).half, off, sc ++ o ++ 0#11]

/-- A bit as a five-bit field. -/
def bit5 (b : Bool) : R := 0#4 ++ BitVec.ofBool b

/-- Scope and order halves of a load's ordering field. -/
def LdOrd.sc (o : LdOrd) : BitVec 3 := o.code.extractLsb' 2 3

/-- The order half. -/
def LdOrd.od (o : LdOrd) : BitVec 2 := o.code.extractLsb' 0 2

/-- Scope and order halves of a store's ordering field. -/
def StOrd.sc (o : StOrd) : BitVec 3 := o.code.extractLsb' 2 3

/-- The order half. -/
def StOrd.od (o : StOrd) : BitVec 2 := o.code.extractLsb' 0 2

/-- fn of an atomic (R319). -/
def atomFn (form : Nat) (o : Order) : BitVec 6 := BitVec.ofNat 4 form ++ o.code

/-- Tail of an atomic. -/
def atomTail (form : Nat) (a b c : R) (t : AType) (o : Order) (sc : XScope) (reuse : Bool) : List Half :=
  vTail a b (atomFn form o) c t.toV.code sc.code ⟨0, reuse⟩

/-- Tail of a semaphore form (R312). -/
def semTail (x : R) (k : BitVec 8) (v : BitVec 16) : List Half := jTail x (0#3 ++ v ++ k)

/-- Tail of an immediate form with a three-bit selector (R115, R116). -/
def shTail (a : R) (sel : BitVec 3) (k : BitVec 6) : List Half := [mkAI a (sel ++ 0#2 ++ k)]

/-- The major opcode, the d field and the tail proper of an instruction; none for the steps that no
word encodes. -/
def encodeParts : Instr → Option (BitVec 7 × R × List Half)
  | .nop => some (0x00, 0, [])
  | .br off => some (0x01, 0, jTail 0 off)
  | .beq a b off => some (0x02, 0, bTail a b 0 off)
  | .bne a b off => some (0x02, 0, bTail a b 1 off)
  | .blt a b off => some (0x02, 0, bTail a b 2 off)
  | .bge a b off => some (0x02, 0, bTail a b 3 off)
  | .bltn a b off => some (0x02, 0, bTail a b 4 off)
  | .bgen a b off => some (0x02, 0, bTail a b 5 off)
  | .bbs a k off => some (0x03, 0#4 ++ k.extractLsb' 5 1, bTail a (k.extractLsb' 0 5) 0 off)
  | .bbc a k off => some (0x03, 0#4 ++ k.extractLsb' 5 1, bTail a (k.extractLsb' 0 5) 1 off)
  | .call d off => some (0x04, d, jTail 0 off)
  | .jr a => some (0x05, 0, rTail a 0 0)
  | .callr d a => some (0x05, d, rTail a 0 1)
  | .ret a => some (0x05, 0, rTail a 0 2)
  | .loop n a off => some (0x06, 0, bTail a (BitVec.ofNat 5 n.val) 0 off)
  | .loopi n cnt off => some (0x07, cnt.extractLsb' 5 5, bTail (cnt.extractLsb' 0 5) (BitVec.ofNat 5 n.val) 0 off)
  | .spawn d a => some (0x08, d, rTail a 0 0)
  | .spawnl d a => some (0x08, d, rTail a 0 1)
  | .endC => some (0x09, 0, [])
  | .yield => some (0x0A, 0, [])
  | .park => some (0x0A, 1, [])
  | .launch d a => some (0x0B, d, rTail a 0 0)
  | .trap code => some (0x0C, 0, [mkAI 0 code])
  | .eret => some (0x0C, 0, [mkAI 1 0])
  | .wfi => some (0x0C, 0, [mkAI 2 0])
  | .srd d r => some (0x0D, d, [mkAI 0 r.code])
  | .swr d r => some (0x0D, d, [mkAI 1 r.code])
  | .sset d r => some (0x0D, d, [mkAI 2 r.code])
  | .sclr d r => some (0x0D, d, [mkAI 3 r.code])
  | .fence sc => some (0x0E, 0#2 ++ sc.code, [])
  | .fenceAcq sc => some (0x0E, 1#2 ++ sc.code, [])
  | .fenceRel sc => some (0x0E, 2#2 ++ sc.code, [])
  | .fetchf => some (0x0E, 24, [])
  | .efence => some (0x0E, 25, [])
  | .brk code => some (0x0F, 0, [mkAI 0 code])
  | .trace d tag => some (0x0F, d, [mkAI 1 tag])
  | .tsr d mask => some (0x0F, d, [mkAI 2 (0#6 ++ mask)])
  | .add d a b => some (0x10, d, rTail a b 0)
  | .sub d a b => some (0x10, d, rTail a b 1)
  | .and d a b => some (0x10, d, rTail a b 2)
  | .or d a b => some (0x10, d, rTail a b 3)
  | .xor d a b => some (0x10, d, rTail a b 4)
  | .andn d a b => some (0x10, d, rTail a b 5)
  | .orn d a b => some (0x10, d, rTail a b 6)
  | .xnor d a b => some (0x10, d, rTail a b 7)
  | .min d a b => some (0x10, d, rTail a b 8)
  | .max d a b => some (0x10, d, rTail a b 9)
  | .minn d a b => some (0x10, d, rTail a b 10)
  | .maxn d a b => some (0x10, d, rTail a b 11)
  | .shl d a b => some (0x11, d, rTail a b 0)
  | .shr d a b => some (0x11, d, rTail a b 1)
  | .sra d a b => some (0x11, d, rTail a b 2)
  | .rol d a b => some (0x11, d, rTail a b 3)
  | .rorRotate d a b => some (0x11, d, rTail a b 4)
  | .seq d a b => some (0x12, d, rTail a b 0)
  | .sne d a b => some (0x12, d, rTail a b 1)
  | .slt d a b => some (0x12, d, rTail a b 2)
  | .sltn d a b => some (0x12, d, rTail a b 3)
  | .sle d a b => some (0x12, d, rTail a b 4)
  | .slen d a b => some (0x12, d, rTail a b 5)
  | .addi d a imm => some (0x13, d, [mkAI a imm])
  | .andi d a imm => some (0x14, d, [mkAI a imm])
  | .ori d a imm => some (0x15, d, [mkAI a imm])
  | .xori d a imm => some (0x16, d, [mkAI a imm])
  | .shli d a s => some (0x17, d, shTail a 0 s)
  | .shri d a s => some (0x17, d, shTail a 1 s)
  | .srai d a s => some (0x17, d, shTail a 2 s)
  | .li d imm => some (0x18, d, [imm])
  | .liw d imm => some (0x19, d, halves4 imm)
  | .mul d a b => some (0x1A, d, rTail a b 0)
  | .mulh d a b => some (0x1A, d, rTail a b 1)
  | .mulhn d a b => some (0x1A, d, rTail a b 2)
  | .madd d a b => some (0x1A, d, rTail a b 3)
  | .div d a b => some (0x1B, d, rTail a b 0)
  | .divn d a b => some (0x1B, d, rTail a b 1)
  | .rem d a b => some (0x1B, d, rTail a b 2)
  | .remn d a b => some (0x1B, d, rTail a b 3)
  | .clz d a => some (0x1C, d, rTail a 0 0)
  | .ctz d a => some (0x1C, d, rTail a 0 1)
  | .popc d a => some (0x1C, d, rTail a 0 2)
  | .brev d a => some (0x1C, d, rTail a 0 3)
  | .bswap d a => some (0x1C, d, rTail a 0 4)
  | .bfx d a b => some (0x1D, d, rTail a b 0)
  | .bfxs d a b => some (0x1D, d, rTail a b 1)
  | .bfi d a b => some (0x1D, d, rTail a b 2)
  | .setb d a k => some (0x1E, d, shTail a 0 k)
  | .clrb d a k => some (0x1E, d, shTail a 1 k)
  | .tglb d a k => some (0x1E, d, shTail a 2 k)
  | .sel d a b => some (0x1F, d, rTail a b 0)
  | .addpc d off => some (0x20, d, jTail 0 off)
  | .pset p a b => some (0x21, P.wide p, rTail a b 0)
  | .padd p a => some (0x21, P.wide p, rTail a 0 1)
  | .pget d p => some (0x21, d, rTail (P.wide p) 0 2)
  | .pstr p a => some (0x21, P.wide p, rTail a 0 3)
  | .mulq d a b => some (0x22, d, rTail a b 0)
  | .addq d a b => some (0x22, d, rTail a b 1)
  | .subq d a b => some (0x22, d, rTail a b 2)
  | .ld8 d a o off => some (0x28, d, bTail a o.code 0 off)
  | .ld16 d a o off => some (0x28, d, bTail a o.code 1 off)
  | .ld32 d a o off => some (0x28, d, bTail a o.code 2 off)
  | .ld64 d a o off => some (0x28, d, bTail a o.code 3 off)
  | .lds8 d a o off => some (0x28, d, bTail a o.code 4 off)
  | .lds16 d a o off => some (0x28, d, bTail a o.code 5 off)
  | .lds32 d a o off => some (0x28, d, bTail a o.code 6 off)
  | .st8 d a o off => some (0x29, d, bTail a o.code 0 off)
  | .st16 d a o off => some (0x29, d, bTail a o.code 1 off)
  | .st32 d a o off => some (0x29, d, bTail a o.code 2 off)
  | .st64 d a o off => some (0x29, d, bTail a o.code 3 off)
  | .lda d p sz post => some (0x2A, d, rTail (P.wide p) (0#1 ++ BitVec.ofBool post ++ sz.code) 0)
  | .sta d p sz post => some (0x2A, d, rTail (P.wide p) (0#1 ++ BitVec.ofBool post ++ sz.code) 1)
  | .watch d a s => some (0x2B, d, rTail a (bit5 s) 0)
  | .wsleep d a => some (0x2B, d, rTail a 0 1)
  | .pf a => some (0x2C, 0, rTail a 0 0)
  | .pfx a => some (0x2C, 0, rTail a 0 1)
  | .clean a => some (0x2C, 0, rTail a 0 2)
  | .inval a => some (0x2C, 0, rTail a 0 3)
  | .take d a => some (0x30, d, rTail a 0 0)
  | .taken d a b => some (0x30, d, rTail a b 1)
  | .put a b => some (0x31, 0, rTail a b 0)
  | .putn d a b => some (0x31, d, rTail a b 1)
  | .ldf d a => some (0x32, d, rTail a 0 0)
  | .setf a => some (0x32, 0, rTail a 0 1)
  | .sete a => some (0x32, 0, rTail a 0 2)
  | .qtag d a => some (0x32, d, rTail a 0 3)
  | .aadd d a b t o sc reuse => some (0x33, d, atomTail 0 a b 0 t o sc reuse)
  | .aand d a b t o sc reuse => some (0x33, d, atomTail 1 a b 0 t o sc reuse)
  | .aor d a b t o sc reuse => some (0x33, d, atomTail 2 a b 0 t o sc reuse)
  | .axor d a b t o sc reuse => some (0x33, d, atomTail 3 a b 0 t o sc reuse)
  | .amin d a b t o sc reuse => some (0x33, d, atomTail 4 a b 0 t o sc reuse)
  | .amax d a b t o sc reuse => some (0x33, d, atomTail 5 a b 0 t o sc reuse)
  | .aminn d a b t o sc reuse => some (0x33, d, atomTail 6 a b 0 t o sc reuse)
  | .amaxn d a b t o sc reuse => some (0x33, d, atomTail 7 a b 0 t o sc reuse)
  | .aswp d a b t o sc reuse => some (0x33, d, atomTail 8 a b 0 t o sc reuse)
  | .acas d a b c t o sc reuse => some (0x33, d, atomTail 9 a b c t o sc reuse)
  | .radd a b t => some (0x34, 0#1 ++ t.toV.code, rTail a b 0)
  | .rand a b t => some (0x34, 0#1 ++ t.toV.code, rTail a b 1)
  | .rorReduce a b t => some (0x34, 0#1 ++ t.toV.code, rTail a b 2)
  | .rxor a b t => some (0x34, 0#1 ++ t.toV.code, rTail a b 3)
  | .rmin a b t => some (0x34, 0#1 ++ t.toV.code, rTail a b 4)
  | .rmax a b t => some (0x34, 0#1 ++ t.toV.code, rTail a b 5)
  | .rfadd a b => some (0x34, 0#1 ++ VType.fp32.code, rTail a b 6)
  | .swait k v => some (0x38, 0, semTail 0 k v)
  | .ssig k v => some (0x38, 0, semTail 1 k v)
  | .srdk d k => some (0x38, d, semTail 2 k 0)
  | .ssetk d k => some (0x38, d, semTail 3 k 0)
  | .barj d a => some (0x39, d, rTail a 0 0)
  | .bara d a => some (0x39, d, rTail a 0 1)
  | .barw d a b => some (0x39, d, rTail a b 2)
  | .barl d a => some (0x39, d, rTail a 0 3)
  | .vadd d a b t sat m => some (0x40, d, vTail a b 0 0 t.code (0#2 ++ BitVec.ofBool sat) m)
  | .vsub d a b t sat m => some (0x40, d, vTail a b 1 0 t.code (0#2 ++ BitVec.ofBool sat) m)
  | .vmul d a b t m => some (0x40, d, vTail a b 2 0 t.code 0 m)
  | .vmulh d a b t m => some (0x40, d, vTail a b 3 0 t.code 0 m)
  | .vmin d a b t m => some (0x40, d, vTail a b 4 0 t.code 0 m)
  | .vmax d a b t m => some (0x40, d, vTail a b 5 0 t.code 0 m)
  | .vand d a b t m => some (0x40, d, vTail a b 6 0 t.code 0 m)
  | .vor d a b t m => some (0x40, d, vTail a b 7 0 t.code 0 m)
  | .vxor d a b t m => some (0x40, d, vTail a b 8 0 t.code 0 m)
  | .vshl d a b t m => some (0x40, d, vTail a b 9 0 t.code 0 m)
  | .vshr d a b t m => some (0x40, d, vTail a b 10 0 t.code 0 m)
  | .vsra d a b t m => some (0x40, d, vTail a b 11 0 t.code 0 m)
  | .vfadd d a b t rm m => some (0x41, d, vTail a b 0 0 t.toV.code rm.code m)
  | .vfsub d a b t rm m => some (0x41, d, vTail a b 1 0 t.toV.code rm.code m)
  | .vfmul d a b t rm m => some (0x41, d, vTail a b 2 0 t.toV.code rm.code m)
  | .vfmin d a b t rm m => some (0x41, d, vTail a b 3 0 t.toV.code rm.code m)
  | .vfmax d a b t rm m => some (0x41, d, vTail a b 4 0 t.toV.code rm.code m)
  | .vfdiv d a b t rm m => some (0x41, d, vTail a b 5 0 t.toV.code rm.code m)
  | .vfsqrt d a t rm m => some (0x41, d, vTail a 0 6 0 t.toV.code rm.code m)
  | .vfma d a b c t rm m => some (0x42, d, vTail a b 0 c t.toV.code rm.code m)
  | .vfms d a b c t rm m => some (0x42, d, vTail a b 1 c t.toV.code rm.code m)
  | .vfnma d a b c t rm m => some (0x42, d, vTail a b 2 c t.toV.code rm.code m)
  | .vfnms d a b c t rm m => some (0x42, d, vTail a b 3 c t.toV.code rm.code m)
  | .vcmp d a b cond t m => some (0x43, d, vTail a b (0#3 ++ cond.code) 0 t.code 0 m)
  | .vfcmp d a b cond t m => some (0x43, d, vTail a b (4#3 ++ cond.code) 0 t.toV.code 0 m)
  | .vcvt d a dst src part rm m => some (0x44, d, vTail a (0#1 ++ src.code) 0 part dst.code rm.code m)
  | .vrsum d a t rm m => some (0x45, d, vTail a 0 0 0 t.code rm.code m)
  | .vrmax d a t m => some (0x45, d, vTail a 0 1 0 t.code 0 m)
  | .vrmin d a t m => some (0x45, d, vTail a 0 2 0 t.code 0 m)
  | .vshuf d a b t m => some (0x46, d, vTail a b 0 0 t.code 0 m)
  | .vslide d a b t m => some (0x46, d, vTail a b 1 0 t.code 0 m)
  | .vbcast d a t m => some (0x46, d, vTail a 0 2 0 t.code 0 m)
  | .vzip d a b h t m => some (0x46, d, vTail a b 3 (bit5 h) t.code 0 m)
  | .vunzip d a b h t m => some (0x46, d, vTail a b 4 (bit5 h) t.code 0 m)
  | .vmov d a t m => some (0x47, d, vTail a 0 0 0 t.code 0 m)
  | .vmovg d a k reuse => some (0x47, d, vTail a 0 1 (k.setWidth 5) 0 0 ⟨0, reuse⟩)
  | .vext d a b t reuse => some (0x47, d, vTail a b 2 0 t.code 0 ⟨0, reuse⟩)
  | .vins d a b t reuse => some (0x47, d, vTail a b 3 0 t.code 0 ⟨0, reuse⟩)
  | .vsel d a b c t m => some (0x4B, d, vTail a b 0 c t.code 0 m)
  | .vmulq d a b m => some (0x48, d, vTail a b 0 0 VType.n64.code 0 m)
  | .vaddq d a b m => some (0x48, d, vTail a b 1 0 VType.n64.code 0 m)
  | .vsubq d a b m => some (0x48, d, vTail a b 2 0 VType.n64.code 0 m)
  | .vbfly d a b c m => some (0x49, d, vTail a b 0 c VType.n64.code 0 m)
  | .vibfly d a b c m => some (0x49, d, vTail a b 1 c VType.n64.code 0 m)
  | .vexp2 d a t m => some (0x4A, d, vTail a 0 0 0 t.toV.code 0 m)
  | .vlog2 d a t m => some (0x4A, d, vTail a 0 1 0 t.toV.code 0 m)
  | .vrcp d a t m => some (0x4A, d, vTail a 0 2 0 t.toV.code 0 m)
  | .vrsq d a t m => some (0x4A, d, vTail a 0 3 0 t.toV.code 0 m)
  | .vdot d a b t rm m => some (0x4C, d, vTail a b 0 0 t.toV.code rm.code m)
  | .vld d a off t m o => some (0x58, d, mTail a 0 0 0 t.code 0 m off o.sc o.od)
  | .vst d a off t m o => some (0x58, d, mTail a 0 1 0 t.code 0 m off o.sc o.od)
  | .vlda d p off post t m o => some (0x58, d, mTail 0 0 2 (bit5 post) t.code p m off o.sc o.od)
  | .vsta d p off post t m o => some (0x58, d, mTail 0 0 3 (bit5 post) t.code p m off o.sc o.od)
  | .vgath d a b shift off t m o => some (0x59, d, mTail a b 0 (shift.setWidth 5) t.toV.code 0 m off o.sc o.od)
  | .vscat d a b shift off t m o => some (0x59, d, mTail a b 1 (shift.setWidth 5) t.toV.code 0 m off o.sc o.od)
  | .vaadd d a b shift off t m o sc => some (0x5A, d, mTail a b 0 (shift.setWidth 5) t.toV.code 0 m off sc.code o.code)
  | .vradd d a b shift off t m => some (0x5A, d, mTail a b 1 (shift.setWidth 5) t.toV.code 0 m off 0 0)
  | .vamin d a b shift off t m o sc => some (0x5A, d, mTail a b 2 (shift.setWidth 5) t.toV.code 0 m off sc.code o.code)
  | .vamax d a b shift off t m o sc => some (0x5A, d, mTail a b 3 (shift.setWidth 5) t.toV.code 0 m off sc.code o.code)
  | .vldw d p off post t m => some (0x5B, d, mTail 0 0 0 (bit5 post) t.toV.code p m off 0 0)
  | .mma t pa pb postA postB e => some (0x60, 0#1 ++ t, mkABF (P.wide pa) (P.wide pb) 0 :: e.halves 0 (postBits postA postB))
  | .mmaz t pa pb postA postB e => some (0x60, 0#1 ++ t, mkABF (P.wide pa) (P.wide pb) 1 :: e.halves 0 (postBits postA postB))
  | .mmas t pa pb postA postB e => some (0x61, 0#1 ++ t, mkABF (P.wide pa) (P.wide pb) 0 :: e.halves 0 (postBits postA postB))
  | .mmaq t pa pb postA postB clear e => some (0x62, 0#1 ++ t, mkABF (P.wide pa) (P.wide pb) 0 :: e.halves 0 (0#5 ++ BitVec.ofBool clear ++ BitVec.ofBool postB ++ BitVec.ofBool postA))
  | .azero t k e => some (0x63, 0#1 ++ t, mkABF 0 0 0 :: e.halves 0 (k.code ++ 0#6))
  | .astore t p k rm e => some (0x63, 0#1 ++ t, mkABF (P.wide p) 0 1 :: e.halves 0 (k.code ++ rm.code ++ 0#3))
  | .aload t p k e => some (0x63, 0#1 ++ t, mkABF (P.wide p) 0 2 :: e.halves 0 (k.code ++ 0#6))
  | .mqclr => some (0x64, 0, rTail 0 0 0)
  | .mqstat d => some (0x64, d, rTail 0 0 1)
  | .sgemv a px c x e => some (0x68, 0, mkABF a (P.wide px) 0 :: e.halves c 0 ++ halves4 x.word)
  | .smap d a => some (0x69, d, rTail a 0 0)
  | .sstat d a => some (0x69, d, rTail a 0 1)
  | .cpyin a b p e => some (0x6C, 0, mkABF a b 0 :: e.halves (P.wide p) 0)
  | .cpyout a b p e => some (0x6C, 0, mkABF a b 1 :: e.halves (P.wide p) 0)
  | .cpypp a b p e => some (0x6C, 0, mkABF a b 2 :: e.halves (P.wide p) 0)
  | .cpysc a b p e => some (0x6C, 0, mkABF a b 3 :: e.halves (P.wide p) 0)
  | .cpymq a count e => some (0x6C, 0, mkABF a 0 4 :: e.halves 0 count)
  | .gather a pidx pdense x e => some (0x6D, 0, mkABF a (P.wide pidx) 0 :: e.halves (P.wide pdense) 0 ++ halves4 x.word)
  | .scatter a pidx pdense x e => some (0x6D, 0, mkABF a (P.wide pidx) 1 :: e.halves (P.wide pdense) 0 ++ halves4 x.word)
  | .cred op t a b p e => some (0x6E, 0, mkABF a b 0 :: e.halves (P.wide p) (t.toV.code ++ op.code ++ 0#2))
  | .ecancel d mask => some (0x6F, d, rTail 0 (mask.setWidth 5) 0)
  | .estat d sel => some (0x6F, d, rTail 0 (BitVec.ofNat 5 sel.val) 1)
  | .gjoin d a => some (0x70, d, rTail a 0 0)
  | .gleave a => some (0x70, 0, rTail a 0 1)
  | .gload d a b p e => some (0x71, d, mkABF a b 0 :: e.halves (P.wide p) 0)
  | .gstat d a => some (0x72, d, rTail a 0 0)
  | .rtset a b => some (0x74, 0, rTail a b 0)
  | .rtget d a sel => some (0x74, d, rTail a (sel.setWidth 5) 1)
  | .rtchk d a => some (0x74, d, rTail a 0 2)
  | .sopen ch a b => some (0x75, ch.setWidth 5, rTail a b 0)
  | .sclose d ch => some (0x75, d, rTail 0 (ch.setWidth 5) 1)
  | .ssend ch a => some (0x76, ch.setWidth 5, rTail a 0 0)
  | .ssendp ch p post => some (0x76, ch.setWidth 5, rTail (P.wide p) (bit5 post) 1)
  | .halloc d a => some (0x78, d, rTail a 0 0)
  | .hfree a => some (0x78, 0, rTail a 0 1)
  | .hsplit d a b => some (0x79, d, rTail a b 0)
  | .hjoin d a b => some (0x79, d, rTail a b 1)
  | .hcpyIn a p post => some (0x7A, 0#3 ++ BitVec.ofBool post ++ 0#1, rTail a (P.wide p) 0)
  | .hcpyOut a p post => some (0x7A, 0#3 ++ BitVec.ofBool post ++ 1#1, rTail a (P.wide p) 0)
  | .hmov d a => some (0x7A, d, rTail a 0 1)
  | .hinfo d a sel => some (0x7A, d, rTail a (sel.setWidth 5) 2)
  | .puth a b => some (0x7B, 0, rTail a b 0)
  | .takeh d a => some (0x7B, d, rTail a 0 1)
  | .gcall gate a b => some (0x7C, 0, bTail a b 0 (0#4 ++ gate))
  | .gret => some (0x7C, 0, bTail 0 0 1 0)
  | .gopen d a => some (0x7D, d, rTail a 0 0)
  | .gclose a => some (0x7D, 0, rTail a 0 1)
  | .gquery d a => some (0x7D, d, rTail a 0 2)
  | .gdoneUnwind => some (0x7E, 0, rTail 0 0 0)
  | .gdoneGiveUp => some (0x7E, 0, rTail 0 1 0)
  | .dstat d sel => some (0x7E, d, rTail 0 (sel.setWidth 5) 1)
  | .fundamentalReset _ | .tvecWrite _ _ _ _ | .blaxClear _ _ | .commandStart _ _
  | .commandComplete _ _ | .groupRequest _ | .groupFill _ | .groupTimerExpiry _ _
  | .setupFlit _ | .streamWordArrival _ | .closingMarker _ | .remoteAccess _
  | .refusedPacket _ _ _ | .watchdog _ _ | .budgetExpiry _ _ _ | .unwind _ _
  | .unwindHandlerExpiry _ _ | .asyncTrapDelivery _ _ | .wsleepLimit _ _ | .blockedPark _ _
  | .recordHoldBack _ _ | .priorityPromotion _ _ | .preemptionRequest _ _ | .corePreemptionRequest _
  | .forcedSave _ _ | .safePointPreemption _ _ | .hardPreemption _ _ | .continuationSelect _ _
  | .recordCreate _ _ | .scrubEnd _ | .scheduleTakesEffect _ | .uCopyEviction _ _
  | .kill _ | .debugStop _ | .debugStopRevocation _ | .linkDown _ _ _
  | .topologyMapChange _ | .launchAccept _ | .prepared _ _ | .prepareTimeout _
  | .preparedHoldTimeout _ | .commit _ | .committed _ _ | .committedTimeout _ _
  | .abort _ | .lost _ _ | .migrationTimeout _ _ | .storageEntry _
  | .storageCompletion _ _ | .ownerScrub _ | .pageMove _ | .gateFree _
  | .shootdown _ | .clockRestoreStep _ | .trip _ | .queueTailWrite _ _
  | .revokeDomain _ | .ownerCreate _ _ _ _ _ _ _ | .queueCreate _ _ _ _ _ | .storageQueueCreate _ _ _ _ _ _ _ _
  | .ownerChange _ _ _ | .tdmScheduleWrite _ _ | .prepare _ _ | .collectiveRegister _ _
  | .memberChanged _ _ | .getVersion _ | .getCapabilities _ | .negotiateAlgorithms _
  | .getDigests _ | .getCertificate _ | .challenge _ | .getMeasurements _
  | .keyExchange _ | .finish _ _ | .endSession _ | .installKey _ _ _
  | .resumeOwner _ _ | .ownerDigest _ _ | .ownerFreeze _ | .cxlMemAccess _ _
  | .snpData _ | .snpInv _ | .snpCur _ | .atomicOpCompletion _ _ _
  | .quiescenceSweep _ | .debugHalt _ _ | .debugResume _ _ | .dbgData _ _ _
  | .sensorAlarm _ _ _ | .clockThrottleStep _ | .lossOfLock _ | .registerWrite _ _ _
  | .lockReturn _ | .alarmConditionClear _ | .ltrMessage _ _ | .domainCreate _ _ _
  | .xfenceRead | .hotReset | .controlLinkReturn | .cxlLinkDown
  | .strandedClear | .migrationEpoch | .powerStateEntry | .wake
  | .dataLinkReturn => none

/-- The halfwords of an unguarded instruction at no safe point: its head, then its tail; none for a
step that no word encodes. -/
def encode (i : Instr) : List Half :=
  match encodeParts i with
  | some (op, d, tail) =>
    match majorFmt op.toNat with
    | some f => mkHead (f.ts false) false op d false :: tail
    | none => []
  | none => []

/-- The instruction that a head followed by its tail stands for on a compute core. -/
noncomputable def decodeHalves (l : List Half) : Option Instr :=
  match decodeHead .compute (l.getD 0 0) (l.drop 1) with
  | .ok x => some x.instr
  | .error _ => none

/-- The halfwords that spec/opcode_table.json writes as one number: its words of 32 bits have the head in
[31:16] and tail halfword 0 in [15:0], its words of 16 bits are the head alone; tail halfwords it gives
no bits are zero. -/
def tableHalves (nbits w : Nat) : List Half :=
  let n := nbits / 16
  (List.range n).map (fun k => BitVec.ofNat 16 (w / 2 ^ (16 * (n - 1 - k)))) ++ List.replicate 13 0

/-- The instruction the decoder reads from a word of the opcode table. -/
noncomputable def decodeTableWord (nbits w : Nat) : Option Instr := decodeHalves (tableHalves nbits w)

end Sys2Proof
end

