-- ==== Sys2Proof/Config.lean ====
section
/-! DEFINITION. What an implementation fixes and what spec/ leaves open. Every `opaque` below is a free
value: it has no body, nothing can compute it, and a statement that mentions it holds whatever it is. -/

namespace Sys2Proof.Config

/-- The value below q that a modular product of inputs at or above q is built from (R154): it depends on
the inputs and q alone. -/
opaque openProduct (x y q : Nat) : Nat

/-- As openProduct, for a sum (R154). -/
opaque openSum (x y q : Nat) : Nat

/-- As openProduct, for a difference (R154). -/
opaque openDiff (x y q : Nat) : Nat

/-- A number that spec/ does not determine (which free entry is taken, which translation is used, in
what order U copies combine), one per value of State.fresh. -/
opaque freeNat (n : Nat) : Nat

/-- Undetermined bytes (a tile after an aborted MMAS, R250), one list element per index. -/
opaque freeByte (n i : Nat) : Byte

/-- Which pending event, or else the next instruction, the machine takes next; the order between
agents that spec/ leaves open. -/
opaque pick (n : Nat) : Nat

/-- The core that issues after this step. -/
opaque nextCore (n : Nat) : Nat

/-- Nanoseconds that pass in one step. -/
opaque elapsedNs (n : Nat) : Nat

/-- Cycles of the 1.25 GHz clock that pass in one step. -/
opaque elapsedCycles (n : Nat) : Nat

/-- SHA-384 of an old chain value and new data (R43). -/
opaque sha384 (old : BitVec 384) (data : Nat) : BitVec 384

/-- AES-256-XTS of one 128-byte line under a key and the line's address (R297). -/
opaque xts (key : BitVec 256) (line : Nat) (data : BitVec 1024) : BitVec 1024

/-- The integrity tag of a line (R298): GMAC over its ciphertext and its address, under a key derived from a domain key. -/
opaque gmac (key : BitVec 256) (line : Nat) (cipher : BitVec 1024) : BitVec 64

/-- Latency in cycles that a reply reports (R406), before it saturates at 4,095. -/
opaque latency (n : Nat) : Nat

/-- L2 misses that an epoch counts for an enrolled page (R290). -/
opaque misses (n page : Nat) : Nat

/-- The domain whose key serves a 64 KiB frame for which the Lodge holds no record: R297 gives none (log entry 60). -/
opaque pageDomain (frame : Nat) : BitVec 8

/-- Bits that an SPDM response carries (R43): fixed by the SPDM standard, not by spec/. -/
opaque spdmReply (request session : Nat) : Nat

/-- Cycles a thread may run after a revocation notice before a forced save (R218). -/
abbrev forcedSaveCycles : Nat := 1024

/-- Cycles of an unwind handler's budget (R220). -/
abbrev handlerBudget : Nat := 4096

/-- Cycles after which a blocked thread parks (R63). -/
abbrev parkCycles : Nat := 256

/-- Cycles after which a record is held back (R59) or makes the core request pre-emption (R386). -/
abbrev recordWaitCycles : Nat := 65536

/-- Cycles after which a record is promoted (R62). -/
abbrev promoteCycles : Nat := 1048576

/-- The owner's default safe-point budget when the hypervisor gives none (R24). -/
abbrev spDefault : Nat := 65536

/-- Capacity of a device launch queue (R37). -/
abbrev deviceQueueSize : Nat := 64

/-- Records of a core queue's overflow ring: its size is the hypervisor's (R60); the model takes 4096. -/
abbrev overflowRing : Nat := 4096

/-- Entries of the overflow save ring: its size is the hypervisor's (R389); the model takes 4096. -/
abbrev saveRing : Nat := 4096

/-- Bytes of the queue at the router port of a halted core (R394). -/
abbrev portBytes : Nat := 65536

/-- Records of one trace encoder (R409). -/
abbrev encoderSize : Nat := 64

/-- Physical address at which Pavilion firmware publishes the topology map (R274 names none): stack
view of stack 11, byte 48 GiB. -/
abbrev mapBase : Nat := 0x100BC00000000

end Sys2Proof.Config
end

