-- ==== Sys2Proof/Machine/State.lean ====
section
/-! DEFINITION. The state of the module as plain data: threads, cores and the package. Each field
cites the rule of spec/ that names it. The fields `act`, `agenda`, `fresh` and `nextId` are the model's
own (log entries 1 and 7). -/

namespace Sys2Proof.Machine

/-- Reasons a step could end in a fault. No step of this model does: every event and instruction
answers a next state, and an exception of spec/ is a next state. -/
inductive Fault where
  /-- Raised by nothing; it only gives the type a value. Safe. -/
  | unused
  deriving DecidableEq, Repr

/-- Reasons a step could be refused. -/
inductive Refusal where
  /-- An instruction of the table that has no meaning yet, by its mnemonic; raised by arms of exec
  only. Safe. -/
  | notModelled (mnemonic : String)
  deriving DecidableEq, Repr

/-- Bytes by address: addresses strictly rising, no byte listed that an unlisted address reads as. -/
abbrev Mem := List Host.Cell

/-- The tag states of a g register (R93). -/
inductive Tag where
  | plain | handle | movedFrom | zero
  deriving DecidableEq, Repr

/-- A g register: 64 bits and a tag (R92, R93). -/
structure GReg where
  val : Word
  tag : Tag
  deriving DecidableEq, Repr

/-- The general registers g0-g31. -/
abbrev GFile := Vector GReg 32

/-- The privilege levels of R5. -/
inductive Level where
  | user | guest | hyper | maker
  deriving DecidableEq, Repr

/-- A hardware loop (R132). `age` grows with the order of starting. -/
structure Loop where
  count  : Word
  start  : Word
  stop   : Word
  active : Bool
  age    : Nat
  deriving DecidableEq, Repr

/-- The loops lc0-lc2. -/
abbrev Loops := Vector Loop 3

/-- The causes of R374. -/
inductive Cause where
  | illegalHead | reservedField | privilege | lineFormat | misaligned | pageNotPresent
  | pageRights | domainRights | windowFormat | poolBounds | handleMoved | handleMismatch
  | handleStore | handleLimit | gateInvalid | gateDepth | unwindRevoked | unwindKilled
  | gateWindow | groupFault | groupMismatch | routeDead | routeIllegal | streamState
  | atomicUnsupported | hostLinkDown | migrationTimeout | semOverflow | loopState | watchdog
  | envAlarm | integrity | gangMemberLost | debugStop | breakpoint | trap
  deriving DecidableEq, Repr

/-- A cause with what it puts into TADDR and TINFO (R375). -/
structure Flt where
  cause : Cause
  addr  : Word
  info  : Word
  deriving DecidableEq, Repr

/-- The per-thread registers that a gate call saves and gives start values (R211, R213). -/
structure SysRegs where
  vresume  : Word
  qmod     : Word
  fetchctl : Word
  blax     : Word
  tcause   : Word
  tpc      : Word
  taddr    : Word
  tinfo    : Word
  deriving DecidableEq, Repr

/-- A domain-stack frame (R213). `left` is the remaining budget, none when it is unlimited (R215); `intact` says that its integrity
tag still matches. -/
structure Frame where
  ret    : Word
  caller : BitVec 8
  gate   : BitVec 12
  gbase  : Word
  glen   : Word
  left   : Option Nat
  g      : GFile
  v      : Vector VReg 32
  p      : Vector Word 8
  lc     : Loops
  sys    : SysRegs
  nargs  : Nat
  gaveUp : Bool
  intact : Bool
  deriving DecidableEq, Repr

/-- A continuation's membership of a multicast group (R251, R252). -/
structure GRef where
  die    : BitVec 2
  slot   : BitVec 8
  gen    : BitVec 8
  member : Nat
  deriving DecidableEq, Repr

/-- The continuation a thread runs: its launch, owner, priority with promotion (R62), base priority
and group membership. -/
structure Cont where
  id     : Nat
  launch : Nat
  owner  : BitVec 4
  prio   : Nat
  base   : Nat
  group  : Option GRef
  start  : Nat
  deriving DecidableEq, Repr

/-- What a waiting instruction waits on (R63): `room` is a free entry of a core's deferred list (R308), `port` the router port of a halted
core, with whether the access is a waiting instruction (R394), `fence` an ordering operation in progress (R373); `away` marks a
continuation that PARK has put away, `parked` one that sleeps in place (R139). -/
inductive WaitKind where
  | word (core off : Nat)
  | sem (k : BitVec 8)
  | barrier (pa : Nat) (phase : BitVec 32)
  | sleep (limit : Word)
  | handle (die : Nat) (entries : List (BitVec 16))
  | ground
  | away
  | parked
  | wfi
  | lodge
  | host
  | moving (va : Word)
  | room (core : Nat)
  | port (core : Nat) (parks : Bool)
  | fence
  deriving DecidableEq, Repr

/-- What has come of a waiting instruction (R308, R310). -/
inductive Served where
  | no
  | done
  | value (v : Word)
  | handle (v : Word)
  | fault (f : Flt)
  deriving DecidableEq, Repr

/-- A waiting instruction: what it waits on, what has come of it, the nanosecond it began to wait, and the
cycles it has been resident since (R63, R202). -/
structure WaitRec where
  kind     : WaitKind
  served   : Served
  since    : Nat
  resident : Nat
  deriving DecidableEq, Repr

/-- A watch slot: the 128-byte line and whether a hit is recorded (R201). -/
structure Watch where
  line : Nat
  hit  : Bool
  deriving DecidableEq, Repr

/-- Why a thread unwinds (R219, R222). -/
inductive UnwindWhy where
  | revoked | giveUp | expired | killed
  deriving DecidableEq, Repr

/-- An unwind of a thread (R219, R220): `down` is how many frames stay; `kill` ends the continuation
when the last frame is gone; `handler` is the remaining budget of a running unwind handler; `notice` is the cycle of the first pending
revocation or kill (R218, R393); `due` says that the thread runs nothing more before it unwinds (R218). -/
structure Unwind where
  down    : Nat
  why     : UnwindWhy
  status  : Word
  kill    : Bool
  handler : Option Nat
  notice  : Option Nat
  due     : Bool
  deriving DecidableEq, Repr

/-- One line in a fetch buffer: its address and its 32 halfwords (R66, R85). -/
structure FetchLine where
  line : Word
  half : List Half
  deriving DecidableEq, Repr

/-- A cause held for a thread (R378, R380); a command's fault names the depth and the domain it issued at
(R229), as does the fault of a refused packet (R273); `cmd` tells the first from the second. -/
structure Held where
  flt   : Flt
  frame : Option (Nat × BitVec 8)
  cmd   : Bool
  deriving DecidableEq, Repr

/-- A hardware thread (R92). `ddepth` is the length of `frames`; `inLine` is the line of its last head, whose image it keeps while it
stays in that line (R85); `late` are a debugger's writes of registers while an instruction of the thread was outstanding, with the DBGSEL
of each: they stand over what it returns (R395). -/
structure Thread where
  run      : Option Cont
  pc       : Word
  g        : GFile
  v        : Vector VReg 32
  p        : Vector Word 8
  lc       : Loops
  level    : Level
  domid    : BitVec 8
  frames   : List Frame
  sys      : SysRegs
  shadow   : Loops
  spbudget : Word
  wdog     : Word
  fetch    : List FetchLine
  inLine   : Word
  watch    : Vector (Option Watch) 2
  trace    : BitVec 5
  wait     : Option WaitRec
  held     : List Held
  unwind   : Option Unwind
  preempt  : Option Nat
  exempt   : Bool
  boundary : Bool
  mask     : Option Word
  late     : List (BitVec 16 × Word)
  deriving DecidableEq, Repr

/-- A parked or pre-empted continuation (R63, R387, R389): its saved thread, whether it can be
resumed and since when, whether it lies in the overflow save ring, when it was promoted last (R62), and whether its integrity tag
still matches (R213). -/
structure Parked where
  th        : Thread
  resumable : Bool
  stamp     : Nat
  frozen    : Bool
  inRing    : Bool
  promo     : Nat
  intact    : Bool
  deriving DecidableEq, Repr

/-- A continuation record in a queue (R23, R60). `made` says that a dispatcher created it from a launch; `enq` is its
stamp, `promo` the cycle from which its wait for promotion counts (R62), `waited` its count of R59. -/
structure Record where
  id      : Nat
  code    : Word
  frame   : Word
  join    : Word
  workId  : Word
  launch  : Nat
  owner   : BitVec 4
  prio    : Nat
  group   : Option GRef
  target  : Nat
  enq     : Nat
  promo   : Nat
  waited  : Nat
  heldBack : Bool
  made    : Bool
  deriving DecidableEq, Repr

/-- The kinds of entries of a deferred list (R308, R345). -/
inductive DefKind where
  | take | ldf | takeh
  | put (v : Word)
  | puth (v : Word) (die : Nat)
  deriving DecidableEq, Repr

/-- An entry of a deferred list (R308): the word it waits on and the waiting continuation; `dom` is
the domain a TAKEH checks (R345). -/
structure DefEntry where
  off  : Nat
  kind : DefKind
  cont : Nat
  dom  : BitVec 8
  deriving DecidableEq, Repr

/-- A waiter of a semaphore: a SWAIT of a continuation, or an engine command (R313). -/
inductive Waiter where
  | thread (cont : Nat)
  | command (cmd : Nat)
  deriving DecidableEq, Repr

/-- A place in a semaphore's queue (R313). -/
structure SemWait where
  k   : BitVec 8
  thr : BitVec 16
  who : Waiter
  deriving DecidableEq, Repr

/-- A pool operand of a command: its window and offset (R190). -/
structure PoolOp where
  win : Nat
  off : Nat
  deriving DecidableEq, Repr

/-- A layout record (R246). -/
structure Layout where
  esz : Nat
  n0  : Nat
  n1  : Nat
  n2  : Nat
  fs1 : Word
  fs2 : Word
  ls1 : Nat
  ls2 : Nat
  deriving DecidableEq, Repr

/-- A region of an exclusive tile (R331, R342): the root's base and extents, the region's origin and extents, and
the bytes of an element. -/
structure Region where
  base : Word
  root : Word
  org  : Word
  ext  : Word
  size : Nat
  deriving DecidableEq, Repr

/-- What an engine command does once it starts (chapter 11, R342). -/
inductive CmdOp where
  | mma (t : Nat) (a b : PoolOp) (fromZero : Bool)
  | mmas (t : Nat) (a b : PoolOp)
  | mmaq (t : Nat) (a b : Nat) (clear : Bool) (q : Word)
  | azero (t : Nat)
  | astore (t : Nat) (o : PoolOp) (k : Kind) (rm : Rnd)
  | aload (t : Nat) (o : PoolOp) (k : Kind)
  | sgemv (stack slot : Nat) (x : Nat) (pool : Bool) (y : Nat) (w : SgemvX)
  | cpyin (far : Word) (lay : Layout) (o : Nat)
  | cpyout (far : Word) (lay : Layout) (o : Nat)
  | cpypp (core dst : Nat) (lay : Layout) (o : Nat)
  | cpysc (far : Word) (lay : Layout) (o : PoolOp)
  | cpymq (far : Word) (count : Nat)
  | gather (base : Word) (idx dense : Nat) (x : IndexX)
  | scatter (base : Word) (idx dense : Nat) (x : IndexX)
  | cred (core dst : Nat) (n : Nat) (o : Nat) (t : CredType) (op : CredOp)
  | hcpyOut (die : Nat) (entry : BitVec 16) (o : Nat) (r : Region)
  | gload (die : BitVec 2) (slot gen : BitVec 8) (member : Nat) (src : Word) (len off : Nat)
  deriving DecidableEq, Repr

/-- An engine command of a core (R225-R230). `xlat` holds the translations it took at issue, from
64 KiB virtual page number to physical address; `owned` its global destination lines. `running` says that it
has started, `done` that its effects are made; `popped` are the entries an MMAS has taken from mq, `served` is
what has come of a GLOAD's round, `stall` the nanosecond since which it stalls at an address in a page in motion (R292), and `sent` the
bytes of x that an SGEMV sent at its start (R245). -/
structure Cmd where
  id      : Nat
  eng     : EngineId
  op      : CmdOp
  f       : EngF
  cont    : Nat
  launch  : Nat
  owner   : BitVec 4
  dom     : BitVec 8
  level   : Level
  depth   : Nat
  mine    : Bool
  running : Bool
  done    : Bool
  fault   : Option Flt
  xlat    : List (Nat × Nat)
  owned   : List Nat
  popped  : List (BitVec 2048)
  served  : Served
  stall   : Option (Nat × Word)
  sent    : List Byte
  deriving DecidableEq, Repr

/-- The fault record of a core (R250). -/
structure FaultRec where
  cause   : Cause
  engine  : BitVec 3
  ksig    : BitVec 8
  element : BitVec 32
  addr    : Word
  more    : Bool
  deriving DecidableEq, Repr

/-- An entry of the endpoint route cache (R277). -/
structure RouteEntry where
  route   : Word
  ext     : Word
  dside   : Word
  desc    : Word
  valid   : Bool
  stale   : Bool
  version : Word
  deriving DecidableEq, Repr

/-- A match register and the owner that wrote it (R396). -/
structure MatchReg where
  val   : Word
  owner : Option (BitVec 4)
  deriving DecidableEq, Repr

/-- The debug module of a core (R391, R392); `request` is a debug stop not yet in effect, `data` what the last read of DBGDATA
answered. -/
structure Debug where
  attached : Bool
  halted   : Bool
  brkHalt  : Bool
  stepThr  : BitVec 2
  step     : Bool
  traceOn  : Bool
  request  : Option (BitVec 8)
  reason   : BitVec 8
  hit      : BitVec 2
  thread   : BitVec 2
  error    : BitVec 4
  sel      : BitVec 16
  m        : Vector MatchReg 4
  stepping : Bool
  data     : Word
  deriving DecidableEq, Repr

/-- A trace record (R408). -/
structure TraceRec where
  stamp  : Nat
  kind   : BitVec 4
  source : BitVec 12
  a      : Word
  b      : Word
  owner  : BitVec 4
  deriving DecidableEq, Repr

/-- The operations of reductions, scalar and vector (R322, R326); the float ones are FP32's. -/
inductive RedOp where
  | add | and | or | xor | min | max | fadd
  deriving DecidableEq, Repr

/-- A remote store or reduction on its way to a pool (R185, R353); a store names its bytes by their place
after the message's offset. -/
inductive MsgOp where
  | store (bytes : List (Nat × Byte))
  | reduce (op : RedOp) (t : VType) (v : Nat)
  deriving DecidableEq, Repr

/-- What a hop of a route takes: an output port of a router, a port of a Ronmor switch, numbered 64 × switch + port, or the fabric port
by which a module receives (R266, R269). -/
inductive PortId where
  | router (die key port : Nat)
  | switch (n : Nat)
  | fabric (n : Nat)
  deriving DecidableEq, Repr

/-- A hop of a route: the word that names it, its index there, and its class (R268-R272). -/
structure PathHop where
  port : PortId
  word : Nat
  idx  : Nat
  cls  : Nat
  deriving DecidableEq, Repr

/-- A posted remote-pool message; `path` are the hops of its route, `at_` the address of its first byte with the register field that
named it (R346), `refused` the fault with which it has been returned (R273), and `holds` the words of its own core whose release at scope P
it holds up (R311). -/
structure Msg where
  id     : Nat
  src    : Nat
  cont   : Nat
  launch : Nat
  owner  : BitVec 4
  depth  : Nat
  dom    : BitVec 8
  dst    : Nat
  off    : Nat
  op     : MsgOp
  path   : List PathHop
  at_    : Word × Nat
  refused : Option Flt
  holds  : List Nat
  deriving DecidableEq, Repr

/-- What queues at the router port of a halted core (R394): a posted message or a CRED update, a group fill, the next word of a
stream, by their identifiers; an engine command of another core that writes there; or the request of a waiting thread of another
core, by its continuation. -/
inductive PortItem where
  | msg (id : Nat)
  | fill (id : Nat)
  | word (stream : Nat)
  | command (core id : Nat)
  | request (cont : Nat)
  deriving DecidableEq, Repr

/-- Sent and received counts of one launch at one agent (R401). -/
structure Count where
  launch : Nat
  sent   : Word
  recv   : Word
  deriving DecidableEq, Repr

/-- A core (R92, R102, R391). `scrub` is a scrub under way: the new value of OWNER and the cycle it began (R51); `queue` is the core
queue and `ring` its overflow ring (R60); `worn` are the pool words that hold an uncorrectable error (R382); `port` is the queue at
its router port (R394). -/
structure Core where
  threads  : Vector Thread 4
  valid    : Bool
  owner    : BitVec 4
  scrub    : Option (Bool × BitVec 4 × Nat)
  pb1      : BitVec 16
  pb2      : BitVec 16
  pb3      : BitVec 16
  pool     : Mem
  worn     : List Nat
  full     : List Nat
  marks    : List Nat
  deferred : List DefEntry
  sems     : Vector (BitVec 16) 256
  semq     : List SemWait
  mq       : List (BitVec 2048)
  cmds     : List Cmd
  frec     : Option FaultRec
  ovf      : Vector Bool 4
  routes   : Vector RouteEntry 64
  chans    : Vector (Option Nat) 4
  queue    : List Record
  ring     : List Record
  parked   : List Parked
  sums     : Vector (BitVec 48) 64
  cnts     : Vector (BitVec 32) 64
  dbg      : Debug
  encoder  : List TraceRec
  dropped  : Nat
  last     : BitVec 2
  port     : List PortItem
  counts   : List Count
  change   : Option Nat
  deriving DecidableEq, Repr

/-- The states of a domain (R204). -/
inductive DomState where
  | free | live | revoked
  deriving DecidableEq, Repr

/-- An entry of the domain table (R204). -/
structure Domain where
  owner : BitVec 4
  root  : Word
  key   : BitVec 256
  tvec  : Word
  state : DomState
  deriving DecidableEq, Repr

/-- The states of a gate (R205). -/
inductive GateState where
  | free | opened | closed | revoked
  deriving DecidableEq, Repr

/-- An entry of the gate table (R205). -/
structure Gate where
  entry   : Word
  unwind  : Word
  budget  : BitVec 32
  domain  : BitVec 8
  nargs   : BitVec 4
  wmax    : BitVec 39
  callers : BitVec 256
  state   : GateState
  deriving DecidableEq, Repr

/-- The modes of an owner (R53). -/
inductive OwnerMode where
  | strict | lending | keeping
  deriving DecidableEq, Repr

/-- What the Lodge and the hypervisor hold of an owner (R24, R44, R47, R53, R276, R408). -/
structure OwnerRec where
  created   : Bool
  cert      : Nat
  spDefault : BitVec 32
  defMode   : OwnerMode
  mode      : OwnerMode
  eventWord : Nat
  traceRing : Nat
  traceLen  : Nat
  confirmed : Bool
  frozen    : Option Nat
  deriving DecidableEq, Repr

/-- The gang protocol of a launch on this member (R40, R41). -/
inductive GangPhase where
  | none | prepared (at_ : Nat) | committed (at_ : Nat) | aborted
  deriving DecidableEq, Repr

/-- The gang side of a launch (R39-R41); `digests` are those that prepared replies carried (R42). -/
structure Gang where
  phase    : GangPhase
  gangId   : Word
  self     : Nat
  table    : List Nat
  prepared : List Nat
  commits  : List Nat
  lost     : List Nat
  sentAt   : Nat
  digests  : List (Nat × Nat)
  deriving DecidableEq, Repr

/-- What a sweep read of one core at an earlier moment (R403): the core, its counts, and whether it was idle for the launch. -/
structure Sample where
  core : Nat
  sent : Word
  recv : Word
  idle : Bool
  deriving DecidableEq, Repr

/-- A live launch (R13-R24, R401-R404). `header` is the 16 words of R16, `sent` the count of each die's dispatcher, and `seen` what the
sweep under way has read. -/
structure Launch where
  serial   : Nat
  header   : List Word
  owner    : BitVec 4
  src      : LaunchSrc
  producer : Nat
  die      : Nat
  created  : List Nat
  run      : Nat
  faults   : Nat
  dealt    : Option Nat
  sent     : Vector Word 4
  seen     : List Sample
  sums     : Option (Word × Word)
  status   : BitVec 8
  gang     : Gang
  deriving DecidableEq, Repr

/-- A host launch queue's control block (R32, R35). -/
structure HostQueue where
  number  : Nat
  ring    : Word
  owner   : BitVec 4
  kiosk   : Nat
  entries : BitVec 32
  tail    : Word
  head    : Word
  errIdx  : BitVec 56
  errCode : BitVec 8
  stopped : Bool
  deriving DecidableEq, Repr

/-- A header in a device launch queue (R37). -/
structure DevEntry where
  die    : Nat
  owner  : BitVec 4
  header : List Word
  addr   : Word
  deriving DecidableEq, Repr

/-- A member record of a group (R252, R265). `left` is the first round whose required count its leaving has lowered (R254), none while it
has not left. -/
structure Member where
  core     : Option Nat
  enrolled : Bool
  left     : Option Nat
  counter  : Nat
  late     : Bool
  aged     : Bool
  part     : Bool
  skipped  : Bool
  asked    : Nat
  deriving DecidableEq, Repr

/-- A GLOAD request on its way to, or counted at, the slice (R256, R257); `stall` is the nanosecond since which its late read stalls on a
page in motion (R292). -/
structure GReq where
  id     : Nat
  die    : BitVec 2
  slot   : BitVec 8
  gen    : BitVec 8
  member : Nat
  round  : Nat
  core   : Nat
  cont   : Nat
  launch : Nat
  src    : Word
  len    : Nat
  off    : Nat
  ksig   : BitVec 8
  inc    : BitVec 8
  stall  : Option Nat
  deriving DecidableEq, Repr

/-- A round that the slice holds open (R257); `timed` says, of one whose release waits for the read of its source, whether it is a release
by timer (R258), and `stall` is the nanosecond since which that read stalls on a page in motion (R292). -/
structure Round where
  src    : Word
  len    : Nat
  off    : Nat
  since  : Nat
  askers : List GReq
  timed  : Option Bool
  stall  : Option Nat
  deriving DecidableEq, Repr

/-- A multicast group (R251, R252, R258). `past` is the last eight released rounds. -/
structure Group where
  die     : BitVec 2
  slot    : BitVec 8
  gen     : BitVec 8
  launch  : Nat
  domain  : BitVec 8
  size    : Nat
  timer   : Nat
  round   : Nat
  members : List Member
  open_   : Option Round
  past    : List (Nat × Word × Nat × Nat)
  deriving DecidableEq, Repr

/-- A fill of a round on its way to a member's pool (R261); `pa` is the physical address of the round's source. -/
structure Fill where
  id     : Nat
  die    : BitVec 2
  slot   : BitVec 8
  gen    : BitVec 8
  member : Nat
  round  : Nat
  core   : Nat
  cont   : Nat
  launch : Nat
  pa     : Nat
  off    : Nat
  bytes  : List Byte
  ksig   : BitVec 8
  inc    : BitVec 8
  deriving DecidableEq, Repr

/-- A stream channel's route and its words in flight (R280-R284). `links` are the hops of its route but those to a cluster,
`held` how many its setup flit has reserved; `waiting` says that the first of its words waits on a full word
(R283), and `beyond` is the module where a route across the fabric ends. -/
structure Stream where
  id      : Nat
  core    : Nat
  thr     : Nat
  cont    : Nat
  launch  : Nat
  owner   : BitVec 4
  depth   : Nat
  links   : List PathHop
  dstCore : Nat
  dstOff  : Nat
  n       : Nat
  sent    : Nat
  arrived : Nat
  words   : List Word
  credits : Nat
  broken  : Option (BitVec 28)
  held    : Nat
  waiting : Bool
  closing : Bool
  beyond  : Option Nat
  deriving DecidableEq, Repr

/-- The states of a Trellis entry (R331). -/
inductive HState where
  | free | held | split | inWord | lost
  deriving DecidableEq, Repr

/-- A Trellis entry (R331); `pending` are the commands whose transfers count against it, and `word` is the marked word that holds the
handle (R345). -/
structure TEntry where
  base    : Word
  org     : Word
  ext     : Word
  parent  : BitVec 16
  sibling : BitVec 16
  gen     : BitVec 8
  domain  : BitVec 8
  type    : BitVec 4
  rank    : BitVec 2
  axis    : BitVec 2
  state   : HState
  pending : List Nat
  word    : Option (Nat × Nat)
  deriving DecidableEq, Repr

/-- A matrix mapped in a stack's Grotto (R242, R243). -/
structure Matrix where
  stack  : Nat
  slot   : Nat
  dom    : BitVec 8
  base   : Word
  scales : Word
  rows   : Nat
  cols   : Nat
  format : BitVec 4
  xlat   : List (Nat × Nat)
  deriving DecidableEq, Repr

/-- A cached translation (R180): the domain, the virtual 64 KiB page, and the leaf found for it. -/
structure TlbEntry where
  dom  : BitVec 8
  page : Nat
  pa   : Nat
  leaf : Word
  deriving DecidableEq, Repr

/-- A U copy of a line (R324): the core whose cache holds it, its operation and type, and the partial
result of each touched element. -/
structure UCopy where
  core  : Nat
  line  : Nat
  op    : RedOp
  type  : VType
  parts : List (Nat × Nat)
  deriving DecidableEq, Repr

/-- A fabric-port or switch-port record of the topology map (R275). -/
structure PortRec where
  state   : LinkState
  up      : Bool
  kind    : Nat
  pport   : Nat
  peer    : Nat
  changed : Word
  deriving DecidableEq, Repr

/-- A page of the migration table (R290, R292). -/
structure MigPage where
  id       : Nat
  dev      : Nat
  host     : Nat
  atHost   : Bool
  devHits  : Nat
  hostHits : Nat
  moving   : Bool
  leaves   : List Nat
  deriving DecidableEq, Repr

/-- An entry of the stranded-line log (R301). -/
structure Stranded where
  pa     : Nat
  tsc    : Nat
  domain : BitVec 8
  data   : BitVec 512
  deriving DecidableEq, Repr

/-- A completion record that waits, because its place lies in a page in motion (R22, R292): the owner and the source of its launch, what it
holds, and the header. -/
structure LateRecord where
  owner    : BitVec 4
  src      : LaunchSrc
  producer : Nat
  header   : List Word
  status   : BitVec 8
  check    : BitVec 8
  run      : Nat
  faults   : Nat
  deriving DecidableEq, Repr

/-- A storage queue (R303). -/
structure StorageQueue where
  number  : Nat
  owner   : BitVec 4
  dom     : BitVec 8
  kiosk   : Nat
  ns      : Nat
  ring    : Word
  entries : BitVec 32
  tailVa  : Word
  head    : Nat
  deriving DecidableEq, Repr

/-- A storage command under way (R304): its queue's domain and its eight words. -/
structure StorageCmd where
  id    : Nat
  queue : Nat
  dom   : BitVec 8
  words : List Word
  deriving DecidableEq, Repr

/-- A registered collective record (R42): `digests` are those of each member that it names. -/
structure Collective where
  launch  : Nat
  pa      : Nat
  collId  : BitVec 16
  names   : List Nat
  digests : List Nat
  written : Bool
  deriving DecidableEq, Repr

/-- What the last request of an SPDM session got (R43, R44): nothing yet, UnexpectedRequest, the bits that the SPDM standard
gives, the measurement indices, or one index. -/
inductive SpdmReply where
  | none
  | unexpected
  | answer (bits : Nat)
  | indices (l : List (Nat × BitVec 384))
  | index (v : BitVec 384)
  deriving DecidableEq, Repr

/-- An SPDM session (R43, R44): the stage it has reached and the mutually authenticated requester. -/
structure Session where
  id    : Nat
  stage : Nat
  cert  : Option Nat
  reply : SpdmReply
  deriving DecidableEq, Repr

/-- The power states of R413. -/
inductive Power where
  | active | nap | doze | sleep
  deriving DecidableEq, Repr

/-- The clock of a die (R412): its frequency in MHz, whether it is held, whether its alarm stands, and
since which nanosecond it has been clear. -/
structure DieClock where
  mhz   : Nat
  held  : Bool
  alarm : Bool
  clear : Option Nat
  deriving DecidableEq, Repr

/-- The bins of R1. -/
inductive Bin where
  | u1024 | u768
  deriving DecidableEq, Repr

/-- How the instruction under execution ended; read by step (R135, R75): `crossed` is a transfer out of the code
that the loops belong to. -/
inductive Out where
  | fell | jumped | crossed | trapped | waits | retired
  deriving DecidableEq, Repr

/-- Which core and thread executes, the head it executes, the location after it (R87), and how it
ended. -/
structure Act where
  core : Nat
  thr  : BitVec 2
  head : Half
  next : Word
  out  : Out
  deriving DecidableEq, Repr

/-- The machine. -/
structure State where
  act      : Act
  agenda   : List Instr
  fresh    : Nat
  nextId   : Nat
  bin      : Bin
  module   : BitVec 11
  cores    : List (Nat × Core)
  mem      : Mem
  tlb      : List TlbEntry
  ucopies  : List UCopy
  excl     : List (Nat × Nat)
  bad      : List (Nat × BitVec 4)
  denied   : List (BitVec 8 × Nat)
  domains  : List (Nat × Domain)
  gates    : List (Nat × Gate)
  owners   : Vector OwnerRec 16
  launches : List Launch
  devq     : List DevEntry
  dieq     : List (Nat × Record)
  hostq    : List HostQueue
  groups   : List Group
  ggens    : List (Nat × BitVec 8)
  greqs    : List GReq
  fills    : List Fill
  streams  : List Stream
  msgs     : List Msg
  trellis  : List (Nat × TEntry)
  matrices : List Matrix
  grotto   : List (Nat × Nat)
  scheds   : List (Resource × List Slot)
  schedNew : List (Resource × List Slot × Nat)
  mapVer   : Word
  links    : List ((Nat × Nat × Nat) × LinkState × Word)
  fports   : List (Nat × PortRec)
  switches : List (Nat × PortRec)
  migctl   : Word
  migTable : List MigPage
  migRing  : Nat
  migNext  : Nat
  cxlUp    : Bool
  cxlBuf   : List (Nat × BitVec 512)
  shared   : List (Nat × Nat)
  pageKeys : List (Nat × BitVec 8)
  regions  : List (Nat × Nat)
  hostLine : List (Nat × BitVec 512)
  rasLog   : List Nat
  corrected : Nat
  strandOn : Bool
  stranded : List Stranded
  ctlUp    : Bool
  ctlBack  : Option Nat
  xfence   : Word
  xfences  : List Word
  hostRead : Option (BitVec 512)
  storeqs  : List StorageQueue
  storing  : List StorageCmd
  late     : List LateRecord
  collects : List Collective
  refused  : List (Nat × Word)
  sessions : List Session
  meas     : List (Nat × BitVec 384)
  clocks   : Vector DieClock 4
  power    : Power
  ltr      : Option (Nat × Nat)
  tripped  : Bool
  bootCause : BitVec 8
  booting : Option BootResult
  bootStep : BitVec 4
  ready    : Bool
  cycle    : Nat
  ns       : Nat
  deriving DecidableEq, Repr

/-- A g register holding 0, plain (R24). -/
def zeroG : GReg := ⟨0, .plain⟩

/-- An inactive loop of count 0 (R132). -/
def zeroLoop : Loop := ⟨0, 0, 0, false, 0⟩

/-- Start values of the per-thread system registers that R24 does not set (R102). -/
def startSys : SysRegs :=
  ⟨0, 0x3FFFFFFFFFFFFFFF, 4, 0, 0, 0, 0, 0⟩

/-- A thread that runs nothing. -/
def resetThread : Thread where
  run := none
  pc := 0
  g := Vector.replicate 32 zeroG
  v := Vector.replicate 32 0
  p := Vector.replicate 8 0
  lc := Vector.replicate 3 zeroLoop
  level := .user
  domid := 0
  frames := []
  sys := startSys
  shadow := Vector.replicate 3 zeroLoop
  spbudget := 65536
  wdog := 0
  fetch := []
  inLine := 0
  watch := Vector.replicate 2 none
  trace := 0
  wait := none
  held := []
  unwind := none
  preempt := none
  exempt := false
  boundary := false
  mask := none
  late := []

/-- The debug module at reset (R392, R396). -/
def resetDebug : Debug where
  attached := false
  halted := false
  brkHalt := false
  stepThr := 0
  step := false
  traceOn := false
  request := none
  reason := 0
  hit := 0
  thread := 0
  error := 0
  sel := 0
  m := Vector.replicate 4 ⟨0, none⟩
  stepping := false
  data := 0

/-- An invalid route cache entry (R277). -/
def resetRoute : RouteEntry := ⟨0, 0, 0, 0, false, false, 0⟩

/-- A core as it stands at reset: no owner (R49), the reset boundaries (R58), nothing running. -/
def resetCore : Core where
  threads := Vector.replicate 4 resetThread
  valid := false
  owner := 0
  scrub := none
  pb1 := 2
  pb2 := 22
  pb3 := 46
  pool := []
  worn := []
  full := []
  marks := []
  deferred := []
  sems := Vector.replicate 256 0
  semq := []
  mq := []
  cmds := []
  frec := none
  ovf := Vector.replicate 4 false
  routes := Vector.replicate 64 resetRoute
  chans := Vector.replicate 4 none
  queue := []
  ring := []
  parked := []
  sums := Vector.replicate 64 0
  cnts := Vector.replicate 64 0
  dbg := resetDebug
  encoder := []
  dropped := 0
  last := 3
  port := []
  counts := []
  change := none

/-- A free domain (R204). -/
def freeDomain : Domain := ⟨0, 0, 0, 0, .free⟩

/-- A free gate (R205). -/
def freeGate : Gate := ⟨0, 0, 0, 0, 0, 0, 0, .free⟩

/-- An owner the hypervisor has not created (R24, R53). -/
def noOwner : OwnerRec := ⟨false, 0, 65536, .keeping, .keeping, 0, 0, 0, true, none⟩

/-- A free Trellis entry (R331). -/
def freeEntry : TEntry := ⟨0, 0, 0, 0, 0, 0, 0, 0, 0, 0, .free, [], none⟩

/-- A launch with no gang (R39). -/
def noGang : Gang := ⟨.none, 0, 0, [], [], [], [], 0, []⟩

/-- The module right after a fundamental reset, before bring-up (R414): the first entry of the agenda
is its first step. -/
def State.reset : State where
  act := ⟨0, 0, 0, 0, .fell⟩
  agenda := [.fundamentalReset .ok]
  fresh := 0
  nextId := 1
  bin := .u1024
  module := 0
  cores := []
  mem := []
  tlb := []
  ucopies := []
  excl := []
  bad := []
  denied := []
  domains := []
  gates := []
  owners := Vector.replicate 16 noOwner
  launches := []
  devq := []
  dieq := []
  hostq := []
  groups := []
  ggens := []
  greqs := []
  fills := []
  streams := []
  msgs := []
  trellis := []
  matrices := []
  grotto := []
  scheds := []
  schedNew := []
  mapVer := 0
  links := []
  fports := []
  switches := []
  migctl := 0x0000000001000A00
  migTable := []
  migRing := 0
  migNext := 0
  cxlUp := false
  cxlBuf := []
  shared := []
  pageKeys := []
  regions := []
  hostLine := []
  rasLog := []
  corrected := 0
  strandOn := false
  stranded := []
  ctlUp := true
  ctlBack := none
  xfence := 0
  xfences := []
  hostRead := none
  storeqs := []
  storing := []
  late := []
  collects := []
  refused := []
  sessions := []
  meas := []
  clocks := Vector.replicate 4 ⟨1250, false, false, none⟩
  power := .active
  ltr := none
  tripped := false
  bootCause := 0
  booting := some .ok
  bootStep := 0
  ready := false
  cycle := 0
  ns := 0

end Sys2Proof.Machine
end

