-- ==== Sys2Proof/Machine/Ops.lean ====
section
/-! DEFINITION. The operations every meaning is written over: access to cores and threads, the general
registers (R87, R93-R95), ends of an instruction, taking an exception (R375-R378), and the return from
one (R379). -/

namespace Sys2Proof.Machine

/-- The outcome type of exec and step. -/
abbrev Outcome := Host.Outcome State Fault Refusal

/-- Why an instruction does not complete: a precise fault, one that leaves the given state (R199, R278), or it
is not ready or waits (R63, R98), with what it then waits on. -/
inductive Stop where
  | fault (f : Flt)
  | faultIn (s : State) (f : Flt)
  | hold (w : Option WaitKind)
  deriving DecidableEq, Repr

/-- A computation that may raise a precise fault or find the thread not ready. -/
abbrev Ex (α : Type) := Except Stop α

/-- Raises a fault. -/
def raise {α : Type} (f : Flt) : Ex α := .error (.fault f)

/-! ### Keyed lists -/

/-- The value under a key. -/
def getKey {α : Type} (k : Nat) (d : α) : List (Nat × α) → α
  | [] => d
  | (k', v) :: r => if k = k' then v else getKey k d r

/-- Sets the value under a key, keeping keys in rising order. -/
def putKey {α : Type} (k : Nat) (v : α) : List (Nat × α) → List (Nat × α)
  | [] => [(k, v)]
  | (k', v') :: r =>
    if k < k' then (k, v) :: (k', v') :: r
    else if k = k' then (k, v) :: r
    else (k', v') :: putKey k v r

/-- Removes a key. -/
def dropKey {α : Type} (k : Nat) (l : List (Nat × α)) : List (Nat × α) := l.filter (fun e => e.1 != k)

/-- The least element of a list by a rank; the first on a tie. -/
def leastBy {α : Type} (f : α → Nat) : List α → Option α
  | [] => none
  | a :: r =>
    match leastBy f r with
    | none => some a
    | some b => if f b < f a then some b else some a

/-! ### Cores and threads -/

/-- A thread of a core. -/
def Core.thread (k : Core) (i : BitVec 2) : Thread := k.threads[i.toNat]'i.isLt

/-- Replaces a thread of a core. -/
def Core.setThread (k : Core) (i : BitVec 2) (t : Thread) : Core :=
  { k with threads := k.threads.set i.toNat t i.isLt }

/-- A core by its number (R48). -/
def State.getCore (s : State) (c : Nat) : Core := getKey c resetCore s.cores

/-- Replaces a core. -/
def State.setCore (s : State) (c : Nat) (k : Core) : State := { s with cores := putKey c k s.cores }

/-- Changes a core. -/
def State.modCore (s : State) (c : Nat) (f : Core → Core) : State := s.setCore c (f (s.getCore c))

/-- A thread by core and index. -/
def State.getThread (s : State) (c : Nat) (i : BitVec 2) : Thread := (s.getCore c).thread i

/-- Replaces a thread. -/
def State.setThread (s : State) (c : Nat) (i : BitVec 2) (t : Thread) : State :=
  s.setCore c ((s.getCore c).setThread i t)

/-- Changes a thread. -/
def State.modThread (s : State) (c : Nat) (i : BitVec 2) (f : Thread → Thread) : State :=
  s.setThread c i (f (s.getThread c i))

/-- The core that executes. -/
def State.core (s : State) : Core := s.getCore s.act.core

/-- The thread that executes. -/
def State.me (s : State) : Thread := s.getThread s.act.core s.act.thr

/-- Replaces the executing thread. -/
def State.setMe (s : State) (t : Thread) : State := s.setThread s.act.core s.act.thr t

/-- Changes the executing thread. -/
def State.modMe (s : State) (f : Thread → Thread) : State := s.setMe (f s.me)

/-- Changes the executing core. -/
def State.modCore1 (s : State) (f : Core → Core) : State := s.modCore s.act.core f

/-- Byte address of the executing head (R87). -/
def State.here (s : State) : Word := s.me.pc

/-- Depth of the domain stack (R102). -/
def Thread.depth (t : Thread) : Nat := t.frames.length

/-- The domain-table entry of a domain (R204). -/
def State.domain (s : State) (d : BitVec 8) : Domain := getKey d.toNat freeDomain s.domains

/-- The gate-table entry of a gate (R205). -/
def State.gate (s : State) (g : BitVec 12) : Gate := getKey g.toNat freeGate s.gates

/-- Adds a pending step. -/
def State.post (s : State) (i : Instr) : State := { s with agenda := s.agenda ++ [i] }

/-- Adds a pending step, once. -/
def State.postNew (s : State) (i : Instr) : State := if s.agenda.contains i then s else s.post i

/-- The present free value (log entry 1). -/
def State.free (s : State) : Nat := Config.freeNat s.fresh

/-- The state after a free value is used. -/
def State.spent (s : State) : State := { s with fresh := s.fresh + 1 }

/-- A new identifier, and the state that has used it. -/
def State.newId (s : State) : Nat × State := (s.nextId, { s with nextId := s.nextId + 1 })

/-- Picks one element of a list by the present free value. -/
def pickFree {α : Type} (n : Nat) (l : List α) : Option α := l[n % l.length]?

/-! ### Core numbers (R3, R48) -/

/-- The die of a compute core: [9:8] of its number (R48). -/
def coreDie (c : Nat) : Nat := c / 256 % 4

/-- The router key of a compute core: [7:4] of its number (R48). -/
def coreRouter (c : Nat) : Nat := c / 16 % 16

/-- The compute routers without cores in a bin (R2). -/
def absentRouter (b : Bin) (key : Nat) : Bool := b = .u768 && [2, 5, 10, 13].contains key

/-- A compute core that the bin has (R2, R48). -/
def State.isCompute (s : State) (c : Nat) : Bool := c < 0x400 && !absentRouter s.bin (coreRouter c)

/-- A Pavilion core (R48; the split of 0x400-0x447 is log entry 9). -/
def isPavilion (c : Nat) : Bool := 0x400 ≤ c && c < 0x408

/-- A Kiosk core. -/
def isKiosk (c : Nat) : Bool := 0x408 ≤ c && c < 0x448

/-- The model's number for the Lodge. -/
abbrev lodgeCore : Nat := 0x448

/-- The core type of a core number (R83). -/
def coreType (c : Nat) : CoreType :=
  if c < 0x400 then .compute else if c < lodgeCore then .control else .lodge

/-! ### Levels and causes -/

/-- Codes of the privilege levels (R5). -/
def Level.code : Level → BitVec 2
  | .user => 0 | .guest => 1 | .hyper => 2 | .maker => 3

/-- The level of a code. -/
def Level.ofCode (c : BitVec 2) : Level := [Level.user, .guest, .hyper, .maker].getD c.toNat .user

/-- The higher of two levels. -/
def Level.sup (a b : Level) : Level := if a.code.toNat < b.code.toNat then b else a

/-- Whether `a` is at least `b`. -/
def Level.atLeast (a b : Level) : Bool := b.code.toNat ≤ a.code.toNat

/-- Cause codes (R374). -/
def Cause.code : Cause → BitVec 8
  | .illegalHead => 0x01 | .reservedField => 0x02 | .privilege => 0x03 | .lineFormat => 0x04
  | .misaligned => 0x05 | .pageNotPresent => 0x08 | .pageRights => 0x09 | .domainRights => 0x0A
  | .windowFormat => 0x0B | .poolBounds => 0x0C | .handleMoved => 0x10 | .handleMismatch => 0x11
  | .handleStore => 0x12 | .handleLimit => 0x13 | .gateInvalid => 0x18 | .gateDepth => 0x19
  | .unwindRevoked => 0x1A | .unwindKilled => 0x1B | .gateWindow => 0x1C | .groupFault => 0x20
  | .groupMismatch => 0x21 | .routeDead => 0x28 | .routeIllegal => 0x29 | .streamState => 0x2A
  | .atomicUnsupported => 0x30 | .hostLinkDown => 0x31 | .migrationTimeout => 0x32
  | .semOverflow => 0x38 | .loopState => 0x3A | .watchdog => 0x40 | .envAlarm => 0x41
  | .integrity => 0x42 | .gangMemberLost => 0x43 | .debugStop => 0x48 | .breakpoint => 0x49
  | .trap => 0x50

/-- A fault with its detail in TINFO only. -/
def flt (c : Cause) (info : Word) : Flt := ⟨c, 0, info⟩

/-- A fault with an address. -/
def fltAt (c : Cause) (addr info : Word) : Flt := ⟨c, addr, info⟩

/-- Raises a fault when a condition holds. -/
def faultIf (b : Bool) (f : Flt) : Ex Unit := if b then raise f else .ok ()

/-- A Bool as a word. -/
def bit (b : Bool) : Word := if b then 1 else 0

/-! ### General, vector and pointer registers -/

/-- The register as it is stored. -/
def Thread.greg (t : Thread) (n : R) : GReg := t.g[n.toNat]'n.isLt

/-- tag_of (R87). -/
def Thread.tagOf (t : Thread) (n : R) : Tag := if n = 0 then .plain else (t.greg n).tag

/-- rd_g (R87): g0 is 0, a moved-from register faults, a register with tag zero holds 0 (R93). -/
def Thread.rdG (t : Thread) (n : R) : Ex Word :=
  match t.tagOf n with
  | .movedFrom => raise (flt .handleMoved (n.setWidth 64))
  | .zero => .ok 0
  | _ => .ok (if n = 0 then 0 else (t.greg n).val)

/-- Writes a register with a tag; writes to g0 are ignored (R87). -/
def Thread.setG (t : Thread) (n : R) (v : Word) (tag : Tag := .plain) : Thread :=
  if n = 0 then t else { t with g := t.g.set n.toNat ⟨v, tag⟩ n.isLt }

/-- The check of R94 on a destination: a live handle is not overwritten. -/
def Thread.freeG (t : Thread) (n : R) : Ex Unit :=
  faultIf (t.tagOf n = .handle) (flt .handleStore (n.setWidth 64 ||| 0x20))

/-- wr_g with the check of R94. -/
def Thread.wrG (t : Thread) (n : R) (v : Word) : Ex Thread := do
  t.freeG n
  .ok (t.setG n v)

/-- A stored source: a handle-tagged register faults, then rd_g (R194). -/
def Thread.rdStored (t : Thread) (n : R) : Ex Word := do
  faultIf (t.tagOf n = .handle) (flt .handleStore (n.setWidth 64))
  t.rdG n

/-- rd_v (R87). -/
def Thread.rdV (t : Thread) (n : R) : VReg := t.v[n.toNat]'n.isLt

/-- wr_v (R87). -/
def Thread.wrV (t : Thread) (n : R) (x : VReg) : Thread := { t with v := t.v.set n.toNat x n.isLt }

/-- rd_p (R87). -/
def Thread.rdP (t : Thread) (n : P) : Word := t.p[n.toNat]'n.isLt

/-- wr_p (R87). -/
def Thread.wrP (t : Thread) (n : P) (x : Word) : Thread := { t with p := t.p.set n.toNat x n.isLt }

/-- The registers g1-g31 whose tag is handle, as a mask (R138, R214). -/
def Thread.handleMask (t : Thread) : Word :=
  (List.range 32).foldl (fun m n => if t.tagOf (BitVec.ofNat 5 n) = .handle then m ||| (1#64 <<< n) else m) 0

/-! ### Pointer fields (R96, R97) -/

/-- Signed stride of a pointer, [63:40]. -/
def ptrStride (p : Word) : Word := (p.extractLsb' 40 24).signExtend 64

/-- The aw bit of a pointer. -/
def ptrAw (p : Word) : Bool := p.getLsbD 39

/-- The window of a pointer with aw = 0, [35:32]. -/
def ptrWindow (p : Word) : Nat := (p.extractLsb' 32 4).toNat

/-- The pool offset of a pointer with aw = 0, [21:0]. -/
def ptrOffset (p : Word) : Nat := (p.extractLsb' 0 22).toNat

/-- A pointer advanced by x: within [21:0], or within [38:0] when aw = 1; other fields unchanged. -/
def ptrAdvance (p x : Word) : Word :=
  if ptrAw p then p.extractLsb' 39 25 ++ (p + x).extractLsb' 0 39
  else p.extractLsb' 22 42 ++ (p + x).extractLsb' 0 22

/-- Post-increment (R97). -/
def Thread.bump (t : Thread) (n : P) (post : Bool) : Thread :=
  if post then t.wrP n (ptrAdvance (t.rdP n) (ptrStride (t.rdP n))) else t

/-! ### Launch accounting and trace records -/

/-- Adds one to the fault count of a launch (R22, R404). -/
def State.countFault (s : State) (launch : Nat) : State :=
  { s with launches := s.launches.map (fun l => if l.serial = launch then { l with faults := l.faults + 1 } else l) }

/-- Changes the launch with a serial number. -/
def State.modLaunch (s : State) (launch : Nat) (f : Launch → Launch) : State :=
  { s with launches := s.launches.map (fun l => if l.serial = launch then f l else l) }

/-- The launch with a serial number. -/
def State.launchOf (s : State) (launch : Nat) : Option Launch := s.launches.find? (fun l => l.serial = launch)

/-- The launch that a thread's continuation belongs to; 0 for none. -/
def Thread.launch (t : Thread) : Nat := (t.run.map Cont.launch).getD 0

/-- The source field of a trace record: tid of THREAD (R103, R408). -/
def tidOf (c : Nat) (i : BitVec 2) : BitVec 12 := BitVec.ofNat 12 (c * 4 + i.toNat)

/-- A record offered to a core's encoder: dropped and counted when its 64 places are taken (R409). -/
def Core.emit (k : Core) (r : TraceRec) : Core :=
  if k.encoder.length < Config.encoderSize then { k with encoder := k.encoder ++ [r] }
  else { k with dropped := k.dropped + 1 }

/-- Emits a trace record of a thread when trace_on = 1 and its mask bit is set (R399); `bit` none stands for
the record of TRACE itself. -/
def State.traceAs (s : State) (c : Nat) (i : BitVec 2) (bit : Option Nat) (kind : BitVec 4) (a b : Word) : State :=
  let k := s.getCore c
  let t := k.thread i
  let on := k.dbg.traceOn && (match bit with | some n => t.trace.getLsbD n | none => true)
  if on then
    s.setCore c (k.emit ⟨s.ns, kind, tidOf c i, a, b, (s.domain t.domid).owner⟩)
  else s

/-! ### Requests to unwind and kill -/

/-- The earlier of two cycles that may be absent. -/
def earliest (a b : Option Nat) : Option Nat :=
  match a, b with
  | some x, some y => some (min x y)
  | some x, none => some x
  | none, y => y

/-- Merges an unwind request into a thread (R218, R219, R224): the lower target governs, at one target a
revocation; a kill unwinds every frame. DESIGN CHOICE (log entry 76): where a kill by the hypervisor and the revocation of the base domain
meet, the revocation governs, whichever came first. -/
def Unwind.merge (old : Option Unwind) (new : Unwind) : Unwind :=
  match old with
  | none => new
  | some o =>
    let takeNew :=
      if o.kill then new.kill && new.why = .revoked
      else new.kill || new.down < o.down || (new.down = o.down && new.why = .revoked)
    let base := if takeNew then new else o
    { base with
      handler := o.handler
      notice := earliest o.notice new.notice
      due := o.due || new.due }

/-- Asks a thread to unwind and posts the step that does it (R219). -/
def State.askUnwind (s : State) (c : Nat) (i : BitVec 2) (u : Unwind) : State :=
  (s.modThread c i (fun t => { t with unwind := some (Unwind.merge t.unwind u) })).post (.unwind c i.toNat)

/-- Marks the top frame as given up, so that its own handler does not run (R216). -/
def Thread.giveUpTop (t : Thread) : Thread :=
  match t.frames with
  | f :: r => { t with frames := { f with gaveUp := true } :: r }
  | [] => t

/-- A fault with no handler (R377), a double fault (R378), or GDONE #1 (R216): at a depth of at least one
the top frame unwinds with status 3; at depth 0 the continuation ends as a kill. -/
def State.giveUp (s : State) (c : Nat) (i : BitVec 2) : State :=
  let t := s.getThread c i
  let s := s.modThread c i Thread.giveUpTop
  if t.depth = 0 then s.askUnwind c i ⟨0, .killed, 6, true, none, some s.cycle, true⟩
  else s.askUnwind c i ⟨t.depth - 1, .giveUp, 3, false, none, none, true⟩

/-! ### Taking an exception (R375) -/

/-- Whether TCAUSE active = 1 (R376). -/
def Thread.active (t : Thread) : Bool := t.sys.tcause.getLsbD 15

/-- The TCAUSE word of a delivery (R375, R376). -/
def causeWord (c : Cause) (async : Bool) (plevel : Level) : Word :=
  0#48 ++ 1#1 ++ 0#2 ++ plevel.code ++ 0#1 ++ BitVec.ofBool async ++ 0#1 ++ c.code

/-- What delivery writes in the thread, with `vec` as TVEC (R375): the saved registers, the shadow, the level,
the loops, the fetch buffer, and the pc. -/
def Thread.enter (t : Thread) (f : Flt) (async : Bool) (loc vec : Word) : Thread :=
  { t with
    shadow := t.lc
    sys := { t.sys with tcause := causeWord f.cause async t.level, tpc := loc, taddr := f.addr, tinfo := f.info }
    level := Level.sup t.level .guest
    lc := Vector.replicate 3 zeroLoop
    fetch := []
    wait := none
    boundary := false
    mask := none
    pc := if vec = 0 then t.pc else vec }

/-- Delivers a cause to a thread (R375-R378, R216, R220): inside an unwind handler the handler is abandoned,
while active = 1 the cause is a double fault, and with TVEC = 0 there is no handler. The launch counts the cause in
every case (R22). -/
def State.deliver (s : State) (c : Nat) (i : BitVec 2) (f : Flt) (async : Bool) (loc : Word) : State :=
  let t := s.getThread c i
  let vec := (s.domain t.domid).tvec
  let s := s.countFault t.launch
  match t.unwind with
  | some { handler := some _, .. } =>
    (s.modThread c i (fun t => { t with unwind := t.unwind.map (fun u => { u with handler := none }) })).post (.unwind c i.toNat)
  | _ =>
    if t.active then s.giveUp c i
    else
      let s := s.modThread c i (fun t => t.enter f async loc vec)
      let s := s.traceAs c i (some 2) 3 (causeWord f.cause async t.level) loc
      if vec = 0 then s.giveUp c i else s

/-! ### Ends of an instruction -/

/-- Records how the instruction ended. -/
def State.out (s : State) (o : Out) : State := { s with act := { s.act with out := o } }

/-- The instruction completes without a transfer: pc := next (R135). -/
def State.fell (s : State) : State := (s.modMe (fun t => { t with pc := s.act.next, wait := none })).out .fell

/-- The instruction transfers control (R127). -/
def State.jump (s : State) (target : Word) : State := (s.modMe (fun t => { t with pc := target, wait := none })).out .jumped

/-- The kinds of waits that park (R63). -/
def WaitKind.parks : WaitKind → Bool
  | .word _ _ | .sem _ | .barrier _ _ | .sleep _ | .handle _ _ | .ground | .room _ => true
  | .port _ p => p
  | .away | .parked | .wfi | .lodge | .host | .moving _ | .fence => false

/-- Whether a thread waits in an instruction that has issued; with none, or with one that is only not ready, it stands at the boundary
before its next instruction (R388). -/
def Thread.inWait (t : Thread) : Bool :=
  match t.wait.map WaitRec.kind with
  | none => false
  | some (.moving _) => false
  | some (.port _ parks) => parks
  | some _ => true

/-- Records what the executing thread waits on; a thread that already waits on it keeps its record, and one that goes on to wait on
something else in the same waiting instruction keeps the cycles that it has been blocked (R63). -/
def Thread.await (t : Thread) (k : WaitKind) (now : Nat) : Thread :=
  match t.wait with
  | some w => if w.kind = k then t else { t with wait := some ⟨k, .no, now, if w.kind.parks && k.parks then w.resident else 0⟩ }
  | none => { t with wait := some ⟨k, .no, now, 0⟩ }

/-- Whether the 64 KiB of a core's port have room for one more item; the model counts 64 bytes for each (R394; log entry 68). -/
def Core.portRoom (k : Core) : Bool := 64 * k.port.length < Config.portBytes

/-- Whether an item stands for one word of several of its stream. -/
def PortItem.isWord : PortItem → Bool
  | .word _ => true
  | _ => false

/-- Appends an item to the queue at a core's router port (R394) when it has room: a stream's words each, any other item once. -/
def Core.portPut (k : Core) (x : PortItem) : Core :=
  if (k.port.contains x && !x.isWord) || !k.portRoom then k else { k with port := k.port ++ [x] }

/-- The continuation that a thread runs; 0 for none. -/
def Thread.cont (t : Thread) : Nat := (t.run.map Cont.id).getD 0

/-- The messages between two cores that are on their way. -/
def State.between (s : State) (src dst : Nat) : List Msg := s.msgs.filter (fun m => m.refused.isNone && m.src = src && m.dst = dst)

/-- An item takes its place in the queue at a core's router port, behind what its core has sent there before (R353, R394). -/
def State.queueItem (s : State) (src dst : Nat) (x : PortItem) : State :=
  s.modCore dst (fun k => ((s.between src dst).foldl (fun k m => k.portPut (.msg m.id)) k).portPut x)

/-- The instruction waits: the pc stays, and it executes again; a request that another core's port holds back takes its place there. -/
def State.waits (s : State) (w : Option WaitKind) : State :=
  match w with
  | none => s.out .waits
  | some k =>
    let s := (s.modMe (fun t => t.await k s.ns)).out .waits
    match k with
    | .port c _ => s.queueItem s.act.core c (.request s.me.cont)
    | _ => s

/-- A precise fault of the executing instruction (R375): nothing but the delivery happens. -/
def State.trap (s : State) (f : Flt) : State := (s.deliver s.act.core s.act.thr f false s.here).out .trapped

/-- The end of a meaning: its state, or the delivery of its fault or the wait from the state before it. -/
def settle (s : State) (r : Ex State) : Outcome :=
  match r with
  | .ok s' => .next s'
  | .error (.fault f) => .next (s.trap f)
  | .error (.faultIn s' f) => .next (s'.trap f)
  | .error (.hold w) => .next (s.waits w)

/-- A meaning that changes only the executing thread and falls through. -/
def onThread (f : Thread → Ex Thread) (s : State) : Outcome :=
  settle s (do
    let t ← f s.me
    .ok (s.setMe t).fell)

/-- The privilege check of step 8 of R83, with the detail of R84. -/
def State.needLevel (s : State) (l : Level) : Ex Unit :=
  faultIf (!s.me.level.atLeast l)
    (fltAt .privilege s.here ((s.act.head.setWidth 64) ||| (l.code.setWidth 64 <<< 16)))

/-- ILLEGAL_HEAD and RESERVED_FIELD of a meaning, with the detail of R84. -/
def State.headFault (s : State) (c : Cause) (index : Nat) : Flt :=
  fltAt c s.here ((s.act.head.setWidth 64) ||| (BitVec.ofNat 64 index <<< 16))

/-! ### Return from an exception (R379) -/

/-- What ERET writes in the thread. -/
def Thread.eret (t : Thread) : Thread :=
  { t with
    pc := t.sys.tpc
    level := Level.ofCode (t.sys.tcause.extractLsb' 11 2)
    lc := if t.active then t.shadow else Vector.replicate 3 zeroLoop
    shadow := Vector.replicate 3 zeroLoop
    sys := { t.sys with tcause := t.sys.tcause &&& 0xFFFFFFFFFFFF7FFF }
    fetch := []
    exempt := true }

/-! ### Traps that are taken at a boundary -/

/-- Ends the sleep of a thread in PARK with no slot, or in WFI (R139, R140). -/
def Thread.rouse (t : Thread) : Thread :=
  match t.wait with
  | some w => if w.kind = .parked ∨ w.kind = .wfi then { t with wait := some { w with served := .done } } else t
  | none => t

/-- Holds a cause of kind A for a thread; it is delivered at its next boundary (R378, R380), and it ends PARK and WFI. -/
def State.hold (s : State) (c : Nat) (i : BitVec 2) (f : Flt) (frame : Option (Nat × BitVec 8) := none) (cmd : Bool := false) : State :=
  (s.modThread c i (fun t => { t.rouse with held := t.held ++ [⟨f, frame, cmd⟩] })).post (.asyncTrapDelivery c i.toNat)

/-- The same for a parked continuation, which becomes resumable, in PARK or on any other wait (R139, R378). -/
def Parked.holdTrap (p : Parked) (h : Held) (now : Nat) : Parked :=
  { p with
    th := { p.th with held := p.th.held ++ [h] }
    resumable := true
    stamp := if p.resumable then p.stamp else now }

/-- The threads of a core, with their indices. -/
def Core.indexed (k : Core) : List (BitVec 2 × Thread) :=
  [(0, k.thread 0), (1, k.thread 1), (2, k.thread 2), (3, k.thread 3)]

/-- The thread of a core that runs a continuation. -/
def Core.runner (k : Core) (cont : Nat) : Option (BitVec 2) :=
  (k.indexed.find? (fun e => (e.2.run.map Cont.id) = some cont)).map Prod.fst

/-- Applies a function to every thread of a core. -/
def Core.mapThreads (k : Core) (f : Thread → Thread) : Core := { k with threads := k.threads.map f }

/-- Changes the saved thread of a parked continuation. -/
def Core.modParked (k : Core) (cont : Nat) (f : Parked → Parked) : Core :=
  { k with parked := k.parked.map (fun p => if (p.th.run.map Cont.id) = some cont then f p else p) }

/-- The cores that hold state. -/
def State.coreNums (s : State) : List Nat := s.cores.map Prod.fst

/-- Applies a function to every core that holds state. -/
def State.mapCores (s : State) (f : Nat → Core → Core) : State :=
  { s with cores := s.cores.map (fun e => (e.1, f e.1 e.2)) }

/-- Whether R184 forbids the executing thread pool access: inside a gate call into a domain of another owner
than the core's. -/
def State.poolBarred (s : State) : Bool :=
  s.me.depth ≠ 0 && (s.domain s.me.domid).owner ≠ s.core.owner

end Sys2Proof.Machine
end

