-- ==== Sys2Proof/Machine/Net.lean ====
section
/-! DEFINITION. The router grid, route words, the check of a route and the endpoint route cache
(spec/13_fed_routes.md R266-R279; spec/03_placed.md R48, R52-R54). -/

namespace Sys2Proof.Machine

/-! ### The grid (R48, R266, R267) -/

/-- Row and column of a router key: c for compute router c, 16 + s for slice router s. -/
def gridOf (key : Nat) : Nat × Nat :=
  if key < 8 then (0, key) else if key < 16 then (3, key - 8) else (1 + (key - 16) / 8, key % 8)

/-- The router key at a row and a column. -/
def keyAt (row col : Nat) : Nat :=
  match row with
  | 0 => col
  | 1 => 16 + col
  | 2 => 24 + col
  | _ => 8 + col

/-- The kinds of hops (R270). -/
inductive HopKind where
  | here | row | column | die | exit
  deriving DecidableEq, Repr

/-- The kind of a port. -/
def kindOf (p : Nat) : HopKind :=
  if p < 4 then .here else if p < 11 then .row else if p < 14 then .column else if p = 14 then .die else .exit

/-- The fabric port at a router (R267). -/
def fabricPort (die key : Nat) : Option Nat :=
  match [3, 4, 11, 12].idxOf? key with
  | some i => some (4 * die + i)
  | none => if key = 7 ∧ die = 0 then some 16 else if key = 7 ∧ die = 2 then some 17 else none

/-- The router that a port leads to. -/
def peerOf (die key p : Nat) : Nat × Nat :=
  let (r, c) := gridOf key
  match kindOf p with
  | .row => (die, keyAt r (if p - 4 < c then p - 4 else p - 3))
  | .column => (die, keyAt (if p - 11 < r then p - 11 else p - 10) c)
  | .die => (Nat.xor die (if c = 7 then 1 else 2), key)
  | _ => (die, key)

/-- Whether a port exists at a router of a bin (R266, R2). -/
def portExists (b : Bin) (die key p : Nat) : Bool :=
  match kindOf p with
  | .here => !(absentRouter b key && key < 16)
  | .die => (gridOf key).2 = 0 || (gridOf key).2 = 7
  | .exit => (fabricPort die key).isSome
  | _ => true

/-- The state of a link direction in the topology map (R275); one that is not listed is up (log entry 6). -/
def State.linkState (s : State) (die key p : Nat) : LinkState :=
  match s.links.find? (fun l => l.1 = (die, key, p)) with
  | some l => l.2.1
  | none => if portExists s.bin die key p then .up else .absent

/-! ### Time slots (R52-R54) -/

/-- The schedule that a resource has been given and whose slot 0 has come (R52). -/
def State.schedDue (s : State) (r : Resource) : Option (List Slot) :=
  (s.schedNew.find? (fun e => e.1 = r && e.2.2 ≤ s.cycle)).map (fun e => e.2.1)

/-- The schedule in force on a resource: 64 shared slots at reset; a new one from its slot 0 on. -/
def State.schedule (s : State) (r : Resource) : List Slot :=
  (s.schedDue r).getD (((s.scheds.find? (fun e => e.1 = r)).map Prod.snd).getD (List.replicate 64 ⟨true, 0⟩))

/-- The schedule last written on a resource, which the topology map publishes at the write (R276; log entry 24). -/
def State.written (s : State) (r : Resource) : List Slot :=
  match s.schedNew.find? (fun e => e.1 = r) with
  | some e => e.2.1
  | none => s.schedule r

/-- Whether a schedule gives an owner a slot of its own. -/
def slotsOwn (l : List Slot) (o : BitVec 4) : Bool := l.any (fun x => !x.shared && x.owner = o)

/-- Whether an owner holds a slot of its own on a resource, by the schedule in force. -/
def State.ownsSlot (s : State) (o : BitVec 4) (r : Resource) : Bool := slotsOwn (s.schedule r) o

/-- The record of an owner. -/
def State.ownerRec (s : State) (o : BitVec 4) : OwnerRec := s.owners[o.toNat]'o.isLt

/-- Changes the record of an owner. -/
def State.modOwner (s : State) (o : BitVec 4) (f : OwnerRec → OwnerRec) : State :=
  { s with owners := s.owners.set o.toNat (f (s.ownerRec o)) o.isLt }

/-- Whether a schedule lets an owner use its resource (R54): the owner holds a slot, or is not strict and a slot is shared. -/
def State.slotsServe (s : State) (o : BitVec 4) (l : List Slot) : Bool :=
  slotsOwn l o || ((s.ownerRec o).mode ≠ .strict && l.any (fun x => x.shared))

/-- Whether an owner can use a resource, by the schedule in force. -/
def State.canUse (s : State) (o : BitVec 4) (r : Resource) : Bool := s.slotsServe o (s.schedule r)

/-- Whether some slot of a resource can be granted to an owner (R54): one of its own or, unless it is strict, one that shared arbitration
grants, which is a shared slot, or a slot of a lending owner that is idle. -/
def State.granted (s : State) (o : BitVec 4) (r : Resource) : Bool :=
  slotsOwn (s.schedule r) o ||
    ((s.ownerRec o).mode ≠ .strict && (s.schedule r).any (fun x => x.shared || (s.ownerRec x.owner).mode = .lending))

/-- Whether one of the resources that a transfer of an owner needs grants it no slot: the transfer waits. -/
def State.barred (s : State) (o : BitVec 4) (l : List Resource) : Bool := l.any (fun r => !s.granted o r)

/-! ### The device's own paths (R267) -/

/-- The output port of a router at a column that leads to another column of its row. -/
def rowPort (c c' : Nat) : Nat := if c' < c then 4 + c' else 3 + c'

/-- The link from a router along its row to a column, if it is not there. -/
def rowLink (die r c c' : Nat) : List Resource := if c = c' then [] else [.link die (keyAt r c) (rowPort c c')]

/-- The links from a router to another of the same die: along the row, then along the column. -/
def diePath (die : Nat) (x y : Nat × Nat) : List Resource :=
  rowLink die x.1 x.2 y.2 ++
    (if x.1 = y.1 then [] else [.link die (keyAt x.1 y.2) (if y.1 < x.1 then 11 + y.1 else 10 + y.1)])

/-- The links from a router along its row to a column, and over its die port, the links after that from the router reached. -/
def overDie (die : Nat) (x : Nat × Nat) (col : Nat) (rest : Nat → Nat × Nat → List Resource) : List Resource :=
  rowLink die x.1 x.2 col ++ .link die (keyAt x.1 col) 14 :: rest (Nat.xor die (if col = 7 then 1 else 2)) (x.1, col)

/-- The links that the device itself takes from one router to another: row, then column, over the die ports where the dies differ. DESIGN
CHOICE (log entry 24): of two crossings, that by column 7 comes first. -/
def devicePath (die key die' key' : Nat) : List Resource :=
  let far := Nat.xor die die'
  let last := fun d x => diePath d x (gridOf key')
  let by0 := fun d x => if far / 2 % 2 = 1 then overDie d x 0 last else last d x
  if far % 2 = 1 then overDie die (gridOf key) 7 by0 else by0 die (gridOf key)

/-- What a core's request to an L2 slice of a die travels over (R48, R267): links, the last of them to the slice, and the slice's port. -/
def toSlice (core die slice : Nat) : List Resource :=
  devicePath (coreDie core) (coreRouter core) die (16 + slice / 2) ++ [.link die (16 + slice / 2) (slice % 2), .slicePort die slice]

/-- What the reply of an L2 slice to a core travels over: links, the last of them to the core's cluster. -/
def fromSlice (die slice core : Nat) : List Resource :=
  devicePath die (16 + slice / 2) (coreDie core) (coreRouter core) ++ [.link (coreDie core) (coreRouter core) (core / 4 % 4)]

/-! ### The check of a route (R268-R272) -/

/-- A verdict (R272): reasons 6 and 14 are ROUTE_DEAD. -/
def verdict (reason word hop cls : Nat) : Word :=
  let res := if reason = 0 then 0 else if reason = 6 ∨ reason = 14 then 2 else 1
  BitVec.ofNat 64 (res + reason * 2 ^ 8 + hop * 2 ^ 16 + word * 2 ^ 20 + cls * 2 ^ 24)

/-- The fault of a verdict. -/
def verdictFault (v : Word) : Flt :=
  flt (if v.extractLsb' 0 8 = 2 then .routeDead else .routeIllegal) (v &&& 0xFFFFFFF)

/-- The class of a hop from that of the hop before it (R270). -/
def hopClass (prev : Option HopKind) (k : HopKind) (cls : Nat) : Nat :=
  match prev with
  | none => cls
  | some p => if k = .die ∨ (k = .row ∧ p = .column) then cls + 1 else cls

/-- The record of the fabric port at a router. -/
def State.exitRec (s : State) (die key : Nat) : Option PortRec :=
  (fabricPort die key).bind (fun f => (s.fports.find? (fun x => x.1 = f)).map Prod.snd)

/-- Whether the map gives the fabric port at a router as not up (R271, R275). -/
def State.exitDown (s : State) (die key : Nat) : Bool :=
  match s.exitRec die key with
  | some r => r.state ≠ .up
  | none => false

/-- Whether a link direction is down, by its own record, by that of the fabric port it leads to, or, on the fabric, because the device
sleeps (R413). -/
def State.linkDown (s : State) (die key p : Nat) : Bool :=
  s.linkState die key p ≠ .up || (kindOf p = .exit && (s.exitDown die key || s.power = .sleep))

/-- The hops that a list of ports takes from a router, in one word of a route (R268, R270). -/
def hopsOf (word : Nat) : List Nat → Nat → Nat → Nat → Option HopKind → Nat → List PathHop
  | [], _, _, _, _, _ => []
  | p :: r, i, die, key, prev, cls =>
    let cls := hopClass prev (kindOf p) cls
    let next := peerOf die key p
    ⟨.router die key p, word, i, cls⟩ :: hopsOf word r (i + 1) next.1 next.2 (some (kindOf p)) cls

/-- The first reason that a hop of the route word fails (R271) against the topology map; `last` says that no hop of the word follows. A
port to a cluster has a record like any other (R275), so that reasons 5, 6 and 11 concern it (log entry 77). -/
def State.hopBad (s : State) (o : BitVec 4) (stream : Bool) (h : PathHop) (last : Bool) : Option Nat :=
  match h.port with
  | .switch _ | .fabric _ => none
  | .router die key p =>
    let res := Resource.link die key p
    let k := kindOf p
    if !portExists s.bin die key p then some 2
    else if 16 ≤ key ∧ (p = 2 ∨ p = 3) then some 3
    else if 3 < h.cls then some 4
    else if !s.slotsServe o (s.written res) then some 5
    else if s.linkDown die key p then some 6
    else if !last ∧ (k = .here ∨ k = .exit) then some 7
    else if k = .exit ∧ 1 < h.cls then some 10
    else if stream ∧ !slotsOwn (s.written res) o then some 11
    else none

/-- The verdict of a hop that fails for a reason. -/
def PathHop.verdict (h : PathHop) (reason : Nat) : Word := Machine.verdict reason h.word h.idx h.cls

/-- The check of the hops of the route word, in order. -/
def State.walkHops (s : State) (o : BitVec 4) (stream : Bool) : List PathHop → Except Word Unit
  | [] => .ok ()
  | h :: r =>
    match s.hopBad o stream h r.isEmpty with
    | some n => .error (h.verdict n)
    | none => s.walkHops o stream r

/-- The checks of a whole word: h, its zero field, ports at or above h. -/
def wordBad (word h maxH mbz : Nat) (ports : List Nat) (cls : Nat) : Except Word Unit :=
  if h = 0 ∨ maxH < h then .error (verdict 1 word 0 cls)
  else if mbz ≠ 0 then .error (verdict 7 word 0 cls)
  else
    match (ports.zipIdx.filter (fun e => h ≤ e.2 && e.1 != 0)) with
    | e :: _ => .error (verdict 7 word e.2 cls)
    | [] => .ok ()

/-- The n fields of w bits of a word, lowest first. -/
def fieldsOf (x : Word) (w n : Nat) : List Nat := (List.range n).map (fun i => x.toNat / 2 ^ (w * i) % 2 ^ w)

/-- The hops of an extension word from a fabric port's peer: the module it ends at. -/
def State.walkSwitch (s : State) : List Nat → Nat → Option PortRec → Bool → Nat → Except Word (Option PortRec)
  | [], _, at_, _, _ => .ok at_
  | p :: r, i, at_, wentDown, cls =>
    match at_ with
    | some a =>
      if a.kind ≠ 1 then .error (verdict 2 1 i cls)
      else
        match s.switches.find? (fun e => e.1 = 64 * a.peer + p) with
        | none => .error (verdict 2 1 i cls)
        | some e =>
          if e.2.state = .absent then .error (verdict 2 1 i cls)
          else if e.2.state ≠ .up then .error (verdict 6 1 i cls)
          else if e.2.up ∧ wentDown then .error (verdict 9 1 i cls)
          else s.walkSwitch r (i + 1) (some e.2) (wentDown || !e.2.up) cls
    | none => .error (verdict 2 1 i cls)

/-- The check of the hops of a destination-side word: reasons 4 and 7 (R271). -/
def walkDside : List PathHop → Except Word Unit
  | [] => .ok ()
  | h :: r =>
    match h.port with
    | .switch _ | .fabric _ => walkDside r
    | .router _ _ p =>
      if 3 < h.cls then .error (h.verdict 4)
      else if kindOf p = .exit || (decide (kindOf p = .here) != r.isEmpty) then .error (h.verdict 7)
      else walkDside r

/-- The die and the router of a fabric port (R267). -/
def fabricAt (f : Nat) : Nat × Nat :=
  if f < 16 then (f / 4, [3, 4, 11, 12].getD (f % 4) 3) else (2 * (f - 16), 7)

/-- The ports of a route word, or of a destination-side word, up to its hop count. -/
def routePorts (x : Word) : List Nat := (fieldsOf x 4 14).take (x.extractLsb' 60 4).toNat

/-- The switch ports of an extension word up to its hop count. -/
def switchPorts (x : Word) : List Nat := (fieldsOf x 6 9).take (x.extractLsb' 58 6).toNat

/-- The hops of a route word from a core's router. -/
def routeHops (core : Nat) (route : Word) : List PathHop :=
  hopsOf 0 (routePorts route) 0 (coreDie core) (coreRouter core) none (route.extractLsb' 58 2).toNat

/-- The hops of a destination-side word, from a fabric port of the module where it begins. -/
def dsideHops (fport : Nat) (dside : Word) : List PathHop :=
  hopsOf 2 (routePorts dside) 0 (fabricAt fport).1 (fabricAt fport).2 none (dside.extractLsb' 58 2).toNat

/-- Whether a hop is the last one to cluster `cl` of the router that a descriptor names. -/
def PathHop.endsAt (h : PathHop) (desc : Word) (cl : Nat) : Bool :=
  h.port = .router (desc.extractLsb' 5 2).toNat (desc.extractLsb' 0 5).toNat cl

/-- The check of a descriptor from a core's router: the class of the last hop of its route word, or the verdict. For a stream, `cluster` is
the cluster the route must end at, at the descriptor's router; a pool of this module is its destination, whichever way the route
goes (R281). Where the route ends is checked last, with its last hop (R271). -/
def State.checkRoute (s : State) (o : BitVec 4) (core : Nat) (cluster : Option Nat) (route ext dside desc : Word) : Except Word Nat := do
  let vc := (route.extractLsb' 58 2).toNat
  let mbz := (route.extractLsb' 56 2).toNat + (desc.extractLsb' 27 36).toNat + (desc.extractLsb' 7 9).toNat
  wordBad 0 (route.extractLsb' 60 4).toNat 14 mbz (fieldsOf route 4 14) vc
  let hops := routeHops core route
  s.walkHops o cluster.isSome hops
  let module := (desc.extractLsb' 16 11).toNat
  match hops.getLast? with
  | none => .error (verdict 1 0 0 vc)
  | some e =>
    match e.port with
    | .switch _ | .fabric _ => .error (e.verdict 8)
    | .router die key p =>
      if kindOf p ≠ .exit then
        if kindOf p ≠ .here ∨ 16 ≤ key ∨ module ≠ s.module.toNat ∨ !e.endsAt desc (cluster.getD p) then .error (e.verdict 8)
        else if ext ≠ 0 ∨ dside ≠ 0 then .error (verdict 7 1 0 e.cls)
        else .ok e.cls
      else do
        wordBad 1 (ext.extractLsb' 58 6).toNat 9 (ext.extractLsb' 54 4).toNat (fieldsOf ext 6 9) e.cls
        let at_ ← s.walkSwitch (switchPorts ext) 0 (s.exitRec die key) false e.cls
        let dvc := (dside.extractLsb' 58 2).toNat
        wordBad 2 (dside.extractLsb' 60 4).toNat 14 (dside.extractLsb' 56 2).toNat (fieldsOf dside 4 14) dvc
        if dvc < 2 then .error (verdict 10 2 0 dvc)
        let far := dsideHops ((at_.map PortRec.pport).getD 0) dside
        walkDside far
        match far.getLast? with
        | none => .error (verdict 1 2 0 dvc)
        | some l =>
          if at_.map (fun a => (a.kind, a.peer)) ≠ some (2, module) then .error (l.verdict 8)
          else
            match cluster with
            | none => .ok e.cls
            | some cl => if module ≠ s.module.toNat ∨ !l.endsAt desc cl then .error (l.verdict 8) else .ok e.cls

/-- The verdict of a check. -/
def verdictOf (r : Except Word Nat) : Word :=
  match r with
  | .error v => v
  | .ok cls => verdict 0 0 0 cls

/-! ### The endpoint route cache (R277, R278) -/

/-- A route cache entry of a core. -/
def Core.route (k : Core) (i : BitVec 6) : RouteEntry := k.routes[i.toNat]'i.isLt

/-- Replaces a route cache entry. -/
def Core.setRoute (k : Core) (i : BitVec 6) (e : RouteEntry) : Core := { k with routes := k.routes.set i.toNat e i.isLt }

/-- The recheck of a stale entry at its use: it faults and becomes invalid when it fails. -/
def State.recheck (s : State) (c : Nat) (i : BitVec 6) : Ex State :=
  let e := (s.getCore c).route i
  if !e.stale then .ok s
  else
    match s.checkRoute (s.getCore c).owner c none e.route e.ext e.dside e.desc with
    | .ok _ => .ok (s.modCore c (fun k => k.setRoute i { e with stale := false, version := s.mapVer }))
    | .error v => .error (.faultIn (s.modCore c (fun k => k.setRoute i resetRoute)) (verdictFault v))

/-- The default entry of a core whose end is a core's router, in the package of a module. -/
def Core.defaultRoute (k : Core) (module : BitVec 11) (target : Nat) : Option (BitVec 6) :=
  ((List.range 64).map (BitVec.ofNat 6)).find? (fun i =>
    let e := k.route i
    e.valid && e.desc.getLsbD 63 && e.desc.extractLsb' 16 11 = module && (e.desc.extractLsb' 5 2).toNat = coreDie target &&
      (e.desc.extractLsb' 0 5).toNat = coreRouter target)

/-- The route of a remote-pool access (R278). -/
def State.routeTo (s : State) (src target : Nat) : Ex State :=
  if src / 16 = target / 16 then .ok s
  else
    match (s.getCore src).defaultRoute s.module target with
    | some i => s.recheck src i
    | none => raise (verdictFault (verdict 14 0 0 0))

/-! ### What the routers check (R54, R273) -/

/-- The hops that switch ports take, from the record of the port that leads to the first switch, and the record of the last port. -/
def State.switchHops (s : State) : List Nat → Nat → Option PortRec → Nat → List PathHop × Option PortRec
  | [], _, at_, _ => ([], at_)
  | p :: r, i, at_, cls =>
    match at_ with
    | some a =>
      let n := 64 * a.peer + p
      let (l, e) := s.switchHops r (i + 1) ((s.switches.find? (fun e => e.1 = n)).map Prod.snd) cls
      (⟨.switch n, 1, i, cls⟩ :: l, e)
    | none => ([], none)

/-- The hops of a route behind the fabric exit at a router: the switch ports, and where it comes back to this module, the fabric port that
receives it and the hops of its destination-side word. -/
def State.farHops (s : State) (die key cls : Nat) (ext dside : Word) : List PathHop :=
  let (l, at_) := s.switchHops (switchPorts ext) 0 (s.exitRec die key) cls
  l ++ (match at_ with
    | some a => if a.kind = 2 ∧ a.peer = s.module.toNat then
        ⟨.fabric a.pport, 2, 0, (dside.extractLsb' 58 2).toNat⟩ :: dsideHops a.pport dside
      else []
    | none => [])

/-- The hops that a route of a core takes. -/
def State.pathOf (s : State) (core : Nat) (route ext dside : Word) : List PathHop :=
  let l := routeHops core route
  match l.getLast? with
  | some ⟨.router die key p, _, _, cls⟩ => if kindOf p = .exit then l ++ s.farHops die key cls ext dside else l
  | _ => l

/-- Whether a hop leaves the package. -/
def PathHop.leaves (h : PathHop) : Bool :=
  match h.port with
  | .router _ _ p => kindOf p = .exit
  | .switch _ | .fabric _ => false

/-- The hops of a route cache entry of a core. -/
def State.entryPath (s : State) (core : Nat) (e : RouteEntry) : List PathHop := s.pathOf core e.route e.ext e.dside

/-- The hops that a core's messages to another core take; none within one router. -/
def State.pathTo (s : State) (src dst : Nat) : List PathHop :=
  if src / 16 = dst / 16 then []
  else
    match (s.getCore src).defaultRoute s.module dst with
    | some i => s.entryPath src ((s.getCore src).route i)
    | none => []

/-- The verdict of a refusal at a hop for a reason: the package where a route arrives refuses with reason 12 (R271). -/
def PathHop.refusal (h : PathHop) (reason : Nat) : Word := h.verdict (if h.word = 2 then 12 else reason)

/-- Why a packet is refused at a hop (R273): a port that is absent, slots of its resource that do not serve it, with that reason, or a port
that is down. -/
def State.hopRefuses (s : State) (serves : Resource → Bool) (noSlot : Nat) (h : PathHop) : Option Word :=
  let bySt := fun (st : LinkState) => if st = .absent then some (h.refusal 2) else if st ≠ .up then some (h.refusal 6) else none
  match h.port with
  | .router die key p =>
    if !portExists s.bin die key p then some (h.refusal 2)
    else if !serves (.link die key p) then some (h.refusal noSlot)
    else if s.linkDown die key p then some (h.refusal 6)
    else none
  | .switch n => bySt (((s.switches.find? (fun e => e.1 = n)).map (fun e => e.2.state)).getD .absent)
  | .fabric n => bySt (((s.fports.find? (fun e => e.1 = n)).map (fun e => e.2.state)).getD .up)

/-- The verdict with which a packet of an owner is refused on a path, by the schedules in force (R54, R273). -/
def State.pathBad (s : State) (o : BitVec 4) (path : List PathHop) : Option Word :=
  path.findSome? (s.hopRefuses (s.canUse o) 5)

end Sys2Proof.Machine
end

