-- ==== Sys2Proof/Machine/Number.lean ====
section
/-! DEFINITION. Number formats, rounding and conversion, the order of sums, residues and transcendentals
(spec/07_numbers.md). Floating values are exact: a sign and a natural number times a power of two. -/

namespace Sys2Proof.Machine

/-! ### Floating formats (R145) -/

/-- A floating format: mantissa bits, bias, width, the largest finite code without its sign, whether it
has an infinity, and the canonical NaN code. -/
structure FloatFmt where
  width  : Nat
  mbits  : Nat
  bias   : Nat
  maxFin : Nat
  hasInf : Bool
  nanCode : Nat
  deriving DecidableEq, Repr

/-- FP32. -/
def fmtFP32 : FloatFmt := ⟨32, 23, 127, 0x7F7FFFFF, true, 0x7FC00000⟩
/-- FP16. -/
def fmtFP16 : FloatFmt := ⟨16, 10, 15, 0x7BFF, true, 0x7E00⟩
/-- BF16. -/
def fmtBF16 : FloatFmt := ⟨16, 7, 127, 0x7F7F, true, 0x7FC0⟩
/-- E4M3. -/
def fmtE4M3 : FloatFmt := ⟨8, 3, 7, 0x7E, false, 0x7F⟩
/-- E5M2. -/
def fmtE5M2 : FloatFmt := ⟨8, 2, 15, 0x7B, true, 0x7F⟩
/-- E2M1: no infinity and no NaN; a NaN input converts to code 0 (R151). -/
def fmtE2M1 : FloatFmt := ⟨4, 1, 1, 0x7, false, 0x0⟩

/-- A floating value: NaN, an infinity, or (−1)^neg × m × 2^e. -/
inductive FVal where
  | nan
  | inf (neg : Bool)
  | fin (neg : Bool) (m : Nat) (e : Int)
  deriving DecidableEq, Repr

/-- A zero of either sign. -/
def FVal.zero (neg : Bool) : FVal := .fin neg 0 0

/-- Sign change. -/
def FVal.negate : FVal → FVal
  | .nan => .nan
  | .inf n => .inf (!n)
  | .fin n m e => .fin (!n) m e

/-- The number that a code encodes (R145). E2M1's code 0b1000 is read as NaN where no block gives it a
value (R167). -/
def FloatFmt.decode (f : FloatFmt) (code : Nat) : FVal :=
  let c := code % 2 ^ f.width
  let neg := c / 2 ^ (f.width - 1) = 1
  let mag := c % 2 ^ (f.width - 1)
  let e := mag / 2 ^ f.mbits
  let m := mag % 2 ^ f.mbits
  if f.width = 4 ∧ c = 8 then .nan
  else if mag > f.maxFin then
    if f.hasInf ∧ m = 0 ∧ mag = f.maxFin + 1 then .inf neg else .nan
  else if e = 0 then .fin neg m (1 - (f.bias : Int) - f.mbits)
  else .fin neg (2 ^ f.mbits + m) ((e : Int) - f.bias - f.mbits)

/-! ### Rounding (R150, R151) -/

/-- Whether a magnitude n, cut off below, is rounded up: `cmp` compares the part cut off with one half of a
unit; `exact` says that nothing was cut off. -/
def roundUp (rm : Rnd) (neg exact : Bool) (cmp : Ordering) (odd : Bool) : Bool :=
  if exact then false
  else
    match rm with
    | .rn => cmp == .gt || (cmp == .eq && odd)
    | .rna => cmp != .lt
    | .rz => false
    | .rd => neg
    | .ru => !neg

/-- m × 2^e divided by 2^q and rounded to a natural number. -/
def roundQuot (rm : Rnd) (neg : Bool) (m : Nat) (e q : Int) : Nat :=
  if q ≤ e then m * 2 ^ (e - q).toNat
  else
    let k := (q - e).toNat
    let n := m / 2 ^ k
    let r := m % 2 ^ k
    if roundUp rm neg (r == 0) (compare (2 * r) (2 ^ k)) (n % 2 == 1) then n + 1 else n

/-- The code of an overflow (R151). -/
def FloatFmt.overflow (f : FloatFmt) (rm : Rnd) (neg : Bool) : Nat :=
  if !f.hasInf then f.maxFin
  else
    match rm with
    | .rn | .rna => f.maxFin + 1
    | .rz => f.maxFin
    | .rd => if neg then f.maxFin + 1 else f.maxFin
    | .ru => if neg then f.maxFin else f.maxFin + 1

/-- Adds the sign bit; E2M1 has no negative zero (R151). -/
def FloatFmt.withSign (f : FloatFmt) (neg : Bool) (mag : Nat) : Nat :=
  if neg ∧ ¬(f.width = 4 ∧ mag = 0) then 2 ^ (f.width - 1) + mag else mag

/-- Rounds a value once to a format (rnd_to, R151). -/
def FloatFmt.round (f : FloatFmt) (rm : Rnd) : FVal → Nat
  | .nan => f.nanCode
  | .inf neg => f.withSign neg (if f.hasInf then f.maxFin + 1 else f.maxFin)
  | .fin neg 0 _ => f.withSign neg 0
  | .fin neg m e =>
    let qmin : Int := 1 - (f.bias : Int) - f.mbits
    let top : Int := (Nat.log2 m : Int) + e
    let q := max (top - f.mbits) qmin
    let n := roundQuot rm neg m e q
    let code := (q - qmin).toNat * 2 ^ f.mbits + n
    f.withSign neg (if code > f.maxFin then f.overflow rm neg else code)

/-! ### Exact arithmetic (R146) -/

/-- m × 2^e as a signed integer at exponent q ≤ e. -/
def signedAt (neg : Bool) (m : Nat) (e q : Int) : Int :=
  let v : Int := (m * 2 ^ (e - q).toNat : Nat)
  if neg then -v else v

/-- An integer times 2^e as a value; `zneg` is the sign of a zero. -/
def FVal.ofInt (v : Int) (e : Int) (zneg : Bool) : FVal :=
  if v = 0 then .fin zneg 0 0 else .fin (v < 0) v.natAbs e

/-- Exact sum. An exact zero from operands of one sign keeps it; from operands of opposite signs it is +0, or −0
under rd (R165). -/
def FVal.add (rm : Rnd) : FVal → FVal → FVal
  | .nan, _ => .nan
  | _, .nan => .nan
  | .inf a, .inf b => if a = b then .inf a else .nan
  | .inf a, .fin _ _ _ => .inf a
  | .fin _ _ _, .inf b => .inf b
  | .fin a m e, .fin b n g =>
    let q := min e g
    FVal.ofInt (signedAt a m e q + signedAt b n g q) q (if a = b then a else rm == .rd)

/-- Exact product. -/
def FVal.mul : FVal → FVal → FVal
  | .nan, _ => .nan
  | _, .nan => .nan
  | .inf a, .inf b => .inf (a != b)
  | .inf a, .fin b m _ => if m = 0 then .nan else .inf (a != b)
  | .fin a m _, .inf b => if m = 0 then .nan else .inf (a != b)
  | .fin a m e, .fin b n g => .fin (a != b) (m * n) (e + g)

/-- Multiplies by 2^k. -/
def FVal.scale (k : Int) : FVal → FVal
  | .fin a m e => .fin a m (e + k)
  | x => x

/-- A quotient whose rounding to any format is that of m / n × 2^e: enough quotient bits, then one bit that says
whether anything was cut off. -/
def FVal.div : FVal → FVal → FVal
  | .nan, _ => .nan
  | _, .nan => .nan
  | .inf _, .inf _ => .nan
  | .inf a, .fin b _ _ => .inf (a != b)
  | .fin a _ _, .inf b => .zero (a != b)
  | .fin a m e, .fin b n g =>
    if n = 0 then (if m = 0 then .nan else .inf (a != b))
    else if m = 0 then .zero (a != b)
    else
      let k := 64 + Nat.log2 n
      let t := m * 2 ^ k
      .fin (a != b) (2 * (t / n) + (if t % n = 0 then 0 else 1)) (e - g - k - 1)

/-- Newton's iteration for the integer square root, from above. -/
def isqrtFrom (n : Nat) : Nat → Nat → Nat
  | 0, x => x
  | fuel + 1, x =>
    let y := (x + n / x) / 2
    if y < x then isqrtFrom n fuel y else x

/-- The integer square root. -/
def isqrt (n : Nat) : Nat :=
  if n = 0 then 0 else isqrtFrom n (Nat.log2 n + 8) (2 ^ (Nat.log2 n / 2 + 1))

/-- A root whose rounding to any format is that of √x (R164). -/
def FVal.sqrt : FVal → FVal
  | .nan => .nan
  | .inf neg => if neg then .nan else .inf false
  | .fin neg m e =>
    if m = 0 then .zero neg
    else if neg then .nan
    else
      let k := 128 + (e % 2).toNat
      let t := m * 2 ^ k
      let r := isqrt t
      .fin false (2 * r + (if r * r = t then 0 else 1)) ((e - k) / 2 - 1)

/-- 1 / √x as for sqrt (R156, R157); ±0 gives infinity of its sign. -/
def FVal.rsq : FVal → FVal
  | .nan => .nan
  | .inf neg => if neg then .nan else .zero false
  | .fin neg m e =>
    if m = 0 then .inf neg
    else if neg then .nan
    else
      let k := 128 + Nat.log2 m + ((e + Nat.log2 m) % 2).toNat
      let t := 2 ^ k / m
      let r := isqrt t
      .fin false (2 * r + (if r * r * m = 2 ^ k then 0 else 1)) (-(e + k) / 2 - 1)

/-- 1 / x (R157). -/
def FVal.rcp (x : FVal) : FVal := FVal.div (.fin false 1 0) x

/-! ### 2^x and log2 x (R156): a lower bound of 192 binary places, and one bit for what lies above it
(log entry 10). -/

/-- Places after the point of the series below. -/
abbrev seriesBits : Nat := 192

/-- 2^(r / 2^t) for r < 2^t, from the bits of r, highest first: the product of the repeated roots of 2. -/
def exp2Frac (r : Nat) : Nat → Nat → Nat → Nat
  | 0, _, acc => acc
  | t + 1, root, acc =>
    let root' := isqrt (root * 2 ^ seriesBits)
    exp2Frac r t root' (if r / 2 ^ t % 2 = 1 then acc * root' / 2 ^ seriesBits else acc)

/-- 2^x. Below 2^−40 in magnitude, x moves the result by less than half a unit of every format. -/
def FVal.exp2 : FVal → FVal
  | .nan => .nan
  | .inf neg => if neg then .zero false else .inf false
  | .fin _ 0 _ => .fin false 1 0
  | .fin neg m e =>
    if (Nat.log2 m : Int) + e < -40 then
      .fin false (if neg then 2 ^ 64 - 1 else 2 ^ 64 + 1) (-64)
    else if (Nat.log2 m : Int) + e > 12 then (if neg then .fin false 1 (-4096) else .inf false)
    else
      let t := (-e).toNat
      let v := signedAt neg m (max e 0) 0
      let q := v / (2 ^ t : Nat)
      let r := (v % (2 ^ t : Nat)).toNat
      if r = 0 then .fin false 1 q
      else .fin false (2 * exp2Frac r t (2 * 2 ^ seriesBits) (2 ^ seriesBits) + 1) (q - seriesBits - 1)

/-- Binary places of log2 of a number in [1, 2), by repeated squaring. -/
def log2Frac : Nat → Nat → Nat → Nat
  | 0, _, acc => acc
  | n + 1, x, acc =>
    let y := x * x / 2 ^ (2 * seriesBits)
    if 2 * 2 ^ (2 * seriesBits) ≤ y then log2Frac n (y / 2) (2 * acc + 1) else log2Frac n y (2 * acc)

/-- log2 x. -/
def FVal.log2 : FVal → FVal
  | .nan => .nan
  | .inf neg => if neg then .nan else .inf false
  | .fin _ 0 _ => .inf true
  | .fin true _ _ => .nan
  | .fin false m e =>
    let l := Nat.log2 m
    let p : Int := (l : Int) + e
    if m = 2 ^ l then FVal.ofInt p 0 false
    else
      let fr := log2Frac seriesBits (m * 2 ^ (2 * seriesBits) / 2 ^ l) 0
      let v : Int := p * (2 ^ seriesBits : Nat) + fr
      if 0 ≤ v then .fin false (2 * v.toNat + 1) (-(seriesBits : Int) - 1)
      else .fin true (2 * (-v - 1).toNat + 1) (-(seriesBits : Int) - 1)

/-! ### Order (R164, R166) -/

/-- Compares two values that are not NaN; −0 equals +0. -/
def FVal.cmp : FVal → FVal → Ordering
  | .inf a, .inf b => if a = b then .eq else if a then .lt else .gt
  | .inf a, _ => if a then .lt else .gt
  | _, .inf b => if b then .gt else .lt
  | .fin a m e, .fin b n g => compare (signedAt a m e (min e g)) (signedAt b n g (min e g))
  | _, _ => .eq

/-- Whether a value carries a minus sign. -/
def FVal.isNeg : FVal → Bool
  | .nan => false
  | .inf n => n
  | .fin n _ _ => n

/-- The smaller by the VFMIN rule: −0 below +0, a single NaN gives the other, two give NaN (R164). -/
def FVal.min (x y : FVal) : FVal :=
  if x = .nan then y
  else if y = .nan then x
  else
    match FVal.cmp x y with
    | .lt => x
    | .gt => y
    | .eq => if x.isNeg then x else y

/-- The larger by the VFMAX rule. -/
def FVal.max (x y : FVal) : FVal :=
  if x = .nan then y
  else if y = .nan then x
  else
    match FVal.cmp x y with
    | .lt => y
    | .gt => x
    | .eq => if x.isNeg then y else x

/-! ### Integers -/

/-- An n-bit code read as signed. -/
def asSigned (n : Nat) (x : Nat) : Int :=
  let y := x % 2 ^ n
  if 2 ^ (n - 1) ≤ y then (y : Int) - 2 ^ n else y

/-- The low n bits of an integer. -/
def wrapTo (n : Nat) (x : Int) : Nat := (x % (2 ^ n : Nat)).toNat

/-- Whether an integer type is signed. -/
def typeSigned : VType → Bool
  | .i8 | .i16 | .i32 | .i64 => true
  | _ => false

/-- The smallest number of an integer type (R144). -/
def typeMin (t : VType) : Int := if typeSigned t then -(2 ^ (t.width - 1) : Nat) else 0

/-- The largest number of an integer type. -/
def typeMax (t : VType) : Int :=
  if typeSigned t then ((2 ^ (t.width - 1) : Nat) : Int) - 1 else ((2 ^ t.width : Nat) : Int) - 1

/-- The number an integer code encodes (R144). -/
def typeVal (t : VType) (x : Nat) : Int :=
  if typeSigned t then asSigned t.width x else (x % 2 ^ t.width : Nat)

/-- Saturates to an integer type and encodes. -/
def saturate (t : VType) (v : Int) : Nat := wrapTo t.width (max (typeMin t) (min (typeMax t) v))

/-- The floating format of a type code. -/
def typeFloat : VType → Option FloatFmt
  | .fp32 => some fmtFP32
  | .fp16 => some fmtFP16
  | .bf16 => some fmtBF16
  | .e4m3 => some fmtE4M3
  | .e5m2 => some fmtE5M2
  | .e2m1 => some fmtE2M1
  | _ => none

/-- The floating format of a floating lane type. -/
def floatOf : FType → FloatFmt
  | .fp32 => fmtFP32
  | .fp16 => fmtFP16
  | .bf16 => fmtBF16

/-- The value of a code of any type. -/
def typeFVal (t : VType) (x : Nat) : FVal :=
  match typeFloat t with
  | some f => f.decode x
  | none => FVal.ofInt (typeVal t x) 0 false

/-- Rounds a value to an integer type and saturates (R151). -/
def roundToInt (t : VType) (rm : Rnd) : FVal → Nat
  | .nan => 0
  | .inf neg => wrapTo t.width (if neg then typeMin t else typeMax t)
  | .fin neg m e =>
    let n := roundQuot rm neg m e 0
    saturate t (if neg then -(n : Int) else n)

/-- A value converted to any type (R151). -/
def convertTo (t : VType) (rm : Rnd) (v : FVal) : Nat :=
  match typeFloat t with
  | some f => f.round rm v
  | none => roundToInt t rm v

/-! ### Block formats (R147-R149) -/

/-- The value of an element of a block: its format, its code, and its block's scale entry. -/
def blockVal (t : VType) (code entry : Nat) : FVal :=
  let s := entry % 256
  if s = 0xFF then .nan
  else
    let v := if t = .e2m1 ∧ code % 16 = 8 then fmtE4M3.decode (entry / 256) else typeFVal t code
    v.scale ((s : Int) - 127)

/-! ### The order of sums (R152, R153) -/

/-- Rounds to FP32, mode rn, and decodes again. -/
def fp32rn (v : FVal) : FVal := fmtFP32.decode (fmtFP32.round .rn v)

/-- The exact sum of a block's products, rounded once; an exact zero is +0 (R152). -/
def blockSum (ps : List FVal) : FVal :=
  let s := ps.foldl (FVal.add .rn) (.zero false)
  fp32rn (match s with | .fin _ 0 _ => .zero false | v => v)

/-- Accumulates one block: acc := round(acc + blk). -/
def blockStep (acc : FVal) (ps : List FVal) : FVal := fp32rn (FVal.add .rn acc (blockSum ps))

/-! ### Residues (R126, R154, R155) -/

/-- The result of a modular operation: exact for inputs below q, else the free value of R154, below q. -/
def modular (opn : Nat → Nat → Nat → Nat) (exact : Nat → Nat → Nat → Nat) (q x y : Nat) : Nat :=
  if x < q ∧ y < q then exact q x y % q else opn x y q % q

/-- MULQ. -/
def mulMod (q x y : Nat) : Nat := modular Config.openProduct (fun _ x y => x * y) q x y

/-- ADDQ. -/
def addMod (q x y : Nat) : Nat := modular Config.openSum (fun _ x y => x + y) q x y

/-- SUBQ. -/
def subMod (q x y : Nat) : Nat := modular Config.openDiff (fun q x y => x + q - y) q x y

/-- QMU as ⌊2^124 / QMOD⌋ (R105). -/
def barrett (q : Nat) : Nat := 2 ^ 124 / q

end Sys2Proof.Machine
end

