-- ==== Sys2Proof/Machine/Memory.lean ====
section
/-! DEFINITION. Bytes, pools, translation, the checks of R182, and accesses to each class of address
(spec/09_fed_pool_memory.md, spec/14_fed_host_tiers.md R287-R300, R324). -/

namespace Sys2Proof.Machine

/-! ### Bytes in one canonical form -/

/-- What an unlisted byte reads as (log entry 5). -/
def unlisted : Byte := 0

/-- One byte. -/
def memGet (m : Mem) (a : Nat) : Byte :=
  match m with
  | [] => unlisted
  | (b, x) :: r => if a = b then x else memGet r a

/-- Writes one byte; a byte that reads as unlisted is not listed. -/
def memPut (m : Mem) (a : Nat) (x : Byte) : Mem :=
  match m with
  | [] => if x = unlisted then [] else [(a, x)]
  | (b, y) :: r =>
    if a < b then (if x = unlisted then (b, y) :: r else (a, x) :: (b, y) :: r)
    else if a = b then (if x = unlisted then r else (a, x) :: r)
    else (b, y) :: memPut r a x

/-- The canonical form: addresses strictly rising, no byte listed that reads as unlisted. -/
def Memory.wf : Mem → Bool
  | [] => true
  | [(_, x)] => x != unlisted
  | (a, x) :: (b, y) :: r => x != unlisted && a < b && Memory.wf ((b, y) :: r)

/-- n bytes from address a, little-endian (R7). -/
def memRead (m : Mem) (a : Nat) : Nat → Nat
  | 0 => 0
  | n + 1 => (memGet m a).toNat + 256 * memRead m (a + 1) n

/-- Writes the low n bytes of v at address a, little-endian. -/
def memWrite (m : Mem) (a : Nat) : Nat → Nat → Mem
  | 0, _ => m
  | n + 1, v => memWrite (memPut m a (BitVec.ofNat 8 v)) (a + 1) n (v / 256)

/-- Writes bytes given by their places after address a. -/
def memWriteAt (m : Mem) (a : Nat) : List (Nat × Byte) → Mem
  | [] => m
  | (i, b) :: r => memWriteAt (memPut m (a + i) b) a r

/-- Writes a list of bytes. -/
def memWriteBytes (m : Mem) (a : Nat) : List Byte → Mem
  | [] => m
  | b :: r => memWriteBytes (memPut m a b) (a + 1) r

/-- n bytes as a list. -/
def memBytes (m : Mem) (a n : Nat) : List Byte := (List.range n).map (fun i => memGet m (a + i))

/-- Removes every listed byte of a range. -/
def memClear (m : Mem) (a n : Nat) : Mem := m.filter (fun c => c.1 < a || a + n ≤ c.1)

/-! ### Physical addresses (R179) -/

/-- The space of a physical address. -/
def paSpace (pa : Nat) : Nat := pa / 2 ^ 48

/-- Whether a physical address is mapped (R179). -/
def paOk (pa : Nat) : Bool :=
  let off := pa % 2 ^ 48
  match paSpace pa with
  | 0 => off < 768 * 2 ^ 30
  | 1 => off / 2 ^ 40 == 0 && off / 2 ^ 36 < 12
  | 2 => off < 960 * 2 ^ 30
  | 3 | 4 => true
  | _ => false

/-- The cell that a physical address names: both views of HBM4 name the same cells (R179), which the model
numbers by the stack view. -/
def cellOf (pa : Nat) : Nat :=
  if paSpace pa = 0 then
    let n := pa / 4096
    2 ^ 48 + (n % 12) * 2 ^ 36 + (n / 12) * 4096 + pa % 4096
  else pa

/-- The stack of an HBM4 cell. -/
def cellStack (cell : Nat) : Nat := cell / 2 ^ 36 % 16

/-- The 128-byte line of a cell. -/
def lineOf (cell : Nat) : Nat := cell / 128 * 128

/-- The 64 KiB frame of a cell that a migration entry names. -/
def frameOf (cell : Nat) : Nat := cell / 65536 * 65536

/-- The physical address by which the interleaved view names an HBM4 cell; any other cell is its own address (R179). -/
def paOf (cell : Nat) : Nat :=
  if paSpace cell = 1 then (cell % 2 ^ 36 / 4096 * 12 + cellStack cell) * 4096 + cell % 4096 else cell

/-- Whether a 64 KiB page at a physical address holds a cell. -/
def pageHolds (pa cell : Nat) : Bool := frameOf pa == frameOf (if paSpace pa = 0 then paOf cell else cell)

/-! ### Device memory, with the host-homed halves that the device holds dirty (R287) -/

/-- The 64-byte half of a cell. -/
def halfOf (cell : Nat) : Nat := cell / 64 * 64

/-- A byte of a 512-bit half. -/
def halfByte (h : BitVec 512) (i : Nat) : Byte := h.extractLsb' (8 * i) 8

/-- Replaces byte i of a half. -/
def halfPut (h : BitVec 512) (i : Nat) (x : Byte) : BitVec 512 :=
  (h &&& ~~~(0xFF#512 <<< (8 * i))) ||| ((x.setWidth 512) <<< (8 * i))

/-- A byte as the device sees it. -/
def State.byteAt (s : State) (cell : Nat) : Byte :=
  if paSpace cell = 3 then
    match s.hostLine.find? (fun e => e.1 = halfOf cell) with
    | some e => halfByte e.2 (cell % 64)
    | none => memGet s.mem cell
  else memGet s.mem cell

/-- n bytes as the device sees them. -/
def State.bytesAt (s : State) (cell : Nat) : Nat → Nat
  | 0 => 0
  | n + 1 => (s.byteAt cell).toNat + 256 * s.bytesAt (cell + 1) n

/-- The 64 bytes of a half, from memory. -/
def State.halfMem (s : State) (cell : Nat) : BitVec 512 := BitVec.ofNat 512 (memRead s.mem (halfOf cell) 64)

/-- Writes a dirty half back to the host's memory. -/
def State.writeBack (s : State) (half : Nat) : State :=
  match s.hostLine.find? (fun e => e.1 = half) with
  | some e =>
    { s with mem := memWrite s.mem half 64 e.2.toNat, hostLine := s.hostLine.filter (fun e => e.1 != half) }
  | none => s

/-- Makes room for one more dirty half: at most 65,536 are held (R287). -/
def State.roomDirty (s : State) : State :=
  match s.hostLine with
  | e :: _ => if s.hostLine.length < 65536 then s else s.writeBack e.1
  | [] => s

/-- Writes one byte; a cached write to space 3 dirties its half. -/
def State.putByte (s : State) (uc : Bool) (cell : Nat) (x : Byte) : State :=
  if paSpace cell = 3 && !uc then
    let s := if (s.hostLine.any (fun e => e.1 = halfOf cell)) then s else s.roomDirty
    let h := match s.hostLine.find? (fun e => e.1 = halfOf cell) with
      | some e => e.2
      | none => s.halfMem cell
    { s with hostLine := s.hostLine.filter (fun e => e.1 != halfOf cell) ++ [(halfOf cell, halfPut h (cell % 64) x)] }
  else if paSpace cell = 3 then { s.writeBack (halfOf cell) with mem := memPut (s.writeBack (halfOf cell)).mem cell x }
  else { s with mem := memPut s.mem cell x }

/-- Writes bytes given by their places after a cell. -/
def State.putAt (s : State) (uc : Bool) (cell : Nat) : List (Nat × Byte) → State
  | [] => s
  | (i, b) :: r => (s.putByte uc (cell + i) b).putAt uc cell r

/-- Writes the low n bytes of v. -/
def State.putBytes (s : State) (uc : Bool) (cell : Nat) : Nat → Nat → State
  | 0, _ => s
  | n + 1, v => (s.putByte uc cell (BitVec.ofNat 8 v)).putBytes uc (cell + 1) n (v / 256)

/-! ### Monitors (R201) and the events that wake a parked continuation (R139) -/

/-- Records a hit on each armed slot that watches a line. -/
def Thread.hitLine (t : Thread) (line : Nat) : Thread :=
  { t with watch := t.watch.map (fun w => w.map (fun w => if w.line = line then { w with hit := true } else w)) }

/-- Whether an armed slot of the thread watches a line. -/
def Thread.watches (t : Thread) (line : Nat) : Bool :=
  t.watch.any (fun w => match w with | some w => w.line == line | none => false)

/-- Whether a thread sleeps in WSLEEP. -/
def Thread.asleep (t : Thread) : Bool :=
  match t.wait with
  | some ⟨.sleep _, _, _, _⟩ => true
  | _ => false

/-- Marks a waiting thread as served when it sleeps in PARK (R139). -/
def Thread.wakeParked (t : Thread) : Thread :=
  match t.wait with
  | some w => if w.kind = .parked then { t with wait := some { w with served := .done } } else t
  | none => t

/-- An event recorded on a core: every continuation that PARK put away becomes resumable, and the sleep of one that was pre-empted while it
slept in place is over (R139). -/
def Core.event (k : Core) (now : Nat) : Core :=
  { k with
    threads := k.threads.map Thread.wakeParked
    parked := k.parked.map (fun p =>
      if !p.resumable && (p.th.wait.map WaitRec.kind) = some .away then { p with resumable := true, stamp := now }
      else { p with th := p.th.wakeParked }) }

/-- Makes resumable each parked continuation whose waiting record satisfies a test. -/
def Core.wakeIf (k : Core) (now : Nat) (f : Thread → Bool) : Core :=
  { k with parked := k.parked.map (fun p => if !p.resumable && f p.th then { p with resumable := true, stamp := now } else p) }

/-- Whether a thread waits in BARW on an object of a line whose phase has changed (R315, R317). -/
def State.barrierOver (s : State) (line : Nat) (t : Thread) : Bool :=
  match t.wait.map WaitRec.kind with
  | some (.barrier pa phase) => lineOf pa = line && s.bytesAt (pa + 4) 4 != phase.toNat
  | _ => false

/-- A thread whose wait is served. -/
def Thread.serveWait (t : Thread) : Thread := { t with wait := t.wait.map (fun w => { w with served := .done }) }

/-- Records a hit at a core that watches a line, and wakes what sleeps there. -/
def Core.hitLine (k : Core) (now line : Nat) : Core :=
  if k.threads.any (fun t => t.watches line) || k.parked.any (fun p => p.th.watches line) then
    let k : Core := { k with
      threads := k.threads.map (fun t : Thread => t.hitLine line)
      parked := k.parked.map (fun p : Parked => { p with th := p.th.hitLine line }) }
    (k.wakeIf now (fun t => t.watches line && t.asleep)).event now
  else k

/-- Releases the threads and parked continuations of a core that a test names: their waits are served. -/
def Core.releaseIf (k : Core) (now : Nat) (f : Thread → Bool) : Core :=
  if k.threads.any f || k.parked.any (fun p => f p.th) then
    let k : Core := k.wakeIf now f
    { k with
      threads := k.threads.map (fun t : Thread => if f t then t.serveWait else t)
      parked := k.parked.map (fun p : Parked => if f p.th then { p with th := p.th.serveWait } else p) }
  else k

/-- Records the loss of a line at the cores that a test names (R201). -/
def State.loseLine (s : State) (line : Nat) (f : Nat → Bool) : State :=
  s.mapCores (fun c k => if f c then k.hitLine s.cycle line else k)

/-- Whether software has written status 1 into a collective record that lies in a line (R42). -/
def State.endedIn (s : State) (line : Nat) (x : Collective) : Bool :=
  lineOf (cellOf (x.pa + 24)) = line && s.byteAt (cellOf (x.pa + 24)) = 1

/-- Records a write to, or the loss of, a line at every core that watches it, releases every BARW on a barrier in it whose phase
has changed (R315), and ends the registration of a collective record in it whose status is 1 (R42), whatever is written later. -/
def State.hitLine (s : State) (line : Nat) : State :=
  let s := s.mapCores (fun _ k => (k.hitLine s.cycle line).releaseIf s.cycle (s.barrierOver line))
  { s with collects := s.collects.filter (fun x => !s.endedIn line x) }

/-! ### U copies (R324) -/

/-- One reduction on codes of a type. -/
def redApply (op : RedOp) (t : VType) (old x : Nat) : Nat :=
  let w := t.width
  match op with
  | .add => (old + x) % 2 ^ w
  | .and => old &&& x
  | .or => old ||| x
  | .xor => old ^^^ x
  | .min => if t = .fp32 then fmtFP32.round .rn (FVal.min (fmtFP32.decode old) (fmtFP32.decode x))
    else if typeVal t x < typeVal t old then x % 2 ^ w else old
  | .max => if t = .fp32 then fmtFP32.round .rn (FVal.max (fmtFP32.decode old) (fmtFP32.decode x))
    else if typeVal t old < typeVal t x then x % 2 ^ w else old
  | .fadd => fmtFP32.round .rn (FVal.add .rn (fmtFP32.decode old) (fmtFP32.decode x))

/-- Combines the partials of one U copy into memory. -/
def State.combine (s : State) (u : UCopy) : State :=
  u.parts.foldl (fun s p => s.putBytes false p.1 (u.type.width / 8)
    (redApply u.op u.type (s.bytesAt p.1 (u.type.width / 8)) p.2)) s

/-- A core loses its caches' state: its U copies are combined, each as a write of its line, and it holds no line exclusively (R42, R51, R60,
R324). -/
def State.dropCaches (s : State) (c : Nat) : State :=
  (s.ucopies.filter (fun u => u.core = c)).foldl (fun s u => (s.combine u).hitLine u.line) { s with
    ucopies := s.ucopies.filter (fun u => u.core != c)
    excl := s.excl.filter (fun e => e.1 != c) }

/-- Recalls U copies, one at a time, in an order that is not determined. -/
def recallLoop : Nat → List UCopy → State → State
  | 0, _, s => s
  | fuel + 1, l, s =>
    match pickFree s.free l with
    | none => s
    | some u => recallLoop fuel (l.erase u) ((s.spent.combine u).hitLine u.line)

/-- Recalls every U copy of a line; nothing happens when there is none. -/
def State.recall (s : State) (line : Nat) : State :=
  let l := s.ucopies.filter (fun u => u.line = line)
  if l.isEmpty then s
  else recallLoop l.length l { s with ucopies := s.ucopies.filter (fun u => u.line != line) }

/-! ### Bank latency accumulators (R406) -/

/-- Adds one reply to an accumulator of a core; both parts saturate. -/
def Core.account (k : Core) (ix : BitVec 6) (lat : Nat) : Core :=
  let sum := k.sums[ix.toNat]'ix.isLt
  let cnt := k.cnts[ix.toNat]'ix.isLt
  { k with
    sums := k.sums.set ix.toNat (BitVec.ofNat 48 (min (sum.toNat + min lat 4095) (2 ^ 48 - 1))) ix.isLt
    cnts := k.cnts.set ix.toNat (BitVec.ofNat 32 (min (cnt.toNat + 1) (2 ^ 32 - 1))) ix.isLt }

/-- Accounts a reply to a core at one of the destinations that the access may have had; none stands for one that did not leave the core.
Which one is a free value. -/
def State.accountAt (s : State) (c : Nat) (dests : List (Option Nat)) : State :=
  match pickFree s.free dests with
  | some (some d) => s.spent.modCore c (fun k => k.account (BitVec.ofNat 6 d) (Config.latency s.fresh))
  | _ => s.spent

/-- The same for the executing core. -/
def State.account (s : State) (dests : List (Option Nat)) : State := s.accountAt s.act.core dests

/-- The slice that homes a line (R55). -/
def sliceOf (pa : Nat) : Nat :=
  ([7, 12, 17, 22, 27, 32, 37, 42, 47].map (fun k => pa / 2 ^ k % 32)).foldl Nat.xor 0

/-- The destination that homes a physical address (R406). No access of the model reaches memory of another module, index 52. -/
def homeDest (pa : Nat) : Nat :=
  match paSpace (cellOf pa) with
  | 1 => 32 + cellStack (cellOf pa)
  | 2 => 51
  | 3 => 49
  | _ => 50

/-- The destinations of an access to a physical address (R55, R406). -/
def destsOf (pa : Nat) (uc : Bool) : List (Option Nat) :=
  if uc then [some (homeDest pa)] else [none, some (sliceOf pa), some (homeDest pa)]

/-! ### Translation (R178, R180) -/

/-- The reason an entry faults, in the order of R178: `lvl` 0 is the root, then levels 0 to 3 as 1 to 4; `page` is
log2 of the page size of a leaf there. -/
def entryBad (e : Word) (lvl page : Nat) : Option Nat :=
  let leaf := e.getLsbD 1
  let addr := (e &&& 0x000FFFFFFFFFF000).toNat
  if !e.getLsbD 0 then some 0
  else if e.extractLsb' 62 2 ≠ 0 ∨ e.extractLsb' 52 4 ≠ 0 ∨ e.extractLsb' 2 10 ≠ 0 then some 2
  else if leaf then
    if lvl ≤ 1 ∨ addr % 2 ^ page ≠ 0 then some 2
    else if !paOk addr || !paOk (addr + 2 ^ page - 1) then some 3 else none
  else if lvl = 4 ∨ e.extractLsb' 56 6 ≠ 0 then some 2
  else if !paOk addr then some 3 else none

/-- The levels of a walk: the shift and the index bits of each. -/
def walkLevels : List (Nat × Nat) := [(39, 18), (30, 9), (21, 9), (16, 5)]

/-- Whether space 3 faults HOST_LINK_DOWN (R300). -/
def State.hostDown (s : State) : Bool := !s.cxlUp || s.strandOn

/-- Whether a cell lies in a page in motion (R292). -/
def State.inMotion (s : State) (cell : Nat) : Bool :=
  s.migTable.any (fun p => p.moving && (pageHolds p.dev cell || pageHolds p.host cell))

/-- Whether an address lies in the top sixteenth of a host region, which holds its tags and is mapped to no domain (R298). -/
def State.tagPart (s : State) (pa : Nat) : Bool := s.regions.any (fun r => r.1 + (r.2 - r.2 / 16) ≤ pa && pa < r.1 + r.2)

/-- Why a table entry that a walk must read gives no entry: 17 where it lies in a page in motion (R292), 16 where it lies in space 3 while that is down (R300), 32 and the site of an
uncorrectable error (R298, R382). -/
def State.entryLost (s : State) (ea : Nat) : Option Nat :=
  if paSpace ea = 3 && s.hostDown then some 16
  else if s.inMotion (cellOf ea) then some 17
  else (s.bad.find? (fun e => e.1 = lineOf (cellOf ea))).map (fun e => 32 + e.2.toNat)

/-- The walk below the root: the physical address and the leaf, or the reason it faults. Reading a table entry
recalls U copies of its line. DESIGN CHOICE (log entry 24): its reads need no slots of the walking thread's owner. -/
def walkFrom (va : Nat) : List (Nat × Nat) → Nat → Nat → State → Except Nat (Nat × Word) × State
  | [], _, _, s => (.error 2, s)
  | (sh, bits) :: r, lvl, table, s =>
    let ea := table + 8 * (va / 2 ^ sh % 2 ^ bits)
    if !paOk ea || s.tagPart ea then (.error 3, s)
    else
      match s.entryLost ea with
      | some n => (.error n, s)
      | none =>
        let s := s.recall (lineOf (cellOf ea))
        let e := BitVec.ofNat 64 (s.bytesAt (cellOf ea) 8)
        match entryBad e lvl sh with
        | some n => (.error n, s)
        | none =>
          let addr := (e &&& 0x000FFFFFFFFFF000).toNat
          if e.getLsbD 1 then (if s.tagPart (addr + va % 2 ^ sh) then .error 3 else .ok (addr + va % 2 ^ sh, e), s)
          else walkFrom va r (lvl + 1) addr s

/-- The fault of a walk that ends with a reason; `f` is the PAGE_NOT_PRESENT of a reason of R178. -/
def walkFault (n : Nat) (f : Nat → Flt) : Flt :=
  if n < 16 then f n else if n = 16 then flt .hostLinkDown 0 else flt .integrity (BitVec.ofNat 64 (n - 32))

/-- What stops an access whose walk ends with a reason, `rep` the address reported: one that meets a page in motion stalls (R292). -/
def walkStop (n : Nat) (rep : Word) (f : Nat → Flt) : Stop :=
  if n = 17 then .hold (some (.moving rep)) else .fault (walkFault n f)

/-- The walk of R178 for a virtual address of class global in a domain. -/
def State.walk (s : State) (dom : BitVec 8) (va : Nat) : Except Nat (Nat × Word) × State :=
  let root := (s.domain dom).root
  match entryBad root 0 12 with
  | some n => (.error n, s)
  | none => walkFrom va walkLevels 1 (root &&& 0x000FFFFFFFFFF000).toNat s

/-- Translation: the walk's result, or a cached translation that differs from it, which R180 allows until a
shootdown; which one is a free value. -/
def State.translate (s : State) (dom : BitVec 8) (va : Nat) : Except Nat (Nat × Word) × State :=
  let (fresh, s) := s.walk dom va
  let page := va / 65536
  let off := va % 65536
  let cached := s.tlb.filter (fun e => e.dom = dom && e.page = page)
  let stale := (cached.map (fun e => (e.pa + off, e.leaf))).filter
    (fun c => match fresh with | .ok x => x != c | .error _ => true)
  let s := match fresh with
    | .ok (pa, leaf) =>
      if cached.any (fun e => e.pa = pa - off && e.leaf = leaf) then s
      else { s with tlb := s.tlb ++ [⟨dom, page, pa - off, leaf⟩] }
    | .error _ => s
  if stale.isEmpty then (fresh, s)
  else ((pickFree s.free (fresh :: stale.map Except.ok)).getD fresh, s.spent)

/-! ### Classes and checks (R176, R182) -/

/-- The classes of R176. -/
inductive AClass where
  | global | own | remote | window | none
  deriving DecidableEq, Repr

/-- The class of an address. -/
def classOf (va : Word) : AClass :=
  let top := (va.extractLsb' 48 16).toNat
  if top ≤ 0x1FF then .global
  else if top = 0xFFFE then .own
  else if top = 0xFFFD then .remote
  else if top = 0xFFFC then .window
  else .none

/-- Where a checked access goes. `uc` marks an uncached page, and `pa` is the address that names the cell. -/
inductive Place where
  | cell (cell : Nat) (uc : Bool) (pa : Nat)
  | pool (core off : Nat)
  deriving DecidableEq, Repr

/-- What an instruction requires of an access: `deny` gives the PAGE_RIGHTS code of a class it does not take, `prop`
that of a page property it does not take; `w0` demands window W0, `regions` the pool regions (R182), and `noRoute` no default route (R281). -/
structure Acc where
  write : Bool := false
  both  : Bool := false
  size  : Nat
  align : Nat
  deny  : AClass → Option Nat := fun _ => none
  prop  : Word → Nat → Option Nat := fun _ _ => none
  ex    : Bool := false
  badPtr : Bool := false
  lane  : Option Nat := none
  w0    : Bool := false
  regions : Option (List Nat) := none
  noRoute : Bool := false

/-- TINFO of a fault of R182: [0] write, [7:4] a code, [15:8] the lane. -/
def Acc.info (a : Acc) (code : Nat) : Word :=
  BitVec.ofNat 64 ((if a.write then 1 else 0) + 16 * code + 256 * a.lane.getD 0)

/-- A fault of R182. -/
def Acc.fault {α : Type} (a : Acc) (c : Cause) (va : Word) (code : Nat) : Ex α := raise (fltAt c va (a.info code))

/-- The region of a pool offset, coded as in TINFO [7:4] of POOL_BOUNDS (R182, R183). -/
def regionOf (k : Core) (off : Nat) : Nat :=
  if 3 * 2 ^ 20 ≤ off then 5
  else if 3 * 2 ^ 20 - 2 ^ 14 ≤ off then 4
  else if off < k.pb1.toNat * 65536 then 0
  else if off < k.pb2.toNat * 65536 then 1
  else if off < k.pb3.toNat * 65536 then 2
  else 3

/-- The region of the first byte of a span that is not in one of the given regions. -/
def spanBad (k : Core) (off n : Nat) (regions : List Nat) : Option Nat :=
  let ends := [off, k.pb1.toNat * 65536, k.pb2.toNat * 65536, k.pb3.toNat * 65536, 3 * 2 ^ 20 - 2 ^ 14, 3 * 2 ^ 20]
  ((ends.filter (fun e => off ≤ e && e < off + n)).map (regionOf k)).find? (fun r => !regions.contains r)

/-- The regions a thread reaches by own-pool accesses at its level (R183). -/
def ownRegions (l : Level) : List Nat := if l.atLeast .hyper then [0, 1, 3] else [1, 3]

/-- Whether a remote core takes accesses of the executing core's owner (R185). -/
def State.remoteOk (s : State) (c : Nat) : Bool :=
  let k := s.getCore c
  s.isCompute c && k.valid && s.core.valid && k.owner = s.core.owner && k.scrub.isNone

/-- The leaf's rights for an access (R182 step 5). -/
def leafOk (leaf : Word) (a : Acc) (l : Level) : Bool :=
  (if a.both then leaf.getLsbD 57 && leaf.getLsbD 58 else if a.write then leaf.getLsbD 58 else leaf.getLsbD 57) &&
    (leaf.getLsbD 56 || l != .user) && leaf.getLsbD 60 == a.ex

/-- The resources that an access of a core to a physical address needs a slot of (R54): the links to the slice of its die that homes the
line, the slice's port and the links of its reply, or, where the page is uncached in HBM4, its channel. DESIGN CHOICE (log entry 24): an
uncached access uses channel 0 of its stack, since spec/ does not number the channels. -/
def accessPath (c : Nat) (uc : Bool) (pa : Nat) : List Resource :=
  if uc then (if paSpace (cellOf pa) = 1 then [.channel (cellStack (cellOf pa)) 0] else [])
  else toSlice c (coreDie c) (sliceOf pa) ++ fromSlice (coreDie c) (sliceOf pa) c

/-- Whether an access of a core for an owner needs a resource that grants the owner no slot (R54). A line that the core holds exclusively
needs none, and the traffic of the Lodge, Pavilion and Kiosk cores is device traffic, which is granted first in every shared slot. -/
def State.starvedAt (s : State) (c : Nat) (o : BitVec 4) (uc : Bool) (pa : Nat) : Bool :=
  s.isCompute c && !(!uc && s.excl.contains (c, lineOf (cellOf pa))) && s.barred o (accessPath c uc pa)

/-- The same for an access of the executing core. -/
def State.starved (s : State) (uc : Bool) (pa : Nat) : Bool := s.starvedAt s.act.core s.core.owner uc pa

/-- Whether an engine command owns the line of a cell (R228). -/
def State.lineOwned (s : State) (cell : Nat) : Bool :=
  s.cores.any (fun e => e.2.cmds.any (fun c => c.owned.contains (lineOf cell)))

/-- Steps 4 to 6 of R182 for an address of class global in a domain; `rep` is the address reported: the physical
address, and whether its page is uncached. -/
def State.checkPa (s : State) (a : Acc) (dom : BitVec 8) (l : Level) (va rep : Word) : Ex ((Nat × Bool) × State) :=
  let (r, s) := s.translate dom va.toNat
  match r with
  | .error n => .error (walkStop n rep (fun n => fltAt .pageNotPresent rep (a.info n)))
  | .ok (pa, leaf) =>
    if !leafOk leaf a l then
      raise (fltAt .pageRights rep (a.info 0 ||| (if leaf.getLsbD 60 != a.ex then 2 else 0)))
    else
      match a.prop leaf (paSpace pa) with
      | some n => a.fault .pageRights rep n
      | none =>
        if s.denied.contains (dom, frameOf (cellOf pa)) then a.fault .domainRights rep 2
        else .ok ((pa, leaf.getLsbD 61 || paSpace pa = 4), s)

/-- An access to a global address: after its checks, a link that is down, a page in motion, a line that a
command owns, and the slots that its owner needs. -/
def State.checkGlobal (s : State) (a : Acc) (dom : BitVec 8) (l : Level) (va rep : Word) : Ex (Place × State) := do
  let ((pa, uc), s) ← s.checkPa a dom l va rep
  let cell := cellOf pa
  if paSpace pa = 3 && s.hostDown then raise (flt .hostLinkDown 0)
  else if s.inMotion cell then .error (.hold (some (.moving rep)))
  else if s.lineOwned cell then .error (.hold none)
  else if s.starved uc pa then .error (.hold none)
  else .ok (.cell cell uc pa, s)

/-- Whether the argument window is out of force: outside a call, or in an unwind handler (R186, R220). -/
def Thread.noWindow (t : Thread) : Bool :=
  t.frames.isEmpty || (match t.unwind with | some u => u.handler.isSome | none => false)

/-- The checks of R182 for an access of the executing thread. -/
def State.check (s : State) (a : Acc) (va : Word) : Ex (Place × State) :=
  if va.toNat % a.align ≠ 0 then a.fault .misaligned va 0
  else
    match classOf va with
    | .none => a.fault .pageNotPresent va 1
    | .global =>
      match a.deny .global with
      | some n => a.fault .pageRights va n
      | none => s.checkGlobal a s.me.domid s.me.level va va
    | .own =>
      if a.badPtr || va.extractLsb' 36 12 ≠ 0 || va.extractLsb' 22 10 ≠ 0 then a.fault .poolBounds va 6
      else if 8 ≤ (va.extractLsb' 32 4).toNat || (a.w0 && va.extractLsb' 32 4 ≠ 0) then a.fault .windowFormat va 0
      else
        match a.deny .own with
        | some n => a.fault .pageRights va n
        | none =>
          let off := (va.extractLsb' 0 22).toNat
          if s.poolBarred then a.fault .domainRights va 0
          else
            match spanBad s.core off a.size (a.regions.getD (ownRegions s.me.level)) with
            | some n => a.fault .poolBounds va n
            | none => .ok (.pool s.act.core off, s)
    | .remote =>
      if va.extractLsb' 46 2 ≠ 0 || va.extractLsb' 22 10 ≠ 0 then a.fault .poolBounds va 6
      else if 8 ≤ (va.extractLsb' 32 4).toNat || (a.w0 && va.extractLsb' 32 4 ≠ 0) then a.fault .windowFormat va 0
      else
        match a.deny .remote with
        | some n => a.fault .pageRights va n
        | none =>
          let off := (va.extractLsb' 0 22).toNat
          let c := (va.extractLsb' 36 10).toNat
          if s.poolBarred then a.fault .domainRights va 0
          else if !s.remoteOk c then a.fault .domainRights va 1
          else
            match spanBad (s.getCore c) off a.size (a.regions.getD [1, 3]) with
            | some n => a.fault .poolBounds va n
            | none => do
              let s ← if a.noRoute then .ok s else s.routeTo s.act.core c
              .ok (.pool c off, s)
    | .window =>
      match a.deny .window with
      | some n => a.fault .pageRights va n
      | none =>
        let off := (va.extractLsb' 0 48).toNat
        match s.me.frames with
        | f :: _ =>
          if s.me.noWindow then a.fault .gateWindow va 0
          else if f.glen.toNat < off + a.size then a.fault .gateWindow va 1
          else
            let target := f.gbase + BitVec.ofNat 64 off
            if target.toNat % a.align ≠ 0 then a.fault .misaligned va 0
            else if classOf target ≠ .global then a.fault .pageNotPresent va 1
            else s.checkGlobal a f.caller s.me.level target va
        | [] => a.fault .gateWindow va 0

/-! ### Pointer operands (R177) -/

/-- The address that a pointer use forms, with a displacement. -/
def ptrAddr (p disp : Word) : Word :=
  if ptrAw p then 0xFFFC#16 ++ 0#9 ++ (p + disp).extractLsb' 0 39
  else 0xFFFE#16 ++ 0#12 ++ p.extractLsb' 32 4 ++ 0#10 ++ (p + disp).extractLsb' 0 22

/-- Whether a pointer with aw = 0 has a non-zero bit that must be zero. -/
def ptrBad (p : Word) : Bool := !ptrAw p && (p.extractLsb' 36 3 != 0 || p.extractLsb' 22 10 != 0)

/-! ### Counting messages (R401) -/

/-- Adds to the counts of a launch at a core. -/
def Core.count (k : Core) (launch sent recv : Nat) : Core :=
  match k.counts.find? (fun c => c.launch = launch) with
  | some _ =>
    { k with counts := k.counts.map (fun c =>
        if c.launch = launch then { c with sent := c.sent + BitVec.ofNat 64 sent, recv := c.recv + BitVec.ofNat 64 recv } else c) }
  | none => { k with counts := k.counts ++ [⟨launch, BitVec.ofNat 64 sent, BitVec.ofNat 64 recv⟩] }

/-- One message of a launch sent at one core and received at another. -/
def State.countMsg (s : State) (launch src dst : Nat) : State :=
  (s.modCore src (fun k => k.count launch 1 0)).modCore dst (fun k => k.count launch 0 1)

/-! ### Performing accesses -/

/-- Changes a core's pool. -/
def Core.modPool (k : Core) (f : Mem → Mem) : Core := { k with pool := f k.pool }

/-- The words of region S that a span touches. -/
def spanWords (off n : Nat) : List Nat := (List.range ((off + n + 7) / 8 - off / 8)).map (fun i => (off / 8 + i) * 8)

/-- Sets the full bits of the words that a span touches (R188). -/
def Core.setFull (k : Core) (off n : Nat) : Core :=
  { k with full := k.full ++ (spanWords off n).filter (fun w => regionOf k w = 1 && !k.full.contains w) }

/-! ### Sound and sealed pool bytes (R213, R382) -/

/-- Where the eight frame slots of a core begin: 20 KiB below its park area (R213). -/
def Core.frameBase (k : Core) : Nat := k.pb1.toNat * 65536 - 86016

/-- Where the park area of a core begins: the highest 64 KiB of region R (R63). -/
def Core.parkBase (k : Core) : Nat := k.pb1.toNat * 65536 - 65536

/-- Whether two spans of bytes meet. -/
def meets (a n b m : Nat) : Bool := a < b + m && b < a + n

/-- Whether a span of a pool holds sealed bytes: those of frame slots and park slots. -/
def Core.sealed (k : Core) (off n : Nat) : Bool := meets off n k.frameBase (k.pb1.toNat * 65536 - k.frameBase)

/-- Breaks the seals of the frames of a thread that lie in its two frame slots, where a span meets them. -/
def Thread.tamper (t : Thread) (base off n : Nat) : Thread :=
  { t with frames := t.frames.zipIdx.map (fun e : Frame × Nat =>
      if e.2 < 2 && meets off n (base + (t.frames.length - 1 - e.2) % 2 * 2560) 2560 then { e.1 with intact := false } else e.1) }

/-- A write to sealed bytes breaks the seals it meets: thread t's frames of odd and even depth lie in slots 2t + 1 and 2t, and the saves
outside the save ring lie in park slots in the order they were made (log entry 69). -/
def Core.tamper (k : Core) (off n : Nat) : Core :=
  if !k.sealed off n then k
  else
    let slots := (k.parked.filter (fun p => !p.inRing)).zipIdx.filter (fun e => meets off n (k.parkBase + 4096 * e.2) 4096)
    { k with
      threads := Vector.ofFn (fun i : Fin 4 => k.threads[i].tamper (k.frameBase + 5120 * i.val) off n)
      parked := k.parked.map (fun p : Parked => if slots.any (fun e => e.1 = p) then { p with intact := false } else p) }

/-- Writes bytes to a core's pool: a word that is written whole holds no error any more. -/
def Core.putAt (k : Core) (off : Nat) (bs : List (Nat × Byte)) : Core :=
  { k with
    pool := memWriteAt k.pool off bs
    worn := k.worn.filter (fun w => !(List.range 8).all (fun i => bs.any (fun b => off + b.1 = w + i))) }

/-- The check of R382 on pool bytes that are read, site 2. -/
def State.soundPool (s : State) (c off n : Nat) : Ex Unit :=
  faultIf ((s.getCore c).worn.any (fun w => meets off n w 8)) (flt .integrity 2)

/-- The same check on parts of a span: the bytes of inactive lanes are not read (R197). -/
def State.soundParts (s : State) (c off : Nat) (parts : List (Nat × Nat)) : Ex Unit :=
  faultIf (parts.any (fun p => (s.getCore c).worn.any (fun w => meets (off + p.1) p.2 w 8))) (flt .integrity 2)

/-! ### Posted messages -/

/-- The words of a pool that a message writes. -/
def Msg.words (m : Msg) : List Nat :=
  match m.op with
  | .store bs => (bs.map (fun b => (m.off + b.1) / 8 * 8)).eraseDups
  | .reduce _ _ _ => [m.off / 8 * 8]

/-- Whether a message reads what it writes. -/
def Msg.reads (m : Msg) : Bool :=
  match m.op with
  | .store _ => false
  | .reduce _ _ _ => true

/-- A message that is returned to its sender stays until its REMOTE_ACCESS raises the fault (R273). -/
def State.returnMsg (s : State) (m : Msg) (f : Flt) : State :=
  { s with msgs := s.msgs ++ [{ m with refused := some f }] }.post (.remoteAccess m.id)

/-- The fault of a posted write whose packet is refused with a verdict (R273). -/
def netFault (v : Word) : Flt := { verdictFault v with info := 0#32 ++ 0xB#4 ++ v.extractLsb' 0 28 }

/-- The fault of an access to a marked word (R346); `reg` is the register field that named the address. DEDUCED (log entry 66): raised by a lane
of a vector access it carries no lane index, and neither does INTEGRITY. -/
def markFault (va : Word) (reg : Nat) : Flt := fltAt .handleStore va (BitVec.ofNat 64 (0x40 + reg))

/-- The bytes of a number, lowest first, with their places from i on. -/
def placed (i : Nat) : Nat → Nat → List (Nat × Byte)
  | 0, _ => []
  | n + 1, v => (i, BitVec.ofNat 8 v) :: placed (i + 1) n (v / 256)

/-- Applies a posted message that has left `msgs` to its target's pool (R185): one that a router refuses is returned (R273), one that
reaches a core of another owner, or one being scrubbed, has no effect. DESIGN CHOICE (log entry 70): a reduction of a word that holds an error
is returned with INTEGRITY (R382). One that names a marked word is returned with R346's HANDLE_STORE, but no run comes to that: it was checked
when it was posted, and PUTH marks a word once the messages that name it have come (`State.putHandle`). -/
def State.applyMsg (s : State) (m : Msg) : State :=
  match s.pathBad m.owner m.path with
  | some v => s.returnMsg m (netFault v)
  | none =>
    let k := s.getCore m.dst
    if !(k.valid && k.owner = m.owner && k.scrub.isNone) then s.modCore m.dst (fun k => k.count m.launch 0 1)
    else
      match m.words.find? (fun w => k.marks.contains w) with
      | some w => s.returnMsg m (markFault (m.at_.1 - BitVec.ofNat 64 m.off + BitVec.ofNat 64 w) m.at_.2)
      | none =>
        if m.reads && k.worn.any (fun w => m.words.any (fun x => meets x 8 w 8)) then s.returnMsg m (flt .integrity 2)
        else
          let s := s.modCore m.dst (fun k => k.count m.launch 0 1)
          match m.op with
          | .store bs => s.modCore m.dst (fun k => k.putAt m.off bs)
          | .reduce op t v =>
            s.modCore m.dst (fun k => k.putAt m.off (placed 0 (t.width / 8) (redApply op t (memRead k.pool m.off (t.width / 8)) v)))

/-- Delivers the posted messages that a test names, in order. -/
def State.deliverMsgs (s : State) (f : Msg → Bool) : State :=
  let (mine, rest) := s.msgs.partition (fun m => m.refused.isNone && f m)
  mine.foldl (fun s m => s.applyMsg m) { s with msgs := rest }

/-- Delivers the posted messages from one core to another, in order, ahead of a later access. -/
def State.drainTo (s : State) (src dst : Nat) : State := s.deliverMsgs (fun m => m.src = src && m.dst = dst)

/-- Posts a message (R185); its delivery is a REMOTE_ACCESS step. `at_` are the address and the register field that named it. -/
def State.postMsg (s : State) (dst off : Nat) (op : MsgOp) (at_ : Word × Nat) : State :=
  let (id, s) := s.newId
  let t := s.me
  let m : Msg := ⟨id, s.act.core, t.cont, t.launch, s.core.owner, t.depth, t.domid, dst, off, op,
    s.pathTo s.act.core dst, at_, none, []⟩
  let s := s.modCore s.act.core (fun k => k.count t.launch 1 0)
  { s with msgs := s.msgs ++ [m] }.post (.remoteAccess id)

/-- Counts an access of a message to another core's pool, with its reply. -/
def State.remoteSent (s : State) (dst : Nat) : State :=
  (s.countMsg s.me.launch s.act.core dst).account [some (44 + coreDie dst)]

/-! ### The queue at a router port (R394) -/

/-- Whether what an item of a core's port stands for still exists. -/
def State.portLive (s : State) (c : Nat) (x : PortItem) : Bool :=
  match x with
  | .msg id => s.msgs.any (fun m => m.id = id && m.refused.isNone)
  | .fill id => s.fills.any (fun f => f.id = id)
  | .word id => s.streams.any (fun y => y.id = id && !y.words.isEmpty)
  | .command core id => (s.getCore core).cmds.any (fun y => y.id = id && !y.done)
  | .request cont => s.cores.any (fun e =>
      (e.2.threads.toList ++ e.2.parked.map Parked.th).any (fun t => t.cont = cont &&
        (match t.wait.map WaitRec.kind with | some (.port d _) => d = c | _ => false)))

/-- The items of a core's port that still stand for something. -/
def State.portOf (s : State) (c : Nat) : List PortItem := (s.getCore c).port.filter (s.portLive c)

/-- Whether a core's port holds back what arrives. -/
def State.portShut (s : State) (c : Nat) : Bool := (s.getCore c).dbg.halted || !(s.portOf c).isEmpty

/-- The step of the item at the head of a core's port; a request has none. -/
def State.portStep (s : State) (c : Nat) : Option Instr :=
  match (s.portOf c).head? with
  | some (.msg id) => some (.remoteAccess id)
  | some (.fill id) => some (.groupFill id)
  | some (.word id) => some (.streamWordArrival id)
  | some (.command core id) => ((s.getCore core).cmds.find? (fun y => y.id = id)).map (fun y => .commandStart core y.eng)
  | some (.request _) => none
  | none => none

/-- The parked continuations that can go on at a core's port: the one whose request heads it while the core is not halted, and, where it
has room, those whose requests have found none (R64, R394). -/
def State.wakePort (s : State) (c : Nat) : State :=
  let k := s.getCore c
  let l := s.portOf c
  let head := !k.dbg.halted && l.head?.isSome
  let room := decide (64 * l.length < Config.portBytes)
  s.mapCores (fun _ x => x.wakeIf s.cycle (fun t =>
    (head && l.head? = some (.request t.cont)) ||
      (room && !l.contains (.request t.cont) && (match t.wait.map WaitRec.kind with | some (.port d _) => d = c | _ => false))))

/-- The item at the head of a core's port comes next: its step is posted, or the continuation whose request it is can go on. -/
def State.portKick (s : State) (c : Nat) : State :=
  match s.portStep c with
  | some i => s.post i
  | none => s.wakePort c

/-- The turn of an item that reaches a core: the state in which it acts, once it heads the port of a core that is not halted or finds
that port empty; none while it must queue. -/
def State.portTurn (s : State) (c : Nat) (x : PortItem) : Option State :=
  if (s.getCore c).dbg.halted then none
  else
    match s.portOf c with
    | [] => some s
    | y :: r => if y = x then some ((s.modCore c (fun k => { k with port := r })).portKick c) else none

/-- The turn of what a core sends another core, behind its posted messages to that core (R353). -/
def State.turnAt (s : State) (src dst : Nat) (x : PortItem) : Option State :=
  if s.portShut dst then s.portTurn dst x else some (s.drainTo src dst)

/-- The check of R382 on a line that is read. -/
def State.soundLine (s : State) (cell : Nat) : Ex Unit :=
  match s.bad.find? (fun e => e.1 = lineOf cell) with
  | some e => raise (flt .integrity (e.2.setWidth 64))
  | none => .ok ()

/-- A line taken by the executing core: other cores lose it, and with `own` it is held exclusively. -/
def State.takeLine (s : State) (cell : Nat) (own : Bool) : State :=
  let c := s.act.core
  let l := lineOf cell
  let rest := s.excl.filter (fun e => e.2 != l || (e.1 = c && !own))
  { s with excl := if own then (c, l) :: rest else rest }

/-- Whether a release on a word of a span of another core's pool is not complete at scope P yet (R311, R366): messages that the core sent
before it stand in the way. -/
def State.unreleased (s : State) (c off n : Nat) : Bool :=
  c ≠ s.act.core && s.msgs.any (fun m => m.src = c && m.refused.isNone && m.holds.any (fun w => meets w 8 off n))

/-- A read of n bytes of another core's pool waits until the releases on its words are complete at scope P, so that nothing that their
values order is seen before them (R311, R361, R367). -/
def State.acquireSpan (s : State) (c off n : Nat) : Ex Unit := if s.unreleased c off n then .error (.hold none) else .ok ()

/-- The acquire of a take of a word of a core (R311). -/
def State.acquireWord (s : State) (c off : Nat) : Ex Unit := s.acquireSpan c off 8

/-- The request of an access to another core's pool: a router may refuse it (R273), and the packet then counts as sent and as returned
(R401); it waits in the queue at the port of a core that is halted, or whose queue has not drained (R394), and where that is empty the
core's posted messages come first (R353). -/
def State.request (s : State) (c : Nat) (parks : Bool) : Ex State :=
  match s.pathBad s.core.owner (s.pathTo s.act.core c) with
  | some v => .error (.faultIn (s.modCore s.act.core (fun k => k.count s.me.launch 1 1)) (verdictFault v))
  | none =>
    match s.turnAt s.act.core c (.request s.me.cont) with
    | some s => .ok s
    | none => .error (.hold (some (.port c parks)))

/-- A check whose fault leaves the state that stands: what the access has sent is counted, and what came back accounted (R401, R406). -/
def State.keep {α : Type} (s : State) (x : Ex α) : Ex α :=
  match x with
  | .error (.fault f) => .error (.faultIn s f)
  | r => r

/-- Reads n bytes at a checked place, of which an instruction accesses the given parts. The sealed bytes of region R read as ciphertext,
which is not determined (R213). -/
def State.read (s : State) (pl : Place) (n : Nat) (parts : List (Nat × Nat) := [(0, n)]) : Ex (Nat × State) :=
  match pl with
  | .cell cell uc pa => do
    (s.account (destsOf pa uc)).keep (s.soundLine cell)
    let s := s.recall (lineOf cell)
    let s := if uc then s else s.takeLine cell false
    .ok (s.bytesAt cell n, s.account (destsOf pa uc))
  | .pool c off =>
    if c = s.act.core then do
      s.soundParts c off parts
      if s.core.sealed off n then .ok (s.free % 256 ^ n, s.spent) else .ok (memRead s.core.pool off n, s)
    else do
      s.acquireSpan c off n
      let s ← s.request c false
      (s.remoteSent c).keep (s.soundParts c off parts)
      .ok (memRead (s.getCore c).pool off n, s.remoteSent c)

/-- A line that bytes cover whole, from a cell on, takes a tag and check bits that match them (R298, R382). -/
def State.mend (s : State) (cell : Nat) (bs : List (Nat × Byte)) : State :=
  { s with bad := s.bad.filter (fun e => !(List.range 128).all (fun i => bs.any (fun b => cell + b.1 = e.1 + i))) }

/-- The same for n bytes from a cell on. -/
def State.mendSpan (s : State) (cell n : Nat) : State :=
  { s with bad := s.bad.filter (fun e => e.1 < cell || cell + n < e.1 + 128) }

/-- Writes bytes in a line: it is held exclusively afterwards, and monitors see the write. -/
def State.writeCell (s : State) (cell : Nat) (uc : Bool) (bs : List (Nat × Byte)) : State :=
  let s := (s.recall (lineOf cell)).mend cell bs
  let s := if uc then s else s.takeLine cell true
  (s.putAt uc cell bs).hitLine (lineOf cell)

/-- One past the last place of bytes. -/
def extent (bs : List (Nat × Byte)) : Nat := bs.foldl (fun n b => max n (b.1 + 1)) 0

/-- Writes bytes to the executing core's own pool. -/
def State.putPool (s : State) (off : Nat) (bs : List (Nat × Byte)) : State :=
  s.modCore s.act.core (fun k => (k.putAt off bs).tamper off (extent bs))

/-- Writes bytes at a checked place; a store to another core's pool is posted (R185), as is one to host memory over PCIe, which has no
reply (R288, R406). `at_` are the address and the register field that named it. -/
def State.writeAt (s : State) (pl : Place) (bs : List (Nat × Byte)) (at_ : Word × Nat) : State :=
  match pl with
  | .cell cell uc pa =>
    if paSpace cell = 4 then s.writeCell cell uc bs else (s.writeCell cell uc bs).account (destsOf pa uc)
  | .pool c off => if c = s.act.core then s.putPool off bs else s.postMsg c off (.store bs) at_

/-- Writes the low n bytes of v at a checked place. -/
def State.write (s : State) (pl : Place) (n v : Nat) (at_ : Word × Nat) : State := s.writeAt pl (placed 0 n v) at_

/-- Whether a message is one of the executing thread, or an older one of its core to the same target (R353). -/
def State.ahead (s : State) (m : Msg) : Bool :=
  m.src = s.act.core && s.msgs.any (fun x => x.src = m.src && x.cont = s.me.cont && x.dst = m.dst && m.id ≤ x.id)

/-- The release part of an access or a fence: at a scope beyond the core, the thread's posted messages are
performed first (R366), with those they follow; those to a halted core wait (R394). -/
def State.release (s : State) (sc : Scope) : Ex State :=
  match sc with
  | .t | .c => .ok s
  | _ =>
    if s.msgs.any (fun m => m.refused.isNone && s.ahead m && s.portShut m.dst) then .error (.hold (some .fence))
    else .ok (s.deliverMsgs s.ahead)

/-- Whether a continuation of another core stands in the deferred list of a word of a core. -/
def State.awaited (s : State) (c off : Nat) : Bool :=
  let k := s.getCore c
  k.deferred.any (fun e => e.off = off && (k.runner e.cont).isNone && !k.parked.any (fun p => p.th.cont = e.cont))

/-- The release of a full/empty operation on a word of the own pool (R311). With a taker on another core it acts at scope P. Otherwise it
acts at scope C and waits for no agent outside the core (R359); the messages that queue at a halted core then hold up any other core's
take of that word (`Msg.holds`). -/
def State.releaseOwn (s : State) (off : Nat) : Ex State :=
  if s.awaited s.act.core off then s.release .p
  else
    let s := s.deliverMsgs (fun m => s.ahead m && !s.portShut m.dst)
    .ok { s with msgs := s.msgs.map (fun m => if m.refused.isNone && s.ahead m then { m with holds := m.holds ++ [off] } else m) }

/-- Reads and writes in one step (R320): `f` gives the new value, none for no write. -/
def State.update (s : State) (pl : Place) (n : Nat) (f : Nat → Option Nat) : Ex (Nat × State) :=
  match pl with
  | .cell cell uc pa => do
    (s.account (destsOf pa uc)).keep (s.soundLine cell)
    let s := s.recall (lineOf cell)
    let old := s.bytesAt cell n
    let s := if uc then s else s.takeLine cell true
    let s := match f old with
      | some v => (s.putBytes uc cell n v).hitLine (lineOf cell)
      | none => if uc then s else s.loseLine (lineOf cell) (fun c => c != s.act.core)
    .ok (old, s.account (destsOf pa uc))
  | .pool c off =>
    if c = s.act.core then do
      s.soundPool c off n
      let old := memRead s.core.pool off n
      match f old with
      | some v => .ok (old, s.putPool off (placed 0 n v))
      | none => .ok (old, s)
    else do
      s.acquireSpan c off n
      let s ← s.request c false
      (s.remoteSent c).keep (s.soundPool c off n)
      let old := memRead (s.getCore c).pool off n
      let s := match f old with
        | some v => s.modCore c (fun k => k.putAt off (placed 0 n v))
        | none => s
      .ok (old, s.remoteSent c)

/-! ### Marked words (R346) -/

/-- The check of a write against marked words; `reg` is the register field that names the address. -/
def State.unmarked (s : State) (pl : Place) (va : Word) (reg : Nat) (parts : List (Nat × Nat)) : Ex Unit :=
  match pl with
  | .cell _ _ _ => .ok ()
  | .pool c off =>
    match ((parts.map (fun p => spanWords (off + p.1) p.2)).flatten).find? (fun w => (s.getCore c).marks.contains w) with
    | some w => raise (markFault (va - BitVec.ofNat 64 off + BitVec.ofNat 64 w) reg)
    | none => .ok ()

/-! ### Data matches of the debug module (R396) -/

/-- Acts on a completed access by each match register that applies; `parts` are the places and sizes of the bytes
accessed, from the address on. -/
def State.dataMatch (s : State) (va : Word) (write : Bool) (parts : List (Nat × Nat)) : State :=
  if classOf va ≠ .global then s
  else
    (List.range 4).foldl (fun s n =>
      let k := s.core
      let m := (k.dbg.m[n]?).getD ⟨0, none⟩
      let kind := (m.val.extractLsb' 62 2).toNat
      let hit := (kind = 3 || (kind = 2 && write)) && m.val.getLsbD (57 + s.act.thr.toNat) &&
        m.owner = some (s.domain s.me.domid).owner && parts.any (fun p =>
          let w := (m.val.extractLsb' 3 54).toNat
          (va.toNat + p.1) / 8 ≤ w && w ≤ (va.toNat + p.1 + p.2 - 1) / 8)
      if !hit then s
      else if m.val.getLsbD 61 then
        s.hold s.act.core s.act.thr (fltAt .debugStop va (BitVec.ofNat 64 (n * 4096)))
      else
        (s.modCore s.act.core (fun k => { k with dbg := { k.dbg with
          request := some 5, hit := BitVec.ofNat 2 n, thread := s.act.thr } })).post (.debugStop s.act.core)) s

/-! ### Reading records with the thread's rights -/

/-- Reads n words at an address of any class with the thread's rights; a data match looks at each (R396). -/
def State.readWords (s : State) (deny : AClass → Option Nat) (va : Word) : Nat → Ex (List Word × State)
  | 0 => .ok ([], s)
  | n + 1 => do
    let (pl, s) ← s.check { size := 8, align := 8, deny := deny } va
    let (x, s) ← s.read pl 8
    let (r, s) ← (s.dataMatch va false [(0, 8)]).readWords deny (va + 8) n
    .ok (BitVec.ofNat 64 x :: r, s)

end Sys2Proof.Machine
end

