-- ==== Sys2Proof/Machine/Operands.lean ====
section
/-! DEFINITION. Operand forms that several families share: sources of the scalar forms, branch targets
(R77), lanes and masks of the vector forms (R158, R159), and pointer operands (R96, R97, R177). -/

namespace Sys2Proof.Machine

/-! ### Scalar shapes -/

/-- Both sources, in the order a, b. -/
def Thread.rd2 (t : Thread) (a b : R) : Ex (Word × Word) := do
  let x ← t.rdG a
  let y ← t.rdG b
  .ok (x, y)

/-- gd := f(ga, gb). -/
def alu3 (d a b : R) (f : Word → Word → Word) (s : State) : Outcome :=
  onThread (fun t => do
    let (x, y) ← t.rd2 a b
    t.wrG d (f x y)) s

/-- gd := f(ga). -/
def alu2 (d a : R) (f : Word → Word) (s : State) : Outcome :=
  onThread (fun t => do
    let x ← t.rdG a
    t.wrG d (f x)) s

/-- gd := f of three sources, read in the order given: forms that read gd as well (R119, R122, R123). -/
def alu4 (d i j k : R) (f : Word → Word → Word → Word) (s : State) : Outcome :=
  onThread (fun t => do
    let (x, y) ← t.rd2 i j
    let z ← t.rdG k
    t.wrG d (f x y z)) s

/-- The low n bits of v, sign-extended (sext of R87). -/
def sext {n : Nat} (v : BitVec n) : Word := v.signExtend 64

/-- A target of formats B and J: here + 2 × displacement (R77). -/
def State.target {n : Nat} (s : State) (off : BitVec n) : Word := s.here + 2 * sext off

/-! ### Lanes (R158) -/

/-- Lane i of width w. -/
def lane (x : VReg) (w i : Nat) : Nat := x.toNat / 2 ^ (w * i) % 2 ^ w

/-- The register whose lanes 0 to n − 1 of width w are given. -/
def ofLanes (w n : Nat) (f : Nat → Nat) : VReg :=
  BitVec.ofNat 512 ((List.range n).foldr (fun i acc => f i % 2 ^ w + 2 ^ w * acc) 0)

/-- Lanes of a type. -/
def lanesOf (t : VType) : Nat := 512 / t.width

/-- The lane mask of an instruction: all lanes for mk = 0, else g(24 + mk) (R159). -/
def Thread.maskOf (t : Thread) (sel : BitVec 3) : Ex Word :=
  if sel = 0 then .ok (BitVec.allOnes 64) else t.rdG (24 + sel.setWidth 5)

/-- A register with the active lanes replaced (R159). -/
def blend (old : VReg) (w : Nat) (mask : Word) (f : Nat → Nat) : VReg :=
  ofLanes w (512 / w) (fun i => if mask.getLsbD i then f i else lane old w i)

/-- Writes the active lanes of vd (R159). -/
def Thread.vec1 (t : Thread) (d : R) (m : VCtl) (w : Nat) (f : Nat → Nat) : Ex Thread := do
  let mask ← t.maskOf m.sel
  .ok (t.wrV d (blend (t.rdV d) w mask f))

/-- vd := f lane by lane of va. -/
def lanes1 (d a : R) (w : Nat) (m : VCtl) (f : Nat → Nat) (s : State) : Outcome :=
  onThread (fun t => t.vec1 d m w (fun i => f (lane (t.rdV a) w i))) s

/-- vd := f lane by lane of va and vb. -/
def lanes2 (d a b : R) (w : Nat) (m : VCtl) (f : Nat → Nat → Nat) (s : State) : Outcome :=
  onThread (fun t => t.vec1 d m w (fun i => f (lane (t.rdV a) w i) (lane (t.rdV b) w i))) s

/-- vd := f lane by lane of va, vb and vc. -/
def lanes3 (d a b c : R) (w : Nat) (m : VCtl) (f : Nat → Nat → Nat → Nat) (s : State) : Outcome :=
  onThread (fun t => t.vec1 d m w
    (fun i => f (lane (t.rdV a) w i) (lane (t.rdV b) w i) (lane (t.rdV c) w i))) s

/-- The active lanes of a register in ascending order (R168). -/
def activeLanes (x : VReg) (t : VType) (mask : Word) : List Nat :=
  ((List.range (lanesOf t)).filter (fun i => mask.getLsbD i)).map (fun i => lane x t.width i)

/-- A lane code as a word: sign-extended for I types, else zero-extended. -/
def laneWord (t : VType) (x : Nat) : Word := if typeSigned t then BitVec.ofInt 64 (typeVal t x) else BitVec.ofNat 64 x

end Sys2Proof.Machine
end

