-- ==== Sys2Proof/Machine/Flags.lean ====
section
/-! DEFINITION. Conditions. The machine has no status flags (R110, R146): a condition is computed where it is
used, by a compare (R113, R166), a branch (R129) or an atomic minimum and maximum (R320). -/

namespace Sys2Proof.Machine

/-- The smaller as I64. -/
def minI (x y : Word) : Word := if x.slt y then x else y
/-- The larger as I64. -/
def maxI (x y : Word) : Word := if x.slt y then y else x
/-- The smaller as N64. -/
def minN (x y : Word) : Word := if x.ult y then x else y
/-- The larger as N64. -/
def maxN (x y : Word) : Word := if x.ult y then y else x

/-- Conditions of VCMP on lane codes, by type (R166). -/
def condHolds (c : Cond) (t : VType) (x y : Nat) : Bool :=
  let a := typeVal t x
  let b := typeVal t y
  match c with
  | .eq => a = b
  | .ne => a ≠ b
  | .lt => a < b
  | .le => a ≤ b
  | .gt => b < a
  | .ge => b ≤ a

/-- Conditions of VFCMP (R166): a NaN makes all false but NE and UN. -/
def fcondHolds (c : FCond) (x y : FVal) : Bool :=
  if x = .nan ∨ y = .nan then c = .ne || c = .un
  else
    let o := FVal.cmp x y
    match c with
    | .eq => o = .eq
    | .ne => o ≠ .eq
    | .lt => o = .lt
    | .le => o ≠ .gt
    | .gt => o = .gt
    | .ge => o ≠ .lt
    | .un => false
    | .or => true

end Sys2Proof.Machine
end

