-- ==== Sys2Proof/Machine/LoadStore.lean ====
section
/-! DEFINITION. Loads, stores, window decode, monitors and cache maintenance, majors 0x28 to 0x2C, 0x58, 0x59
and 0x5B (spec/09_fed_pool_memory.md R192-R203). -/

namespace Sys2Proof.Machine

/-! ### Scalar loads and stores (R193-R195) -/

/-- A loaded value, zero- or sign-extended. -/
def extend (n : Nat) (signed : Bool) (x : Nat) : Word :=
  if signed then BitVec.ofInt 64 (asSigned (8 * n) x) else BitVec.ofNat 64 x

/-- A load of n bytes into gd. -/
def State.loadTo (s : State) (d : R) (va : Word) (n : Nat) (signed bad : Bool) : Ex State := do
  let (pl, s) ← s.check { size := n, align := n, badPtr := bad } va
  let (x, s) ← s.read pl n
  let t ← s.me.wrG d (extend n signed x)
  .ok ((s.setMe t).dataMatch va false [(0, n)])

/-- A store of the low n bytes of gd; `reg` is the register field that names the address. DESIGN CHOICE (log entry 79): HANDLE_STORE of a marked
word comes before that of a handle-tagged gd, since R194 and R346 do not order them. -/
def State.storeFrom (s : State) (d : R) (va : Word) (n : Nat) (bad : Bool) (reg : Nat) : Ex State := do
  let (pl, s) ← s.check { write := true, size := n, align := n, badPtr := bad } va
  s.unmarked pl va reg [(0, n)]
  let y ← s.me.rdStored d
  .ok ((s.write pl n y.toNat (va, reg)).dataMatch va true [(0, n)])

/-- The displacement of format B in bytes. -/
def dispB (off : BitVec 16) : Word := 2 * sext off

/-- A load form of major 0x28; an acquire orders later accesses, which follow it in any case. -/
def loadForm (n : Nat) (signed : Bool) (d a : R) (_o : LdOrd) (off : BitVec 16) (s : State) : Outcome :=
  settle s (do
    let b ← s.me.rdG a
    let s ← s.loadTo d (b + dispB off) n signed false
    .ok s.fell)

/-- The release part of a store. -/
def State.stOrder (s : State) (o : StOrd) : Ex State :=
  match o with
  | .rlx => .ok s
  | .rel sc => s.release sc

/-- A store form of major 0x29. -/
def storeForm (n : Nat) (d a : R) (o : StOrd) (off : BitVec 16) (s : State) : Outcome :=
  settle s (do
    let b ← s.me.rdG a
    let s ← s.stOrder o
    let s ← s.storeFrom d (b + dispB off) n false a.toNat
    .ok s.fell)

/-- LD8. -/
def execLd8 (d a : R) (o : LdOrd) (off : BitVec 16) (s : State) : Outcome := loadForm 1 false d a o off s
/-- LD16. -/
def execLd16 (d a : R) (o : LdOrd) (off : BitVec 16) (s : State) : Outcome := loadForm 2 false d a o off s
/-- LD32. -/
def execLd32 (d a : R) (o : LdOrd) (off : BitVec 16) (s : State) : Outcome := loadForm 4 false d a o off s
/-- LD64. -/
def execLd64 (d a : R) (o : LdOrd) (off : BitVec 16) (s : State) : Outcome := loadForm 8 false d a o off s
/-- LDS8. -/
def execLds8 (d a : R) (o : LdOrd) (off : BitVec 16) (s : State) : Outcome := loadForm 1 true d a o off s
/-- LDS16. -/
def execLds16 (d a : R) (o : LdOrd) (off : BitVec 16) (s : State) : Outcome := loadForm 2 true d a o off s
/-- LDS32. -/
def execLds32 (d a : R) (o : LdOrd) (off : BitVec 16) (s : State) : Outcome := loadForm 4 true d a o off s
/-- ST8. -/
def execSt8 (d a : R) (o : StOrd) (off : BitVec 16) (s : State) : Outcome := storeForm 1 d a o off s
/-- ST16. -/
def execSt16 (d a : R) (o : StOrd) (off : BitVec 16) (s : State) : Outcome := storeForm 2 d a o off s
/-- ST32. -/
def execSt32 (d a : R) (o : StOrd) (off : BitVec 16) (s : State) : Outcome := storeForm 4 d a o off s
/-- ST64. -/
def execSt64 (d a : R) (o : StOrd) (off : BitVec 16) (s : State) : Outcome := storeForm 8 d a o off s

/-- Bytes and sign of a load size. -/
def ldBytes : LdSize → Nat × Bool
  | .z8 => (1, false) | .z16 => (2, false) | .z32 => (4, false) | .z64 => (8, false)
  | .s8 => (1, true) | .s16 => (2, true) | .s32 => (4, true)

/-- Bytes of a store size. -/
def stBytes : StSize → Nat
  | .z8 => 1 | .z16 => 2 | .z32 => 4 | .z64 => 8

/-- LDA. -/
def execLda (d : R) (p : P) (sz : LdSize) (post : Bool) (s : State) : Outcome :=
  settle s (do
    let w := s.me.rdP p
    let s ← s.loadTo d (ptrAddr w 0) (ldBytes sz).1 (ldBytes sz).2 (ptrBad w)
    .ok (s.modMe (fun t => t.bump p post)).fell)
/-- STA. -/
def execSta (d : R) (p : P) (sz : StSize) (post : Bool) (s : State) : Outcome :=
  settle s (do
    let w := s.me.rdP p
    let s ← s.storeFrom d (ptrAddr w 0) (stBytes sz) (ptrBad w) p.toNat
    .ok (s.modMe (fun t => t.bump p post)).fell)

/-! ### Vector loads and stores (R196, R197) -/

/-- The lanes of width w that a mask makes active. -/
def maskLanes (w : Nat) (mask : Word) : List Nat := (List.range (512 / w)).filter (fun i => mask.getLsbD i)

/-- Places and sizes of the active lanes of a line. -/
def laneParts (w : Nat) (mask : Word) : List (Nat × Nat) := (maskLanes w mask).map (fun i => (i * (w / 8), w / 8))

/-- The access of the active lanes of a 64-byte line: none for no active lane. The span checked ends with
the highest active lane. -/
def State.checkLine (s : State) (write bad : Bool) (w : Nat) (mask va : Word) : Ex (Option Place × State) :=
  match (maskLanes w mask).getLast? with
  | none =>
    if va.toNat % 64 ≠ 0 then raise (fltAt .misaligned va (if write then 1 else 0))
    else .ok (none, s)
  | some i => do
    let (pl, s) ← s.check { write := write, size := (i + 1) * (w / 8), align := 64, badPtr := bad } va
    .ok (some pl, s)

/-- A vector load of the line at an address. -/
def State.loadLine (s : State) (d : R) (va : Word) (bad : Bool) (w : Nat) (m : VCtl) : Ex State := do
  let mask ← s.me.maskOf m.sel
  match ← s.checkLine false bad w mask va with
  | (none, s) => .ok s
  | (some pl, s) => do
    let (x, s) ← s.read pl 64 (laneParts w mask)
    .ok ((s.modMe (fun t => t.wrV d (blend (t.rdV d) w mask (lane (BitVec.ofNat 512 x) w)))).dataMatch va false
      (laneParts w mask))

/-- The bytes of the active lanes of a register, with their places. -/
def laneBytes (x : VReg) (w : Nat) (mask : Word) : List (Nat × Byte) :=
  ((maskLanes w mask).map (fun i => placed (i * (w / 8)) (w / 8) (lane x w i))).flatten

/-- A vector store to the line at an address. -/
def State.storeLine (s : State) (d : R) (va : Word) (bad : Bool) (w : Nat) (m : VCtl) (reg : Nat) : Ex State := do
  let mask ← s.me.maskOf m.sel
  match ← s.checkLine true bad w mask va with
  | (none, s) => .ok s
  | (some pl, s) => do
    s.unmarked pl va reg (laneParts w mask)
    .ok ((s.writeAt pl (laneBytes (s.me.rdV d) w mask) (va, reg)).dataMatch va true (laneParts w mask))

/-- VLD. -/
def execVld (d a : R) (off : BitVec 16) (t : VType) (m : VCtl) (_o : LdOrd) (s : State) : Outcome :=
  settle s (do
    let b ← s.me.rdG a
    let s ← s.loadLine d (b + sext off) false t.width m
    .ok s.fell)
/-- VST. -/
def execVst (d a : R) (off : BitVec 16) (t : VType) (m : VCtl) (o : StOrd) (s : State) : Outcome :=
  settle s (do
    let b ← s.me.rdG a
    let s ← s.stOrder o
    let s ← s.storeLine d (b + sext off) false t.width m a.toNat
    .ok s.fell)
/-- VLDA. -/
def execVlda (d : R) (p : P) (off : BitVec 16) (post : Bool) (t : VType) (m : VCtl) (_o : LdOrd) (s : State) : Outcome :=
  settle s (do
    let w := s.me.rdP p
    let s ← s.loadLine d (ptrAddr w (sext off)) (ptrBad w) t.width m
    .ok (s.modMe (fun t => t.bump p post)).fell)
/-- VSTA. -/
def execVsta (d : R) (p : P) (off : BitVec 16) (post : Bool) (t : VType) (m : VCtl) (o : StOrd) (s : State) : Outcome :=
  settle s (do
    let w := s.me.rdP p
    let s ← s.stOrder o
    let s ← s.storeLine d (ptrAddr w (sext off)) (ptrBad w) t.width m p.toNat
    .ok (s.modMe (fun t => t.bump p post)).fell)

/-! ### Gather and scatter (R198, R199) -/

/-- The address of a lane: base + displacement + (index << shift). -/
def laneAddr (base : Word) (idx : VReg) (shift : BitVec 2) (i : Nat) : Word :=
  base + (sext (BitVec.ofNat 32 (lane idx 32 i)) <<< shift.toNat)

/-- Checks every lane of a list before any is used. -/
def State.checkLanes (s : State) (w : Nat) (addr : Nat → Word) : List Nat → Ex (List (Nat × Place) × State)
  | [] => .ok ([], s)
  | i :: r => do
    let (pl, s) ← s.check { size := w / 8, align := w / 8, lane := some i } (addr i)
    let (l, s) ← s.checkLanes w addr r
    .ok ((i, pl) :: l, s)

/-- Reads the lanes of a list. -/
def State.readLanes (s : State) (w : Nat) (addr : Nat → Word) : List (Nat × Place) → Ex (List (Nat × Nat) × State)
  | [] => .ok ([], s)
  | (i, pl) :: r => do
    let (x, s) ← s.read pl (w / 8)
    let (l, s) ← (s.dataMatch (addr i) false [(0, w / 8)]).readLanes w addr r
    .ok ((i, x) :: l, s)

/-- VGATH. DESIGN CHOICE (log entry 79): an uncorrectable error is found once every lane has passed the checks of R182, so that a fault of a higher
lane is reported before the INTEGRITY of a lower one. -/
def execVgath (d a b : R) (shift : BitVec 2) (off : BitVec 16) (t : GType) (m : VCtl) (_o : LdOrd) (s : State) : Outcome :=
  settle s (do
    let x ← s.me.rdG a
    let mask ← s.me.maskOf m.sel
    let w := t.toV.width
    let addr := laneAddr (x + sext off) (s.me.rdV b) shift
    let (pls, s) ← s.checkLanes w addr (maskLanes w mask)
    let (vals, s) ← s.readLanes w addr pls
    .ok (s.modMe (fun t => t.wrV d (blend (t.rdV d) w mask (fun i => getKey i 0 vals)))).fell)

/-- Sets VRESUME. -/
def State.setVresume (s : State) (n : Nat) : State :=
  s.modMe (fun t => { t with sys := { t.sys with vresume := BitVec.ofNat 64 n } })

/-- Runs a lane operation over the lanes of a list in order; at the first lane that faults or waits, VRESUME is
that lane and what the lanes before it did stands (R199, R327). -/
def State.perLane (s : State) (f : State → Nat → Ex State) : List Nat → State × Option Stop
  | [] => (s.setVresume 0, none)
  | i :: r =>
    match f s i with
    | .ok s' => s'.perLane f r
    | .error (.faultIn s' e) => (s'.setVresume i, some (.fault e))
    | .error e => (s.setVresume i, some e)

/-- The end of an instruction that works lane by lane. -/
def settleLanes (r : State × Option Stop) : Outcome :=
  match r with
  | (s, none) => .next s.fell
  | (s, some (.fault f)) => .next (s.trap f)
  | (_, some (.faultIn s f)) => .next (s.trap f)
  | (s, some (.hold w)) => .next (s.waits w)

/-- The active lanes from VRESUME on. -/
def Thread.lanesFrom (t : Thread) (w : Nat) (mask : Word) : List Nat :=
  (maskLanes w mask).filter (fun i => t.sys.vresume.toNat ≤ i)

/-- VSCAT. -/
def execVscat (d a b : R) (shift : BitVec 2) (off : BitVec 16) (t : GType) (m : VCtl) (o : StOrd) (s : State) : Outcome :=
  match (do
    let x ← s.me.rdG a
    let mask ← s.me.maskOf m.sel
    let s ← s.stOrder o
    .ok (x, mask, s) : Ex (Word × Word × State)) with
  | .error e => settle s (.error e)
  | .ok (x, mask, s) =>
    let w := t.toV.width
    let addr := laneAddr (x + sext off) (s.me.rdV b) shift
    let v := s.me.rdV d
    settleLanes (s.perLane (fun s i => do
      let (pl, s) ← s.check { write := true, size := w / 8, align := w / 8, lane := some i } (addr i)
      s.unmarked pl (addr i) a.toNat [(0, w / 8)]
      .ok ((s.write pl (w / 8) (lane v w i) (addr i, a.toNat)).dataMatch (addr i) true [(0, w / 8)])) (s.me.lanesFrom w mask))

/-! ### Window decode (R190, R191, R200) -/

/-- Element types of the windows W1 to W7. -/
def windowType (w : Nat) : Option VType :=
  [none, some VType.e2m1, some .e4m3, some .e5m2, some .bf16, some .fp16, some .fp32, some .i8].getD w none

/-- Bytes of a scaled block: 16 for E2M1, 32 for the 8-bit formats. -/
def blockBytes (t : VType) : Nat := if t = .e2m1 then 16 else 32

/-- Whether a format is scaled by block. -/
def isScaled (t : VType) : Bool := t = .e2m1 || t = .e4m3 || t = .e5m2

/-- Start of region S. -/
def Core.sBase (k : Core) : Nat := k.pb1.toNat * 65536

/-- Start of region M. -/
def Core.mBase (k : Core) : Nat := k.pb3.toNat * 65536

/-- The pool offset of the scale entry of the block that holds offset o (R191). -/
def Core.entryAt (k : Core) (t : VType) (o : Nat) : Nat := k.mBase + 2 * ((o - k.sBase) / blockBytes t)

/-- The first region out of place in a decode of a span: elements outside S, then entries outside M (R191). -/
def Core.decodeBad (k : Core) (t : VType) (o n : Nat) : Option Nat :=
  match spanBad k o n [1] with
  | some r => some r
  | none =>
    if isScaled t then spanBad k (k.entryAt t o) (k.entryAt t (o + n - 1) + 2 - k.entryAt t o) [3] else none

/-- The value of element i of a span that starts at pool offset o, decoded with its block's entry (R149). -/
def Core.element (k : Core) (t : VType) (o i : Nat) : FVal :=
  let w := t.width
  let byte := o + i * w / 8
  let code := if w = 4 then (memGet k.pool byte).toNat / (if i % 2 = 0 then 1 else 16) % 16 else memRead k.pool byte (w / 8)
  let entry := if isScaled t then memRead k.pool (k.entryAt t byte) 2 else 127
  blockVal t code entry

/-- The check of R382 on the elements of a span and the entries of its blocks. -/
def State.soundElements (s : State) (t : VType) (o n : Nat) : Ex Unit := do
  s.soundPool s.act.core o n
  if isScaled t then s.soundPool s.act.core (s.core.entryAt t o) (s.core.entryAt t (o + n - 1) + 2 - s.core.entryAt t o)

/-- VLDW. -/
def execVldw (d : R) (p : P) (off : BitVec 16) (post : Bool) (t : FType) (m : VCtl) (s : State) : Outcome :=
  onThread (fun th => do
    let ptr := th.rdP p
    let va := ptrAddr ptr (sext off)
    match (if ptrAw ptr then none else windowType (ptrWindow ptr)) with
    | none => raise (if ptrBad ptr then fltAt .poolBounds va 0x60 else fltAt .windowFormat va 0)
    | some wt =>
      let o := ptrOffset va
      let n := 512 / fwidthOf t * wt.width / 8
      faultIf (o % n ≠ 0) (fltAt .misaligned va 0)
      faultIf (ptrBad ptr) (fltAt .poolBounds va 0x60)
      faultIf s.poolBarred (fltAt .domainRights va 0)
      match s.core.decodeBad wt o n with
      | some r => raise (fltAt .poolBounds va (BitVec.ofNat 64 (16 * r)))
      | none =>
        s.soundElements wt o n
        let th ← th.vec1 d m (fwidthOf t) (fun i => (floatOf t).round .rn (s.core.element wt o i))
        .ok (th.bump p post)) s
where
  /-- Lane width of the result. -/
  fwidthOf (t : FType) : Nat := (floatOf t).width

/-! ### Monitors (R201, R202) -/

/-- The codes of the classes that an instruction on global memory alone does not take. -/
def globalOnly : AClass → Option Nat
  | .global => none
  | _ => some 1

/-- The code of an uncached page where a cacheable one is needed: space 4 is always uncached (R179). -/
def cacheable (leaf : Word) (space : Nat) : Option Nat := if leaf.getLsbD 61 || space = 4 then some 1 else none

/-- WATCH. -/
def execWatch (d a : R) (slot : Bool) (s : State) : Outcome :=
  settle s (do
    let va ← s.me.rdG a
    let (pl, s) ← s.check { size := 8, align := 8, deny := globalOnly, prop := cacheable } va
    let (x, s) ← s.read pl 8
    let line := match pl with | .cell c _ _ => lineOf c | .pool _ _ => 0
    let t ← s.me.wrG d (BitVec.ofNat 64 x)
    let w := some ⟨line, false⟩
    let t := { t with watch := if slot then t.watch.set 1 w else t.watch.set 0 w }
    .ok ((s.setMe t).dataMatch va false [(0, 8)]).fell)

/-- Whether a slot is armed and has recorded a hit. -/
def watchHit (w : Option Watch) : Bool := match w with | some w => w.hit | none => false

/-- WSLEEP's result, none while it sleeps: [1:0] the hits, [3] no slot was armed, [2] the limit passed. -/
def Thread.sleepEnd (t : Thread) : Option Word :=
  let h0 := watchHit (t.watch[0])
  let h1 := watchHit (t.watch[1])
  if h0 || h1 then some (bit h0 ||| (bit h1 <<< 1))
  else if t.watch.all (fun w => w.isNone) then some 8
  else
    match t.wait with
    | some ⟨.sleep _, .done, _, _⟩ => some 4
    | _ => none

/-- WSLEEP. -/
def execWsleep (d a : R) (s : State) : Outcome :=
  settle s (do
    let limit ← s.me.rdG a
    s.me.freeG d
    match s.me.sleepEnd with
    | none => .error (.hold (some (.sleep limit)))
    | some r =>
      let t ← s.me.wrG d r
      .ok (s.setMe { t with watch := t.watch.map (fun w => if watchHit w then none else w) }).fell)

/-- WSLEEP_LIMIT: the limit of a sleeping WSLEEP has passed while its continuation was resident. -/
def execWsleepLimit (core thr : Nat) (s : State) : Outcome :=
  .next (s.modThread core (BitVec.ofNat 2 thr) (fun t =>
    match t.wait with
    | some ⟨.sleep limit, .no, since, resident⟩ =>
      if limit ≠ 0 ∧ limit.toNat ≤ resident then { t with wait := some ⟨.sleep limit, .done, since, resident⟩ } else t
    | _ => t))

/-! ### Prefetch and cache maintenance (R203) -/

/-- The cell and the physical address that a prefetch reaches, if its address does not fail. -/
def State.prefetchable (s : State) (va : Word) (write : Bool) : Option (Nat × Nat × State) :=
  match s.check { write := write, size := 1, align := 1, deny := globalOnly, prop := cacheable } va with
  | .ok (.cell c _ pa, s) => some (c, pa, s)
  | _ => none

/-- Brings the line of a cell into the L1, its reply accounted (R203, R406). -/
def State.prefetch (s : State) (c pa : Nat) (own : Bool) : State :=
  ((s.recall (lineOf c)).takeLine c own).account (destsOf pa false)

/-- PF: an address that fails does nothing (R203); log entry 75 says so of an exclusive page, which R329 lets fault. -/
def execPf (a : R) (s : State) : Outcome :=
  settle s (do
    let va ← s.me.rdG a
    match s.prefetchable va false with
    | some (c, pa, s) => .ok (s.prefetch c pa false).fell
    | none => .ok s.fell)
/-- PFX. -/
def execPfx (a : R) (s : State) : Outcome :=
  settle s (do
    let va ← s.me.rdG a
    match s.prefetchable va false with
    | none => .ok s.fell
    | some (c, pa, s1) =>
      match s.prefetchable va true with
      | some (c, pa, s) => .ok ((s.prefetch c pa true).loseLine (lineOf c) (fun k => k != s.act.core)).fell
      | none => .ok (s1.prefetch c pa false).fell)

/-- Combines U copies of a line and writes its dirty halves back. -/
def State.cleanLine (s : State) (cell : Nat) : State :=
  let l := lineOf cell
  let s := s.recall l
  if paSpace cell = 3 then (s.writeBack l).writeBack (l + 64) else s

/-- The line of CLEAN and INVAL; an aperture address does nothing. -/
def State.maintain (s : State) (va : Word) : Ex (Option Nat × State) :=
  match classOf va with
  | .global => do
    let (pl, s) ← s.check { size := 1, align := 1 } va
    match pl with
    | .cell c _ _ => .ok (some c, s)
    | .pool _ _ => .ok (none, s)
  | .none => raise (fltAt .pageNotPresent va 0x10)
  | _ => .ok (none, s)

/-- CLEAN. -/
def execClean (a : R) (s : State) : Outcome :=
  settle s (do
    let va ← s.me.rdG a
    match ← s.maintain va with
    | (some c, s) => .ok (s.cleanLine c).fell
    | (none, s) => .ok s.fell)
/-- INVAL: every monitor of the line loses its tag. -/
def execInval (a : R) (s : State) : Outcome :=
  settle s (do
    let va ← s.me.rdG a
    match ← s.maintain va with
    | (some c, s) =>
      let l := lineOf c
      let s := s.cleanLine c
      .ok (({ s with excl := s.excl.filter (fun e => e.2 != l) }).hitLine l).fell
    | (none, s) => .ok s.fell)

end Sys2Proof.Machine
end

