-- ==== Sys2Proof/Machine/Sync.lean ====
section
/-! DEFINITION. Full/empty words and their deferred lists, semaphores and phase barriers
(spec/15_synchronised.md R306-R318; spec/16_synchronised_handles.md R345, R346). -/

namespace Sys2Proof.Machine

/-! ### Completing a waiting instruction from outside its thread (R64, R310) -/

/-- Records what has come of a waiting thread. -/
def Thread.serve (t : Thread) (v : Served) : Thread := { t with wait := t.wait.map (fun w => { w with served := v }) }

/-- Whether a thread waits on something that a test names. -/
def Thread.waitsOn (t : Thread) (f : WaitKind → Bool) : Bool :=
  match t.wait with
  | some w => f w.kind
  | none => false

/-- Records what has come of the waiting instruction of a continuation, wherever it runs or is parked, when it waits on something that a
test names. -/
def State.completeWhen (s : State) (f : WaitKind → Bool) (cont : Nat) (v : Served) : State :=
  s.mapCores (fun _ k => { k with
    threads := k.threads.map (fun t => if (t.run.map Cont.id) = some cont && t.waitsOn f then t.serve v else t)
    parked := k.parked.map (fun p =>
      if (p.th.run.map Cont.id) = some cont && p.th.waitsOn f then
        { p with th := p.th.serve v, resumable := true, stamp := if p.resumable then p.stamp else s.cycle }
      else p) })

/-- Records what has come of the waiting instruction of a continuation, whatever it waits on. -/
def State.completeFor (s : State) (cont : Nat) (v : Served) : State := s.completeWhen (fun _ => true) cont v

/-- The number of the executing continuation; 0 for none. -/
def State.cont (s : State) : Nat := (s.me.run.map Cont.id).getD 0

/-! ### Trellis entries (R331) -/

/-- The key of an entry of a die. -/
def entryKey (die : Nat) (e : BitVec 16) : Nat := die * 65536 + e.toNat

/-- A Trellis entry of a die. -/
def State.entry (s : State) (die : Nat) (e : BitVec 16) : TEntry := getKey (entryKey die e) freeEntry s.trellis

/-- Changes a Trellis entry. -/
def State.modEntry (s : State) (die : Nat) (e : BitVec 16) (f : TEntry → TEntry) : State :=
  { s with trellis := putKey (entryKey die e) (f (s.entry die e)) s.trellis }

/-- The entry that a handle value names (R330). -/
def handleEntry (v : Word) : BitVec 16 := v.extractLsb' 48 16

/-- The generation in a handle value. -/
def handleGen (v : Word) : BitVec 8 := v.extractLsb' 40 8

/-- Makes resumable the parked continuations that wait for transfers through entries that have none left. -/
def State.wakeHandles (s : State) : State :=
  s.mapCores (fun _ k => k.wakeIf s.cycle (fun t => match t.wait.map WaitRec.kind with
    | some (.handle die l) => l.all (fun e => (s.entry die e).pending.isEmpty)
    | _ => false))

/-- The transfer of a command has completed: it counts no longer against the entry it went through, nor against those that were split
from that entry meanwhile (R339). -/
def State.transferDone (s : State) (id : Nat) : State :=
  { s with trellis := s.trellis.map (fun x : Nat × TEntry => (x.1, { x.2 with pending := x.2.pending.filter (fun n => n != id) })) }.wakeHandles

/-- What the end of a command that is removed or complete does to the Trellis. -/
def State.cmdOver (s : State) (x : Cmd) : State :=
  match x.op with
  | .hcpyOut _ _ _ _ => s.transferDone x.id
  | _ => s

/-! ### Entries that are freed or lost (R332, R348) -/

/-- Frees an entry; its generation and the transfers that are still pending through it stay. -/
def State.freeEntryAt (s : State) (die : Nat) (n : BitVec 16) : State :=
  s.modEntry die n (fun e => { freeEntry with gen := e.gen, pending := e.pending })

/-- An entry becomes lost: with a lost sibling both are freed and the parent becomes lost; a root is freed. -/
def State.lose (s : State) (die : Nat) (n : BitVec 16) : Nat → State
  | 0 => s
  | fuel + 1 =>
    let e := s.entry die n
    if e.parent = n then s.freeEntryAt die n
    else if (s.entry die e.sibling).state = .lost then
      ((s.freeEntryAt die n).freeEntryAt die e.sibling).lose die e.parent fuel
    else s.modEntry die n (fun e => { e with state := .lost, word := none })

/-- The Lodge reclaims the handle that a register or a park slot holds (R348). -/
def State.reclaim (s : State) (die : Nat) (v : Word) : State :=
  let n := handleEntry v
  let e := s.entry die n
  if e.state = .held && e.gen = handleGen v then s.lose die n 65536 else s

/-- Reclaims the handles of a register file. -/
def State.reclaimRegs (s : State) (die : Nat) (g : GFile) : State :=
  g.toList.foldl (fun s r => if r.tag = .handle then s.reclaim die r.val else s) s

/-- Reclaims the handle that a served TAKEH has delivered. -/
def State.reclaimServed (s : State) (die : Nat) (t : Thread) : State :=
  match t.wait.map WaitRec.served with
  | some (.handle v) => s.reclaim die v
  | _ => s

/-! ### Full/empty bits -/

/-- The value of a word of a pool. -/
def Core.word (k : Core) (off : Nat) : Word := BitVec.ofNat 64 (memRead k.pool off 8)

/-- Sets or clears a full bit; the change is an event of the core (R139). -/
def State.feSet (s : State) (c off : Nat) (b : Bool) : State :=
  s.modCore c (fun k =>
    let rest := k.full.filter (fun w => w != off)
    ({ k with full := if b then rest ++ [off] else rest }).event s.cycle)

/-- Performs the posted messages that name a word of a core, with those that each of them follows (R353). -/
def State.drainWord (s : State) (c off : Nat) : State :=
  let here := s.msgs.filter (fun m => m.dst = c && m.refused.isNone && m.words.contains off)
  s.deliverMsgs (fun m => m.dst = c && here.any (fun x => x.src = m.src && m.id ≤ x.id))

/-- Marks a word that holds a handle, full, with its entry in-word (R345); a write that was posted to the word before comes before (R346). -/
def State.putHandle (s : State) (c off : Nat) (v : Word) (die : Nat) : State :=
  let s := s.drainWord c off
  let s := (s.modCore c (fun k => { k.putAt off (placed 0 8 v.toNat) with marks := k.marks ++ [off] })).feSet c off true
  s.modEntry die (handleEntry v) (fun e => { e with state := .inWord, word := some (c, off) })

/-- Empties a marked word, its entry held again. -/
def State.takeHandle (s : State) (c off : Nat) (v : Word) : State :=
  let s := (s.modCore c (fun k => { k with marks := k.marks.filter (fun w => w != off) })).feSet c off false
  s.modEntry (coreDie c) (handleEntry v) (fun e => { e with state := .held, word := none })

/-- The register that holds a handle gives it up (R93). -/
def Thread.giveHandle (t : Thread) (v : Word) : Thread :=
  { t with g := t.g.map (fun r => if r.tag = .handle && r.val = v then ⟨0, .movedFrom⟩ else r) }

/-- The PUTH of a continuation is served: the register that held its handle is moved from, wherever the continuation is (R345). -/
def State.handleGone (s : State) (cont : Nat) (v : Word) : State :=
  s.mapCores (fun _ k => { k with
    threads := k.threads.map (fun t => if (t.run.map Cont.id) = some cont then t.giveHandle v else t)
    parked := k.parked.map (fun p => if (p.th.run.map Cont.id) = some cont then { p with th := p.th.giveHandle v } else p) })

/-- The marks that a core can hold (R346). -/
abbrev maxMarks : Nat := 64

/-- Whether a word of a core's pool reads without an error (R382). -/
def Core.wordSound (k : Core) (off : Nat) : Bool := !k.worn.any (fun w => meets off 8 w 8)

/-- What an entry that takes the value of a word is served with. -/
def Core.wordValue (k : Core) (off : Nat) : Served :=
  if k.wordSound off then .value (k.word off) else .fault (flt .integrity 2)

/-- Serves the deferred list of a word until its oldest entry cannot be served (R308, R345). -/
def serveLoop : Nat → Nat → Nat → State → State
  | 0, _, _, s => s
  | fuel + 1, c, off, s =>
    let k := s.getCore c
    match k.deferred.find? (fun e => e.off = off) with
    | none => s
    | some e =>
      let s' := s.modCore c (fun k => { k with deferred := k.deferred.erase e })
      let v := k.word off
      let marked := k.marks.contains off
      let mismatch := (s'.completeFor e.cont (.fault (flt .handleMismatch 6)))
      if k.full.contains off then
        match e.kind with
        | .ldf => serveLoop fuel c off (s'.completeFor e.cont (k.wordValue off))
        | .take =>
          if marked then serveLoop fuel c off mismatch
          else if !k.wordSound off then serveLoop fuel c off (s'.completeFor e.cont (k.wordValue off))
          else serveLoop fuel c off ((s'.feSet c off false).completeFor e.cont (.value v))
        | .takeh =>
          if !marked then serveLoop fuel c off mismatch
          else if !k.wordSound off then serveLoop fuel c off (s'.completeFor e.cont (k.wordValue off))
          else if (s.entry (coreDie c) (handleEntry v)).domain ≠ e.dom then
            serveLoop fuel c off (s'.completeFor e.cont (.fault (flt .domainRights 0)))
          else serveLoop fuel c off ((s'.takeHandle c off v).completeFor e.cont (.handle v))
        | .put _ => s
        | .puth _ _ => s
      else
        match e.kind with
        | .put u =>
          serveLoop fuel c off (((s'.modCore c (fun k => k.putAt off (placed 0 8 u.toNat))).feSet c off true).completeFor
            e.cont .done)
        | .puth u die =>
          if maxMarks ≤ k.marks.length then s
          else serveLoop fuel c off (((s'.putHandle c off u die).handleGone e.cont u).completeFor e.cont .done)
        | .ldf => s
        | .take => s
        | .takeh => s

/-- The entries of a core's deferred lists (R308). -/
abbrev maxDeferred : Nat := 256

/-- Lets the parked continuations that wait for a free entry of a core's deferred lists go on once there is one (R308, R65). -/
def State.wakeRoom (s : State) (c : Nat) : State :=
  if maxDeferred ≤ (s.getCore c).deferred.length then s
  else s.mapCores (fun _ k => k.wakeIf s.cycle (fun t => t.waitsOn (fun x => x = .room c)))

/-- Serves a word whose bit has changed; a mark that this frees may serve the PUTH of another word. -/
def State.serve (s : State) (c off : Nat) : State :=
  let n := (s.getCore c).deferred.length
  ((off :: (s.getCore c).deferred.map DefEntry.off).foldl (fun s o => serveLoop (n + 1) c o s) s).wakeRoom c

/-! ### The full/empty instructions (R306-R311) -/

/-- The access of a full/empty instruction (R307). -/
def feAcc (write : Bool) : Acc :=
  { write := write, size := 8, align := 8, w0 := true, regions := some [1],
    deny := fun c => match c with | .global => some 2 | .window => some 2 | _ => none }

/-- The core and offset of the word that a full/empty instruction names. -/
def State.feWord (s : State) (va : Word) (write : Bool) : Ex ((Nat × Nat) × State) := do
  let (pl, s) ← s.check (feAcc write) va
  match pl with
  | .pool c off => .ok ((c, off), s)
  | .cell _ _ _ => (feAcc write).fault .pageRights va 2

/-- What comes before a request reaches its bank: one to another core goes by its port, where a waiting instruction parks
(`State.request`), and is counted. -/
def State.feReach (s : State) (c : Nat) (parks : Bool) : Ex State :=
  if c = s.act.core then .ok s
  else do
    let s ← s.request c parks
    .ok (s.remoteSent c)

/-- The release part of a full/empty operation on a word of a core (R311): within the core at scope C, else at scope P. -/
def State.releaseWord (s : State) (c off : Nat) : Ex State := if c = s.act.core then s.releaseOwn off else s.release .p

/-- Whether the executing continuation already stands in a word's deferred list. -/
def State.queuedAt (s : State) (c off : Nat) : Bool :=
  (s.getCore c).deferred.any (fun e => e.off = off && e.cont = s.cont)

/-- Appends an entry and waits; while none is free a local request waits unqueued, and a remote one is held at the core's router port
(R308). -/
def State.feQueue (s : State) (c off : Nat) (k : DefKind) : Ex State :=
  if maxDeferred ≤ (s.getCore c).deferred.length then .error (.hold (some (if c = s.act.core then .room c else .port c true)))
  else .ok ((s.modCore c (fun x => { x with deferred := x.deferred ++ [⟨off, k, s.cont, s.me.domid⟩] })).waits
    (some (.word c off)))

/-- The fault of a request that the bank withdrew; a HANDLE_MISMATCH names the register (R333). -/
def withdrawnFault (f : Flt) (d : R) : Flt :=
  if f.cause = .handleMismatch then { f with info := f.info ||| (d.setWidth 64 <<< 8) } else f

/-- What has come of the executing thread's wait on a full/empty word. -/
def State.wordServed (s : State) : Served :=
  match s.me.wait with
  | some ⟨.word _ _, v, _, _⟩ => v
  | _ => .no

/-- TAKE and LDF; `keep` leaves the word full. From another core they come to the bank once the releases on the word are complete (R311). -/
def takeForm (keep : Bool) (d a : R) (s : State) : Outcome :=
  settle s (do
    match s.wordServed with
    | .value v => do
      let t ← s.me.wrG d v
      .ok (s.setMe t).fell
    | .fault f => raise (withdrawnFault f d)
    | _ => do
      let va ← s.me.rdG a
      let ((c, off), s) ← s.feWord va false
      s.me.freeG d
      if !keep then s.unmarked (.pool c off) va a.toNat [(0, 8)]
      if s.queuedAt c off then .error (.hold (some (.word c off)))
      s.acquireWord c off
      let s ← s.feReach c true
      if (s.getCore c).full.contains off then do
        s.keep (s.soundPool c off 8)
        let t ← s.me.wrG d ((s.getCore c).word off)
        let s := (s.setMe t).fell
        .ok (if keep then s else (s.feSet c off false).serve c off)
      else s.feQueue c off (if keep then .ldf else .take))

/-- TAKE. -/
def execTake (d a : R) (s : State) : Outcome := takeForm false d a s
/-- LDF. -/
def execLdf (d a : R) (s : State) : Outcome := takeForm true d a s

/-- TAKEN: gb is written after gd. -/
def execTaken (d a b : R) (s : State) : Outcome :=
  settle s (do
    let va ← s.me.rdG a
    let ((c, off), s) ← s.feWord va false
    s.me.freeG d
    s.me.freeG b
    s.unmarked (.pool c off) va a.toNat [(0, 8)]
    s.acquireWord c off
    let s ← s.feReach c false
    if (s.getCore c).full.contains off then do
      s.keep (s.soundPool c off 8)
      let t := (s.me.setG d ((s.getCore c).word off)).setG b 1
      .ok (((s.setMe t).fell.feSet c off false).serve c off)
    else .ok (s.modMe (fun t => t.setG b 0)).fell)

/-- Fills an empty word and serves its list. -/
def State.fillWord (s : State) (c off : Nat) (v : Word) : State :=
  ((s.modCore c (fun k => k.putAt off (placed 0 8 v.toNat))).feSet c off true).serve c off

/-- PUT: a release of the thread's earlier accesses. -/
def execPut (a b : R) (s : State) : Outcome :=
  settle s (do
    match s.wordServed with
    | .done => .ok s.fell
    | .fault f => raise f
    | _ => do
      let va ← s.me.rdG a
      let ((c, off), s) ← s.feWord va true
      let v ← s.me.rdStored b
      if s.queuedAt c off then .error (.hold (some (.word c off)))
      let s ← s.releaseWord c off
      let s ← s.feReach c true
      if (s.getCore c).full.contains off then s.feQueue c off (.put v)
      else .ok (s.fell.fillWord c off v))

/-- PUTN. -/
def execPutn (d a b : R) (s : State) : Outcome :=
  settle s (do
    let va ← s.me.rdG a
    let ((c, off), s) ← s.feWord va true
    s.me.freeG d
    let v ← s.me.rdStored b
    let s ← s.releaseWord c off
    let s ← s.feReach c false
    if (s.getCore c).full.contains off then .ok (s.modMe (fun t => t.setG d 0)).fell
    else .ok ((s.modMe (fun t => t.setG d 1)).fell.fillWord c off v))

/-- SETF. -/
def execSetf (a : R) (s : State) : Outcome :=
  settle s (do
    let va ← s.me.rdG a
    let ((c, off), s) ← s.feWord va true
    s.unmarked (.pool c off) va a.toNat [(0, 8)]
    let s ← s.releaseWord c off
    let s ← s.feReach c false
    if (s.getCore c).full.contains off then .ok s.fell
    else .ok ((s.fell.feSet c off true).serve c off))

/-- SETE. -/
def execSete (a : R) (s : State) : Outcome :=
  settle s (do
    let va ← s.me.rdG a
    let ((c, off), s) ← s.feWord va true
    s.unmarked (.pool c off) va a.toNat [(0, 8)]
    let s ← s.feReach c false
    if (s.getCore c).full.contains off then .ok ((s.fell.feSet c off false).serve c off)
    else .ok s.fell)

/-- Whether an entry waits for a full word. -/
def DefKind.takes : DefKind → Bool
  | .take | .ldf | .takeh => true
  | .put _ | .puth _ _ => false

/-- QTAG. -/
def execQtag (d a : R) (s : State) : Outcome :=
  settle s (do
    let va ← s.me.rdG a
    let ((c, off), s) ← s.feWord va false
    s.me.freeG d
    let s ← s.feReach c false
    let k := s.getCore c
    let here := k.deferred.filter (fun e => e.off = off)
    let arrival := s.streams.any (fun x => x.waiting && x.dstCore = c && x.dstOff + 8 * (x.arrived % x.n) = off)
    let v := bit (k.full.contains off) ||| (bit (here.any (fun e => e.kind.takes)) <<< 1) |||
      (bit (here.any (fun e => !e.kind.takes) || arrival) <<< 2)
    .ok (s.modMe (fun t => t.setG d v)).fell)

/-! ### Semaphores (R312-R314) -/

/-- A semaphore. -/
def Core.sem (k : Core) (i : BitVec 8) : Nat := (k.sems[i.toNat]'i.isLt).toNat

/-- Sets a semaphore. -/
def Core.setSem (k : Core) (i : BitVec 8) (v : Nat) : Core :=
  { k with sems := k.sems.set i.toNat (BitVec.ofNat 16 v) i.isLt }

/-- Pitch of the vectors of x of an SGEMV (R244). -/
def xPitch (x : SgemvX) : Nat := ((x.ncols.toNat + 1) * 32 * (if x.xfp32 then 4 else 2) + 127) / 128 * 128

/-- The oldest waiter of a semaphore. -/
def Core.semHead (k : Core) (i : BitVec 8) : Option SemWait := k.semq.find? (fun w => w.k = i)

/-- A command starts; an SGEMV is sent to its stack, with its x (R227, R245), and an uncorrectable error in x stops it (R229, R382). -/
def State.startCmd (s : State) (c id : Nat) : State :=
  match (s.getCore c).cmds.find? (fun x => x.id = id) with
  | none => s
  | some x =>
    let k := s.getCore c
    let (sent, fault) : List Byte × Option Flt := match x.op with
      | .sgemv _ _ xo _ _ w =>
        let n := (w.nvec.toNat + 1) * xPitch w
        (memBytes k.pool xo n,
          (k.worn.find? (fun e => meets xo n e 8)).map (fun e => fltAt .integrity (BitVec.ofNat 64 (0xFFFE * 2 ^ 48 + max xo e)) 0))
      | _ => ([], none)
    let s := s.modCore c (fun k => { k with cmds := k.cmds.map (fun x =>
      if x.id = id then { x with running := true, sent := sent, fault := fault } else x) })
    (if x.eng = .grotto then { s with grotto := s.grotto ++ [(c, id)] } else s).post (.commandStart c x.eng)

/-- Whether a command waits. -/
def SemWait.isCommand (w : SemWait) : Bool :=
  match w.who with
  | .command _ => true
  | .thread _ => false

/-- Serves a semaphore's queue from its head while the head's threshold is met (R313). A command that is served
starts (R226); none is served while the core is halted (R393). -/
def semLoop : Nat → Nat → BitVec 8 → State → State
  | 0, _, _, s => s
  | fuel + 1, c, i, s =>
    let k := s.getCore c
    match k.semHead i with
    | none => s
    | some w =>
      if k.sem i < w.thr.toNat then s
      else if k.dbg.halted && w.isCommand then s
      else
        let s := s.modCore c (fun k => { k.setSem i (k.sem i - w.thr.toNat) with semq := k.semq.erase w })
        let s := match w.who with
          | .thread cont => s.completeFor cont .done
          | .command id => s.startCmd c id
        semLoop fuel c i s

/-- Serves a semaphore's queue. -/
def State.semServe (s : State) (c : Nat) (i : BitVec 8) : State :=
  semLoop ((s.getCore c).semq.length + 1) c i s

/-- Serves every semaphore of a core: after waiters have left their queues (R313). -/
def State.semServeAll (s : State) (c : Nat) : State :=
  ((s.getCore c).semq.map SemWait.k).foldl (fun s i => s.semServe c i) s

/-- Adds to a semaphore, saturating (sem_add of R87), serves its queue, and records the event (R139); answers
whether the sum exceeded 0xFFFF. -/
def State.semAdd (s : State) (c : Nat) (i : BitVec 8) (v : Nat) : Bool × State :=
  let sum := (s.getCore c).sem i + v
  (decide (0xFFFF < sum),
    (s.modCore c (fun k => (k.setSem i (min sum 0xFFFF)).event s.cycle)).semServe c i)

/-- The check of R312 on the domain. -/
def State.semAllowed (s : State) : Ex Unit := faultIf s.poolBarred (flt .domainRights 0)

/-- SWAIT. -/
def execSwait (k : BitVec 8) (v : BitVec 16) (s : State) : Outcome :=
  settle s (do
    match s.me.wait with
    | some ⟨.sem _, .done, _, _⟩ => .ok s.fell
    | _ => do
      s.semAllowed
      let c := s.core
      if c.semq.any (fun w => w.who = .thread s.cont) then .error (.hold (some (.sem k)))
      else if c.semHead k = none && v.toNat ≤ c.sem k then
        .ok (s.modCore1 (fun c => c.setSem k (c.sem k - v.toNat))).fell
      else .ok ((s.modCore1 (fun c => { c with semq := c.semq ++ [⟨k, v, .thread s.cont⟩] })).waits (some (.sem k))))

/-- SSIG. -/
def execSsig (k : BitVec 8) (v : BitVec 16) (s : State) : Outcome :=
  settle s (do
    s.semAllowed
    faultIf (decide (0xFFFF < s.core.sem k + v.toNat)) (flt .semOverflow (k.setWidth 64))
    .ok (s.fell.semAdd s.act.core k v.toNat).2)

/-- SRDK. -/
def execSrdk (d : R) (k : BitVec 8) (s : State) : Outcome :=
  settle s (do
    s.semAllowed
    let t ← s.me.wrG d (BitVec.ofNat 64 (s.core.sem k))
    .ok (s.setMe t).fell)

/-- SSETK. -/
def execSsetk (d : R) (k : BitVec 8) (s : State) : Outcome :=
  settle s (do
    s.semAllowed
    let x ← s.me.rdG d
    .ok ((s.fell.modCore1 (fun c => (c.setSem k (x.extractLsb' 0 16).toNat).event s.cycle)).semServe s.act.core k))

/-! ### Phase barriers (R315-R318) -/

/-- A barrier object's fields. -/
structure Barrier where
  phase    : BitVec 32
  parties  : Nat
  arrived  : Nat
  observed : Nat
  deriving DecidableEq, Repr

/-- The access of a barrier instruction (R316). -/
def barAcc : Acc :=
  { write := true, both := true, size := 64, align := 64, deny := globalOnly,
    prop := fun leaf space =>
      match cacheable leaf space with
      | some n => some n
      | none => if space = 0 || space = 2 then none else some 3 }

/-- Reads a barrier object. -/
def State.barrierAt (s : State) (cell : Nat) : Barrier :=
  ⟨BitVec.ofNat 32 (s.bytesAt (cell + 4) 4), s.bytesAt (cell + 2) 2, s.bytesAt cell 2, s.bytesAt (cell + 8) 2⟩

/-- Writes a barrier object's fields; the zero fields keep what they hold. -/
def State.setBarrier (s : State) (cell : Nat) (b : Barrier) : State :=
  (({ s with excl := s.excl.filter (fun e => e.2 != lineOf cell) }).putAt false cell
    (placed 0 2 b.arrived ++ placed 2 2 b.parties ++ placed 4 4 b.phase.toNat ++ placed 8 2 b.observed)).hitLine (lineOf cell)

/-- The end of a phase (R317). -/
def Barrier.endPhase (b : Barrier) : Barrier := { b with phase := b.phase + 1, arrived := 0, observed := 0 }

/-- A barrier result: its phase field and its low bits. -/
def barResult (phase : BitVec 32) (low : BitVec 4) : Word := phase ++ 0#28 ++ low

/-- BARJ: the result and the object after it, none when nothing changes. -/
def Barrier.join (b : Barrier) : Word × Option Barrier :=
  if b.parties = 0xFFFF then (barResult b.phase 8, none)
  else (barResult b.phase 0, some { b with parties := b.parties + 1, observed := (b.observed + 1) % 0x10000 })

/-- BARA. -/
def Barrier.arrive (b : Barrier) : Word × Option Barrier :=
  if b.parties = 0 then (barResult b.phase 4, none)
  else if b.observed < b.parties then (barResult b.phase 1, none)
  else
    let b' := { b with arrived := (b.arrived + 1) % 0x10000 }
    if b'.arrived = b.parties then (barResult b.phase 2, some b'.endPhase) else (barResult b.phase 0, some b')

/-- BARW once the phase has changed. -/
def Barrier.observe (b : Barrier) : Word × Option Barrier :=
  (barResult b.phase 0, some { b with observed := min (b.observed + 1) b.parties })

/-- BARL: its phase field is the phase after it. -/
def Barrier.leave (b : Barrier) : Word × Option Barrier :=
  if b.parties = 0 then (barResult b.phase 0, none)
  else
    let b' := { b with parties := b.parties - 1, observed := min b.observed (b.parties - 1) }
    if 0 < b'.parties ∧ b'.parties ≤ b.arrived then (barResult (b.phase + 1) 2, some b'.endPhase)
    else (barResult b.phase 0, some b')

/-- The cell of a barrier instruction's object and the address that names it, with U copies of its line combined. -/
def State.barrierCell (s : State) (va : Word) : Ex ((Nat × Nat) × State) := do
  let (pl, s) ← s.check barAcc va
  match pl with
  | .cell c _ pa => do
    (s.account [some (sliceOf pa)]).keep (s.soundLine c)
    .ok ((c, pa), s.recall (lineOf c))
  | .pool _ _ => barAcc.fault .pageRights va 1

/-- A barrier instruction on the object at a cell, performed by the slice that homes its address (R316); a data match looks at the fields of
the object (R396). -/
def State.barrierDo (s : State) (d : R) (va : Word) (cell pa : Nat) (f : Barrier → Word × Option Barrier) : Ex State := do
  let (v, b) := f (s.barrierAt cell)
  let t ← s.me.wrG d v
  let s := s.setMe t
  let s := match b with
    | some b => s.setBarrier cell b
    | none => s
  .ok ((s.account [some (sliceOf pa)]).dataMatch va b.isSome [(0, 10)]).fell

/-- BARJ. -/
def execBarj (d a : R) (s : State) : Outcome :=
  settle s (do
    let va ← s.me.rdG a
    let ((cell, pa), s) ← s.barrierCell va
    s.barrierDo d va cell pa Barrier.join)
/-- BARA: a release at package scope when it is accepted. -/
def execBara (d a : R) (s : State) : Outcome :=
  settle s (do
    let va ← s.me.rdG a
    let ((cell, pa), s) ← s.barrierCell va
    let s ← s.release .p
    s.barrierDo d va cell pa Barrier.arrive)
/-- Whether the executing thread waits on a barrier and a change of its phase has released it (R315, R317). -/
def State.barrierServed (s : State) : Bool :=
  match s.me.wait with
  | some ⟨.barrier _ _, .done, _, _⟩ => true
  | _ => false

/-- BARW: it waits while the phase is the one in gb; one that a change of the phase has released waits no more. -/
def execBarw (d a b : R) (s : State) : Outcome :=
  settle s (do
    let va ← s.me.rdG a
    let p ← s.me.rdG b
    let ((cell, pa), s) ← s.barrierCell va
    s.me.freeG d
    if (s.barrierAt cell).phase = p.extractLsb' 0 32 && !s.barrierServed then
      .error (.hold (some (.barrier cell (p.extractLsb' 0 32))))
    else s.barrierDo d va cell pa Barrier.observe)
/-- BARL. -/
def execBarl (d a : R) (s : State) : Outcome :=
  settle s (do
    let va ← s.me.rdG a
    let ((cell, pa), s) ← s.barrierCell va
    s.barrierDo d va cell pa Barrier.leave)

/-! ### Withdrawing a wait (R310, R219) -/

/-- Removes a continuation's entries from every deferred list and semaphore queue, its GLOAD that has not started,
its request at a port, and its wait; what stood behind its entries is then served. -/
def State.withdraw (s : State) (c : Nat) (cont : Nat) : State :=
  let unsent := (s.getCore c).cmds.filter (fun x => x.eng = .group && x.cont = cont && !x.running)
  let lists := (s.cores.filter (fun e => e.2.deferred.any (fun x => x.cont = cont))).map Prod.fst
  let ports := (s.cores.filter (fun e => e.2.port.contains (.request cont))).map Prod.fst
  let s := s.mapCores (fun _ k => { k with
    cmds := k.cmds.filter (fun x => !unsent.contains x)
    deferred := k.deferred.filter (fun e => e.cont != cont)
    semq := k.semq.filter (fun w => w.who != .thread cont && unsent.all (fun x => w.who != .command x.id))
    threads := k.threads.map (fun t => if (t.run.map Cont.id) = some cont then { t with wait := none } else t)
    parked := k.parked.map (fun p => if (p.th.run.map Cont.id) = some cont then { p with th := { p.th with wait := none } } else p) })
  let s := if unsent.isEmpty then s else s.post (.commandStart c .group)
  let s := lists.foldl (fun s d => s.serve d 0) s
  let s := ports.foldl (fun s d => if (s.getCore d).dbg.halted then s else s.portKick d) s
  s.semServeAll c

end Sys2Proof.Machine
end

