-- ==== Sys2Proof/Machine/Atomic.lean ====
section
/-! DEFINITION. Atomics, update-only reductions and vector atomics, majors 0x33, 0x34 and 0x5A
(spec/15_synchronised.md R319-R327; spec/14_fed_host_tiers.md R294-R296). -/

namespace Sys2Proof.Machine

/-! ### The operations -/

/-- The operations of R320; ACAS carries y. -/
inductive AOp where
  | add | and | or | xor | smin | smax | umin | umax | swp
  | cas (y : Nat)
  deriving DecidableEq, Repr

/-- The new value of an atomic on w bits, none for no write. -/
def AOp.apply (op : AOp) (w old x : Nat) : Option Nat :=
  match op with
  | .add => some ((old + x) % 2 ^ w)
  | .and => some (old &&& x)
  | .or => some (old ||| x)
  | .xor => some (old ^^^ x)
  | .smin => some (if asSigned w x < asSigned w old then x else old)
  | .smax => some (if asSigned w old < asSigned w x then x else old)
  | .umin => some (min old x)
  | .umax => some (max old x)
  | .swp => some x
  | .cas y => if old = x then some y else none

/-- Whether an order is a release. -/
def orderReleases : Order → Bool
  | .rel | .ar => true
  | .rlx | .acq => false

/-- The scope of an atomic or an engine command. -/
def scopeOf : XScope → Scope
  | .c => .c | .d => .d | .p => .p | .s => .s

/-- The release part of an atomic (R321). -/
def State.atOrder (s : State) (o : Order) (sc : XScope) : Ex State :=
  if orderReleases o then s.release (scopeOf sc) else .ok s

/-- The host space of a place (R294, R295): 3 or 4, else 0. -/
def hostSpace (pl : Place) : Nat :=
  match pl with
  | .cell cell _ _ => if paSpace cell = 3 ∨ paSpace cell = 4 then paSpace cell else 0
  | .pool _ _ => 0

/-! ### Scalar atomics -/

/-- Whether an atomic travels as a PCIe AtomicOp (R294). -/
def asAtomicOp (op : AOp) (t : AType) : Bool :=
  (t = .i64 || t = .n64) && (match op with | .add | .swp | .cas _ => true | _ => false)

/-- A completion of a PCIe AtomicOp: which one it will be is a free value. -/
def State.someReply (s : State) : AtomicReply :=
  ([AtomicReply.done, .unsupported, .timeout][s.free % 3]?).getD .done

/-- Waits on the completion of a PCIe AtomicOp: the first time it is sent (R294). True once it is done. -/
def State.hostAtomic (s : State) : Ex (Bool × State) :=
  match s.me.wait with
  | some ⟨.host, .done, _, _⟩ => .ok (true, s)
  | some ⟨.host, .fault f, _, _⟩ => raise f
  | some ⟨.host, _, _, _⟩ => .error (.hold (some .host))
  | _ => .ok (false, (s.spent.post (.atomicOpCompletion s.act.core s.act.thr.toNat s.someReply)).waits (some .host))

/-- The read-modify-write of an atomic at a checked place, and its end. -/
def State.atomicAt (s : State) (pl : Place) (va : Word) (op : AOp) (d a : R) (x : Nat) (t : AType) (o : Order) (sc : XScope) :
    Ex State := do
  let n := t.toV.width / 8
  s.unmarked pl va a.toNat [(0, n)]
  let s ← s.atOrder o sc
  let (old, s) ← s.update pl n (fun old => op.apply t.toV.width old x)
  let th ← s.me.wrG d (laneWord t.toV old)
  .ok ((s.setMe th).dataMatch va true [(0, n)]).fell

/-- An atomic of major 0x33; `y` gives the operation from the operand of ACAS. -/
def atomicForm (op : Nat → AOp) (d a b : R) (c : Option R) (t : AType) (o : Order) (sc : XScope) (s : State) : Outcome :=
  settle s (do
    let w := t.toV.width
    let va ← s.me.rdG a
    let x ← s.me.rdStored b
    let y ← match c with
      | some c => s.me.rdStored c
      | none => .ok 0
    s.me.freeG d
    let (pl, s) ← s.check { write := true, size := w / 8, align := w / 8 } va
    let op := op (y.toNat % 2 ^ w)
    faultIf (hostSpace pl ≠ 0 && sc ≠ .s) (s.headFault .illegalHead 1)
    if hostSpace pl = 4 then do
      faultIf (!asAtomicOp op t) (flt .atomicUnsupported 0)
      match ← s.hostAtomic with
      | (true, s) => s.atomicAt pl va op d a (x.toNat % 2 ^ w) t o sc
      | (false, s) => .ok s
    else s.atomicAt pl va op d a (x.toNat % 2 ^ w) t o sc)

/-- AADD. -/
def execAadd (d a b : R) (t : AType) (o : Order) (sc : XScope) (_ : Bool) (s : State) : Outcome :=
  atomicForm (fun _ => .add) d a b none t o sc s
/-- AAND. -/
def execAand (d a b : R) (t : AType) (o : Order) (sc : XScope) (_ : Bool) (s : State) : Outcome :=
  atomicForm (fun _ => .and) d a b none t o sc s
/-- AOR. -/
def execAor (d a b : R) (t : AType) (o : Order) (sc : XScope) (_ : Bool) (s : State) : Outcome :=
  atomicForm (fun _ => .or) d a b none t o sc s
/-- AXOR. -/
def execAxor (d a b : R) (t : AType) (o : Order) (sc : XScope) (_ : Bool) (s : State) : Outcome :=
  atomicForm (fun _ => .xor) d a b none t o sc s
/-- AMIN. -/
def execAmin (d a b : R) (t : AType) (o : Order) (sc : XScope) (_ : Bool) (s : State) : Outcome :=
  atomicForm (fun _ => .smin) d a b none t o sc s
/-- AMAX. -/
def execAmax (d a b : R) (t : AType) (o : Order) (sc : XScope) (_ : Bool) (s : State) : Outcome :=
  atomicForm (fun _ => .smax) d a b none t o sc s
/-- AMINN. -/
def execAminn (d a b : R) (t : AType) (o : Order) (sc : XScope) (_ : Bool) (s : State) : Outcome :=
  atomicForm (fun _ => .umin) d a b none t o sc s
/-- AMAXN. -/
def execAmaxn (d a b : R) (t : AType) (o : Order) (sc : XScope) (_ : Bool) (s : State) : Outcome :=
  atomicForm (fun _ => .umax) d a b none t o sc s
/-- ASWP. -/
def execAswp (d a b : R) (t : AType) (o : Order) (sc : XScope) (_ : Bool) (s : State) : Outcome :=
  atomicForm (fun _ => .swp) d a b none t o sc s
/-- ACAS. -/
def execAcas (d a b c : R) (t : AType) (o : Order) (sc : XScope) (_ : Bool) (s : State) : Outcome :=
  atomicForm .cas d a b (some c) t o sc s

/-- What a completion of a PCIe AtomicOp brings its thread. -/
def replyServed : AtomicReply → Served
  | .done => .done
  | .unsupported => .fault (flt .atomicUnsupported 0)
  | .timeout => .fault (flt .hostLinkDown 0)

/-- ATOMICOP_COMPLETION: the root complex performs the operation when the waiting instruction then completes. -/
def execAtomicOpCompletion (core thr : Nat) (reply : AtomicReply) (s : State) : Outcome :=
  .next (s.modThread core (BitVec.ofNat 2 thr) (fun t =>
    match t.wait with
    | some ⟨.host, .no, _, _⟩ => t.serve (replyServed reply)
    | _ => t))

/-! ### Update-only reductions (R322-R325) -/

/-- The code of a host space for a reduction (R295). -/
def notHost (_ : Word) (space : Nat) : Option Nat := if space = 3 || space = 4 then some 3 else none

/-- A reduction in a cacheable line of the executing core (R324): in place where its cache still holds the line exclusively, which reads it
(R382), else in a U copy. The permission for a new one is a reply from the line's slice or home (R406). -/
def State.reduceLine (s : State) (cell pa : Nat) (op : RedOp) (t : VType) (x : Nat) : Ex State :=
  let c := s.act.core
  let l := lineOf cell
  let n := t.width / 8
  let held := s.excl.contains (c, l)
  if held && s.free % 2 = 0 then do
    s.soundLine cell
    .ok ((s.spent.putBytes false cell n (redApply op t (s.bytesAt cell n) x)).hitLine l)
  else
    let s := if held then s.spent else s
    let s := if s.ucopies.any (fun u => u.line = l && (u.op != op || u.type != t)) then s.recall l else s
    let s := { s with excl := s.excl.filter (fun e => e.2 != l) }
    match s.ucopies.find? (fun u => u.core = c && u.line = l) with
    | some u =>
      let old := u.parts.find? (fun p => p.1 = cell)
      let new := match old with
        | some p => redApply op t p.2 x
        | none => x
      let parts := u.parts.filter (fun p => p.1 != cell) ++ [(cell, new)]
      .ok { s with ucopies := s.ucopies.map (fun v => if v = u then { u with parts := parts } else v) }
    | none =>
      .ok (({ s with ucopies := s.ucopies ++ [(⟨c, l, op, t, [(cell, x)]⟩ : UCopy)] }.hitLine l).account
        [some (sliceOf pa), some (homeDest pa)])

/-- A reduction at a checked place; `now` says that it is performed at once (R323), and `at_` are the address and the register field that
named it. -/
def State.reduce (s : State) (pl : Place) (now : Bool) (op : RedOp) (t : VType) (x : Nat) (at_ : Word × Nat) : Ex State :=
  match pl with
  | .pool c off =>
    if c = s.act.core then do
      let (_, s) ← s.update pl (t.width / 8) (fun old => some (redApply op t old x))
      .ok s
    else .ok (s.postMsg c off (.reduce op t x) at_)
  | .cell cell uc pa =>
    if uc || now then do
      let (_, s) ← s.update pl (t.width / 8) (fun old => some (redApply op t old x))
      .ok s
    else s.reduceLine cell pa op t x

/-- A reduction of major 0x34. -/
def reduceForm (op : RedOp) (t : VType) (a b : R) (s : State) : Outcome :=
  settle s (do
    let n := t.width / 8
    let va ← s.me.rdG a
    let x ← s.me.rdStored b
    let (pl, s) ← s.check { write := true, size := n, align := n, prop := notHost } va
    s.unmarked pl va a.toNat [(0, n)]
    let s ← s.reduce pl (classOf va = .window) op t (x.toNat % 2 ^ t.width) (va, a.toNat)
    .ok (s.dataMatch va true [(0, n)]).fell)

/-- RADD. -/
def execRadd (a b : R) (t : AType) (s : State) : Outcome := reduceForm .add t.toV a b s
/-- RAND. -/
def execRand (a b : R) (t : AType) (s : State) : Outcome := reduceForm .and t.toV a b s
/-- ROR, the reduction. -/
def execRorReduce (a b : R) (t : AType) (s : State) : Outcome := reduceForm .or t.toV a b s
/-- RXOR. -/
def execRxor (a b : R) (t : AType) (s : State) : Outcome := reduceForm .xor t.toV a b s
/-- RMIN. -/
def execRmin (a b : R) (t : AType) (s : State) : Outcome := reduceForm .min t.toV a b s
/-- RMAX. -/
def execRmax (a b : R) (t : AType) (s : State) : Outcome := reduceForm .max t.toV a b s
/-- RFADD. -/
def execRfadd (a b : R) (s : State) : Outcome := reduceForm .fadd .fp32 a b s

/-- U_COPY_EVICTION: the home combines the partials of the evicted copy at once. -/
def execUCopyEviction (core line : Nat) (s : State) : Outcome :=
  match s.ucopies.find? (fun u => u.core = core && u.line = line) with
  | some u => .next (({ s with ucopies := s.ucopies.erase u }.combine u).hitLine line)
  | none => .next s

/-! ### Vector atomics and reductions (R326, R327) -/

/-- The addition of an element type: FP32 rounds rn. -/
def addOf (t : VAType) : RedOp := if t = .fp32 then .fadd else .add

/-- A vector form of major 0x5A: `f` acts on the element at a checked place with a lane's code. -/
def laneForm (f : State → Place → Word → Nat → Nat → Ex State) (prop : Word → Nat → Option Nat) (d a b : R) (shift : BitVec 2)
    (off : BitVec 16) (t : VType) (m : VCtl) (order : State → Ex State) (s : State) : Outcome :=
  match (do
    let x ← s.me.rdG a
    let mask ← s.me.maskOf m.sel
    let s ← order s
    .ok (x, mask, s) : Ex (Word × Word × State)) with
  | .error e => settle s (.error e)
  | .ok (x, mask, s) =>
    let w := t.width
    let addr := laneAddr (x + sext off) (s.me.rdV b) shift
    let v := s.me.rdV d
    settleLanes (s.perLane (fun s i => do
      let (pl, s) ← s.check { write := true, size := w / 8, align := w / 8, lane := some i, prop := prop } (addr i)
      s.unmarked pl (addr i) a.toNat [(0, w / 8)]
      let s ← f s pl (addr i) i (lane v w i)
      .ok (s.dataMatch (addr i) true [(0, w / 8)])) (s.me.lanesFrom w mask))

/-- One lane of VAADD, VAMIN or VAMAX: an atomic, not to a host space. -/
def atomicLane (op : RedOp) (t : VType) (s : State) (pl : Place) (va : Word) (i x : Nat) : Ex State := do
  faultIf (hostSpace pl ≠ 0) (fltAt .atomicUnsupported va (BitVec.ofNat 64 (256 * i)))
  let (_, s) ← s.update pl (t.width / 8) (fun old => some (redApply op t old x))
  .ok s

/-- VAADD. -/
def execVaadd (d a b : R) (shift : BitVec 2) (off : BitVec 16) (t : VAType) (m : VCtl) (o : Order) (sc : XScope) (s : State) : Outcome :=
  laneForm (atomicLane (addOf t) t.toV) (fun _ _ => none) d a b shift off t.toV m (fun s => s.atOrder o sc) s
/-- VRADD. -/
def execVradd (d a b : R) (shift : BitVec 2) (off : BitVec 16) (t : VAType) (m : VCtl) (s : State) : Outcome :=
  laneForm (fun s pl va _ x => s.reduce pl (classOf va = .window) (addOf t) t.toV x (va, a.toNat)) notHost d a b shift off t.toV m .ok s
/-- VAMIN. -/
def execVamin (d a b : R) (shift : BitVec 2) (off : BitVec 16) (t : VAType) (m : VCtl) (o : Order) (sc : XScope) (s : State) : Outcome :=
  laneForm (atomicLane .min t.toV) (fun _ _ => none) d a b shift off t.toV m (fun s => s.atOrder o sc) s
/-- VAMAX. -/
def execVamax (d a b : R) (shift : BitVec 2) (off : BitVec 16) (t : VAType) (m : VCtl) (o : Order) (sc : XScope) (s : State) : Outcome :=
  laneForm (atomicLane .max t.toV) (fun _ _ => none) d a b shift off t.toV m (fun s => s.atOrder o sc) s

end Sys2Proof.Machine
end

