-- ==== Sys2Proof/Machine/System.lean ====
section
/-! DEFINITION. The system registers and SRD, SWR, SSET and SCLR (spec/05_issued_scalar.md R102-R109;
spec/03_placed.md R49, R58; spec/19_interrupted.md R376, R383; spec/20_retired.md R406, R407). -/

namespace Sys2Proof.Machine

/-! ### Levels (R102) -/

/-- The least level of a read. -/
def SysReg.readLevel : SysReg → Level
  | .tvec | .tcause | .tpc | .taddr | .tinfo => .guest
  | _ => .user

/-- The least level of a write; none for a dash. -/
def SysReg.writeLevel : SysReg → Option Level
  | .owner => some .maker
  | .tvec | .tcause | .tpc | .taddr | .tinfo | .wdog => some .guest
  | .vresume | .qmod | .fetchctl | .blax => some .user
  | .spbudget => some .hyper
  | .thread | .core | .domid | .ddepth | .qmu | .pb1 | .pb2 | .pb3 | .tsc | .blad => none

/-- The privilege check of a write: a dash counts as above maker (R108). -/
def State.needWrite (s : State) (r : SysReg) : Ex Unit :=
  match SysReg.writeLevel r with
  | some l => s.needLevel l
  | none => raise (fltAt .privilege s.here ((s.act.head.setWidth 64) ||| 0x30000))

/-! ### Values read -/

/-- THREAD (R103). -/
def State.threadReg (s : State) : Word :=
  let t := s.me
  let prio := BitVec.ofNat 2 ((t.run.map Cont.prio).getD 0)
  0#44 ++ t.level.code ++ prio ++ 0#4 ++ BitVec.ofNat 12 (s.act.core % 1024 * 4 + s.act.thr.toNat)

/-- CORE (R104). -/
def State.coreReg (s : State) : Word :=
  0#48 ++ (if s.bin = .u1024 then 0#4 else 1#4) ++ 0#1 ++ BitVec.ofNat 11 s.act.core

/-- OWNER (R49): during a scrub valid reads 0 (R51). -/
def State.ownerReg (s : State) : Word := 0#59 ++ BitVec.ofBool s.core.valid ++ s.core.owner

/-- QMU (R105): bits [63:0] of the constant. -/
def qmuOf (q : Word) : Word := BitVec.ofNat 64 (2 ^ 124 / q.toNat)

/-- BLAD (R407). -/
def Core.blad (k : Core) (blax : Word) : Word :=
  let ix := blax.extractLsb' 0 6
  if blax.getLsbD 6 then (k.cnts[ix.toNat]'ix.isLt).setWidth 64 else (k.sums[ix.toNat]'ix.isLt).setWidth 64

/-- The value of a system register. -/
def State.sreg (s : State) (r : SysReg) : Word :=
  let t := s.me
  match r with
  | .thread => s.threadReg
  | .core => s.coreReg
  | .owner => s.ownerReg
  | .domid => t.domid.setWidth 64
  | .ddepth => BitVec.ofNat 64 t.depth
  | .tvec => (s.domain t.domid).tvec
  | .tcause => t.sys.tcause
  | .tpc => t.sys.tpc
  | .taddr => t.sys.taddr
  | .tinfo => t.sys.tinfo
  | .vresume => t.sys.vresume
  | .qmod => t.sys.qmod
  | .qmu => qmuOf t.sys.qmod
  | .pb1 => s.core.pb1.setWidth 64
  | .pb2 => s.core.pb2.setWidth 64
  | .pb3 => s.core.pb3.setWidth 64
  | .spbudget => t.spbudget
  | .wdog => t.wdog
  | .tsc => BitVec.ofNat 64 s.ns
  | .fetchctl => t.sys.fetchctl
  | .blax => t.sys.blax
  | .blad => s.core.blad t.sys.blax

/-! ### Values written -/

/-- Whether a value may stand in QMOD (R105). -/
def qmodOk (v : Word) : Bool := v.extractLsb' 62 2 = 0 && v.getLsbD 0 && 3 ≤ v.toNat

/-- TCAUSE after a write at a level (R376). -/
def tcauseWrite (old v : Word) (l : Level) : Word :=
  let p := if l.code.toNat < (v.extractLsb' 11 2).toNat then l.code else v.extractLsb' 11 2
  (old &&& ~~~0x18FF#64) ||| (v &&& 0xFF) ||| (p.setWidth 64 <<< 11)

/-- FETCHCTL after a write (R106). -/
def fetchctlWrite (v : Word) : Word := if 4 < (v &&& 7).toNat then 4 else v &&& 7

/-- Clears one accumulator (R407). -/
def Core.clearAcc (k : Core) (ix : BitVec 6) : Core :=
  { k with sums := k.sums.set ix.toNat 0 ix.isLt, cnts := k.cnts.set ix.toNat 0 ix.isLt }

/-- Changes the system registers of the executing thread. -/
def State.modSys (s : State) (f : SysRegs → SysRegs) : State := s.modMe (fun t => { t with sys := f t.sys })

/-- Writes a system register other than TVEC for a writer at a level. Fields that are read only, or that only the Lodge writes, keep
their values. -/
def State.setSregAt (s : State) (l : Level) (r : SysReg) (v : Word) : Ex State :=
  match r with
  | .tcause => .ok (s.modSys (fun y => { y with tcause := tcauseWrite y.tcause v l }))
  | .tpc => .ok (s.modSys (fun y => { y with tpc := v }))
  | .taddr => .ok (s.modSys (fun y => { y with taddr := v }))
  | .tinfo => .ok (s.modSys (fun y => { y with tinfo := v }))
  | .vresume => .ok (s.modSys (fun y => { y with vresume := v }))
  | .qmod => do
    faultIf (!qmodOk v) (s.headFault .reservedField 0)
    .ok (s.modSys (fun y => { y with qmod := v }))
  | .spbudget => .ok (s.modMe (fun t => { t with spbudget := v }))
  | .wdog => .ok (if s.me.depth = 0 then s.modMe (fun t => { t with wdog := v &&& 0x1FFFFFFFF }) else s)
  | .fetchctl => .ok (s.modSys (fun y => { y with fetchctl := fetchctlWrite v }))
  | .blax =>
    let s := s.modSys (fun y => { y with blax := v &&& 0x7F })
    .ok (if v.getLsbD 7 then s.modCore1 (fun k => k.clearAcc (v.extractLsb' 0 6)) else s)
  | .owner | .thread | .core | .domid | .ddepth | .tvec | .qmu | .pb1 | .pb2 | .pb3 | .tsc | .blad => .ok s

/-- Writes a system register for the executing thread. -/
def State.setSreg (s : State) (r : SysReg) (v : Word) : Ex State := s.setSregAt s.me.level r v

/-- A write form: `f` gives the new value from the old one and gd. TVEC goes to the Lodge, and the thread waits for
its answer (R109). -/
def writeForm (f : Word → Word → Word) (d : R) (r : SysReg) (s : State) : Outcome :=
  settle s (do
    s.needWrite r
    let x ← s.me.rdG d
    let v := f (s.sreg r) x
    if r = .tvec then
      match s.me.wait with
      | some ⟨.lodge, .done, _, _⟩ => .ok s.fell
      | some ⟨.lodge, _, _, _⟩ => .error (.hold (some .lodge))
      | _ => .ok ((s.post (.tvecWrite s.act.core s.act.thr.toNat s.me.domid v)).waits (some .lodge))
    else do
      let s ← s.setSreg r v
      .ok s.fell)

/-- SRD. -/
def execSrd (d : R) (r : SysReg) (s : State) : Outcome :=
  settle s (do
    s.needLevel (SysReg.readLevel r)
    let t ← s.me.wrG d (s.sreg r)
    .ok (s.setMe t).fell)
/-- SWR. -/
def execSwr (d : R) (r : SysReg) (s : State) : Outcome := writeForm (fun _ x => x) d r s
/-- SSET. -/
def execSset (d : R) (r : SysReg) (s : State) : Outcome := writeForm (fun y x => y ||| x) d r s
/-- SCLR. -/
def execSclr (d : R) (r : SysReg) (s : State) : Outcome := writeForm (fun y x => y &&& ~~~x) d r s

/-- Marks a thread that waits on the Lodge as served. -/
def Thread.lodgeAnswer (t : Thread) (v : Served) : Thread :=
  match t.wait with
  | some ⟨.lodge, .no, _, _⟩ => t.serve v
  | _ => t

/-- Changes a domain's entry. -/
def State.modDomain (s : State) (d : BitVec 8) (f : Domain → Domain) : State :=
  { s with domains := putKey d.toNat (f (s.domain d)) s.domains }

/-! ### Domain keys (R297, R298) -/

/-- The domain that the Lodge recorded as the owner of a frame when the hypervisor assigned the page (R297); which it is where there is no
record is a free value (log entry 60). -/
def State.pageDomain (s : State) (frame : Nat) : BitVec 8 := getKey frame (Config.pageDomain frame) s.pageKeys

/-- The frames of spaces 2 and 3 whose key is a domain's: those that the Lodge recorded for it, and of the others those of which memory lists
a byte. -/
def State.keyFrames (s : State) (dom : BitVec 8) : List Nat :=
  let used := (s.mem.map (fun c => frameOf c.1)).filter (fun f => (paSpace f = 2 || paSpace f = 3) && s.pageDomain f = dom)
  ((s.pageKeys.filter (fun e => e.2 = dom)).map Prod.fst ++ used).eraseDups

/-- Whether a line lies in a cache with what it holds: one held exclusively, or with a dirty half. -/
def State.inCache (s : State) (line : Nat) : Bool := s.excl.any (fun e => e.2 = line) || s.hostLine.any (fun e => lineOf e.1 = line)

/-- A domain gets another key: the tags of the lines that stand outside the package under the old one match no more (R297, R298; log entry
60). -/
def State.rekey (s : State) (dom : BitVec 8) (key : BitVec 256) : State :=
  if (s.domain dom).key = key then s
  else
    let lines := ((s.keyFrames dom).map (fun f => (List.range 512).map (fun i => f + 128 * i))).flatten
    let old := lines.filter (fun l => !s.inCache l && s.bad.all (fun e => e.1 != l))
    { s with bad := s.bad ++ old.map (fun l => (l, 1)) }.modDomain dom (fun e => { e with key := key })

/-- TVEC_WRITE: the Lodge writes the entry and answers the thread. -/
def execTvecWrite (core thr : Nat) (dom : BitVec 8) (v : Word) (s : State) : Outcome :=
  .next ((s.modDomain dom (fun e => { e with tvec := v })).modThread core (BitVec.ofNat 2 thr) (fun t => t.lodgeAnswer .done))

/-- BLAX_CLEAR: the selected accumulator's sum and count become zero. -/
def execBlaxClear (core : Nat) (index : BitVec 6) (s : State) : Outcome :=
  .next (s.modCore core (fun k => k.clearAcc index))

end Sys2Proof.Machine
end

