-- ==== Sys2Proof/Machine/Engine.lean ====
section
/-! DEFINITION. The issue of engine commands, and the engine control instructions, majors 0x60 to 0x69 and 0x6C
to 0x6F (spec/11_fed_engines.md R225-R250). What a command does once it starts stands in EngineRun. -/

namespace Sys2Proof.Machine

/-! ### Commands in common (R225-R230) -/

/-- Commands that an engine holds for a core, running ones included; the group port has no stated limit. -/
def engineRoom : EngineId → Option Nat
  | .matrix => some 16
  | .copy => some 32
  | .grotto => some 8
  | .group => none

/-- The code of an engine in a fault (R229). -/
def engineCode : EngineId → BitVec 3
  | .matrix => 0 | .copy => 1 | .grotto => 2 | .group => 4

/-- The commands of an engine of a core that have not completed, in issue order. -/
def Core.engine (k : Core) (e : EngineId) : List Cmd := k.cmds.filter (fun x => x.eng = e)

/-- What precedes the checks of a command: room in the queue, and R184. -/
def State.engReady (s : State) (e : EngineId) : Ex Unit := do
  match engineRoom e with
  | some n => if n ≤ (s.core.engine e).length then .error (.hold none)
  | none => .ok ()
  faultIf s.poolBarred (flt .domainRights 0)

/-- A command enters its engine's queue, with the translations and the global destination lines it holds. -/
def State.submit (s : State) (e : EngineId) (op : CmdOp) (f : EngF) (xlat : List (Nat × Nat)) (owned : List Nat) : State :=
  let (id, s) := s.newId
  let t := s.me
  let x : Cmd := ⟨id, e, op, f, s.cont, t.launch, s.core.owner, t.domid, t.level, t.depth, true, false, false, none, xlat, owned, [], .no, none,
    []⟩
  (s.modCore1 (fun k => { k with cmds := k.cmds ++ [x] })).post (.commandStart s.act.core e)

/-! ### Pool operands -/

/-- The own-pool address of an offset, in a pointer's window. -/
def spanAddr (ptr : Word) (off : Nat) : Word := ptrAddr (ptr &&& ~~~0x3FFFFF#64 ||| BitVec.ofNat 64 (off % 2 ^ 22)) 0

/-- The checks of a pool operand of n bytes at an offset, through a pointer: alignment, form, window, R184 and region. -/
def State.poolSpan (s : State) (ptr : Word) (off n align : Nat) (win : Nat → Bool) (regions : List Nat) (write : Bool) : Ex Unit := do
  let va := spanAddr ptr off
  let w : Word := if write then 1 else 0
  faultIf (off % align ≠ 0) (fltAt .misaligned va w)
  faultIf (ptrBad ptr) (fltAt .poolBounds va (w ||| 0x60))
  faultIf (ptrAw ptr || !win (ptrWindow ptr)) (fltAt .windowFormat va w)
  faultIf s.poolBarred (fltAt .domainRights va w)
  match spanBad s.core off n regions with
  | some r => raise (fltAt .poolBounds va (w ||| BitVec.ofNat 64 (16 * r)))
  | none => .ok ()

/-- The scale entries of a span of a scaled format lie in region M (R191). -/
def State.scaleSpan (s : State) (ptr : Word) (t : VType) (off n : Nat) (write : Bool) : Ex Unit :=
  let k := s.core
  if !isScaled t then .ok ()
  else
    match spanBad k (k.entryAt t off) (k.entryAt t (off + n - 1) + 2 - k.entryAt t off) [3] with
    | some r => raise (fltAt .poolBounds (spanAddr ptr off) ((if write then 1 else 0) ||| BitVec.ofNat 64 (16 * r)))
    | none => .ok ()

/-- Windows W0 to W7. -/
def anyWindow (w : Nat) : Bool := w < 8

/-! ### Global operands -/

/-- The address at which a span enters each 64 KiB page that it touches. -/
def pagesOf (va n : Nat) : List Nat :=
  (List.range ((va % 65536 + n + 65535) / 65536)).map (fun i => if i = 0 then va else (va / 65536 + i) * 65536)

/-- The translations of a list of pages: virtual page numbers and the physical addresses of their first bytes. -/
def State.pagesXlat (s : State) (a : Acc) : List Nat → Ex (List (Nat × Nat) × State)
  | [] => .ok ([], s)
  | v :: r => do
    let va := BitVec.ofNat 64 v
    if classOf va ≠ .global then
      let _ ← s.check { a with deny := globalOnly } va
      a.fault .pageRights va 1
    else
      let ((pa, _), s) ← s.checkPa a s.me.domid s.me.level va va
      let (l, s) ← s.pagesXlat a r
      .ok ((v / 65536, pa - v % 65536) :: l, s)

/-- The checks of a global span of n bytes. -/
def State.globalSpan (s : State) (a : Acc) (va : Word) (n : Nat) : Ex (List (Nat × Nat) × State) :=
  s.pagesXlat a (if n = 0 then [] else pagesOf va.toNat n)

/-- The physical address of a virtual address under held translations. -/
def paUnder (xlat : List (Nat × Nat)) (va : Nat) : Nat := getKey (va / 65536) 0 xlat + va % 65536

/-- The lines of a global span. -/
def spanLines (xlat : List (Nat × Nat)) (va n : Nat) : List Nat :=
  (List.range ((va % 128 + n + 127) / 128)).map (fun i =>
    lineOf (cellOf (paUnder xlat (if i = 0 then va else (va / 128 + i) * 128))))

/-! ### MMA, MMAZ, MMAS and MMAQ (R231-R237) -/

/-- Bytes of an accumulator tile. -/
abbrev tileBytes : Nat := 16384

/-- An accumulator tile exists (R231). -/
def State.needTile (s : State) (t : BitVec 4) : Ex Unit :=
  faultIf (decide (s.core.pb1.toNat * 65536 < (t.toNat + 1) * tileBytes + 84 * 1024)) (flt .poolBounds 0)

/-- The classes of windows that one product may mix (R233). -/
def windowClass (w : Nat) : Nat := [0, 1, 2, 2, 3, 3, 4, 5].getD w 9

/-- The row pitch of a panel (R232). -/
def panelPitch (w : Nat) : Nat := if w = 6 then 64 else 128

/-- Post-increments of the two pointers of a product. -/
def State.bump2 (s : State) (pa pb : P) (postA postB : Bool) : State :=
  s.modMe (fun t => (t.bump pa postA).bump pb postB)

/-- The operand checks of a product of panels: `wide` is the factor of B's pitch; `six` says that W6 is taken. -/
def State.panels (s : State) (pa pb : Word) (wide : Nat) (six : Bool) : Ex Unit := do
  let wa := ptrWindow pa
  let wb := ptrWindow pb
  let n := 64 * panelPitch wa
  let ok := fun w => 1 ≤ w && w < 8 && (six || w ≠ 6)
  s.poolSpan pa (ptrOffset pa) n 128 ok [1] false
  s.poolSpan pb (ptrOffset pb) (wide * n) 128 (fun w => ok w && windowClass w = windowClass wa) [1] false
  s.scaleSpan pa ((windowType wa).getD .fp32) (ptrOffset pa) n false
  s.scaleSpan pb ((windowType wb).getD .fp32) (ptrOffset pb) (wide * n) false

/-- The operand of a pointer. -/
def poolOp (p : Word) : PoolOp := ⟨ptrWindow p, ptrOffset p⟩

/-- MMA and MMAZ. -/
def mmaForm (zero : Bool) (t : BitVec 4) (pa pb : P) (postA postB : Bool) (e : EngF) (s : State) : Outcome :=
  settle s (do
    s.engReady .matrix
    let a := s.me.rdP pa
    let b := s.me.rdP pb
    s.panels a b 1 true
    s.needTile t
    .ok ((s.bump2 pa pb postA postB).submit .matrix (.mma t.toNat (poolOp a) (poolOp b) zero) e [] []).fell)

/-- MMA. -/
def execMma (t : BitVec 4) (pa pb : P) (postA postB : Bool) (e : EngF) (s : State) : Outcome :=
  mmaForm false t pa pb postA postB e s
/-- MMAZ. -/
def execMmaz (t : BitVec 4) (pa pb : P) (postA postB : Bool) (e : EngF) (s : State) : Outcome :=
  mmaForm true t pa pb postA postB e s
/-- MMAS. -/
def execMmas (t : BitVec 4) (pa pb : P) (postA postB : Bool) (e : EngF) (s : State) : Outcome :=
  settle s (do
    s.engReady .matrix
    let a := s.me.rdP pa
    let b := s.me.rdP pb
    s.panels a b 2 false
    s.needTile t
    .ok ((s.bump2 pa pb postA postB).submit .matrix (.mmas t.toNat (poolOp a) (poolOp b)) e [] []).fell)
/-- MMAQ: QMOD is taken at issue. -/
def execMmaq (t : BitVec 4) (pa pb : P) (postA postB clear : Bool) (e : EngF) (s : State) : Outcome :=
  settle s (do
    s.engReady .matrix
    let a := s.me.rdP pa
    let b := s.me.rdP pb
    s.poolSpan a (ptrOffset a) 2048 128 (fun w => w = 0) [1] false
    s.poolSpan b (ptrOffset b) 2048 128 (fun w => w = 0) [1] false
    s.needTile t
    .ok ((s.bump2 pa pb postA postB).submit .matrix (.mmaq t.toNat (ptrOffset a) (ptrOffset b) clear s.me.sys.qmod) e [] []).fell)

/-! ### Tile moves (R238, R239) -/

/-- AZERO. -/
def execAzero (t : BitVec 4) (_k : Kind) (e : EngF) (s : State) : Outcome :=
  settle s (do
    s.engReady .matrix
    s.needTile t
    .ok (s.submit .matrix (.azero t.toNat) e [] []).fell)

/-- Bytes of the pool operand of ALOAD and ASTORE. -/
def moveBytes (w : Nat) (k : Kind) : Nat :=
  match windowType w with
  | none => if k = .n64 then 2048 else tileBytes
  | some t => 4096 * t.width / 8

/-- The checks of ALOAD and ASTORE. -/
def State.tileMove (s : State) (t : BitVec 4) (ptr : Word) (k : Kind) (write : Bool) : Ex Unit := do
  let w := ptrWindow ptr
  let n := moveBytes w k
  s.poolSpan ptr (ptrOffset ptr) n 128 (fun w => if k = .n64 then w = 0 else w < 8) [1] write
  s.scaleSpan ptr ((windowType w).getD .fp32) (ptrOffset ptr) n write
  s.needTile t

/-- ASTORE. -/
def execAstore (t : BitVec 4) (p : P) (k : Kind) (rm : Rnd) (e : EngF) (s : State) : Outcome :=
  settle s (do
    s.engReady .matrix
    let ptr := s.me.rdP p
    s.tileMove t ptr k true
    .ok (s.submit .matrix (.astore t.toNat (poolOp ptr) k rm) e [] []).fell)
/-- ALOAD. -/
def execAload (t : BitVec 4) (p : P) (k : Kind) (e : EngF) (s : State) : Outcome :=
  settle s (do
    s.engReady .matrix
    let ptr := s.me.rdP p
    s.tileMove t ptr k false
    .ok (s.submit .matrix (.aload t.toNat (poolOp ptr) k) e [] []).fell)

/-! ### The metadata queue (R236) -/

/-- MQCLR: a CPYMQ that waits for room goes on (R247). -/
def execMqclr (s : State) : Outcome :=
  settle s (do
    faultIf s.poolBarred (flt .domainRights 0)
    .ok ((s.modCore1 (fun k => { k with mq := [] })).post (.commandStart s.act.core .copy)).fell)
/-- MQSTAT. -/
def execMqstat (d : R) (s : State) : Outcome :=
  settle s (do
    faultIf s.poolBarred (flt .domainRights 0)
    let t ← s.me.wrG d (BitVec.ofNat 64 s.core.mq.length)
    .ok (s.setMe t).fell)

/-! ### The Grotto (R242-R245) -/

/-- Bytes of a row of W, and of its pitch. -/
def Matrix.rowBytes (m : Matrix) : Nat := m.cols * (if m.format = 10 then 16 else if m.format = 13 then 4 else 8) / 8

/-- The row pitch of W. -/
def Matrix.pitch (m : Matrix) : Nat := (m.rowBytes + 127) / 128 * 128

/-- A descriptor that obeys R242. -/
def descriptorOk (w : List Word) : Bool :=
  let w1 := w.getD 1 0
  let w2 := w.getD 2 0
  let w3 := w.getD 3 0
  let cols := (w1.extractLsb' 32 32).toNat
  let rows := (w1.extractLsb' 0 32).toNat
  let f := w2.toNat % 16
  (w.getD 0 0).toNat % 128 = 0 && 32 ≤ cols && cols ≤ 65536 && cols % 32 = 0 && 1 ≤ rows && rows ≤ 65536 &&
    w2.toNat / 16 = 0 && 10 ≤ f && f ≤ 13 && (if f = 10 then w3 = 0 else w3.toNat % 2 = 0)

/-- A matrix of a domain, not yet placed, from its descriptor. -/
def matrixOf (w : List Word) (dom : BitVec 8) : Matrix :=
  ⟨0, 0, dom, w.getD 0 0, w.getD 3 0, ((w.getD 1 0).extractLsb' 0 32).toNat, ((w.getD 1 0).extractLsb' 32 32).toNat,
    (w.getD 2 0).extractLsb' 0 4, []⟩

/-- The matrix a number names, when the current domain has mapped it. -/
def State.matrix (s : State) (x : Word) : Option Matrix :=
  s.matrices.find? (fun m => m.stack * 256 + m.slot = x.toNat && m.dom = s.me.domid)

/-- The outstanding SGEMV commands of a matrix, on every core. -/
def State.pendingOn (s : State) (m : Matrix) : Nat :=
  s.cores.foldl (fun n e => n + (e.2.cmds.filter (fun x => match x.op with
    | .sgemv st sl _ _ _ _ => st = m.stack && sl = m.slot
    | _ => false)).length) 0

/-- The pages of a matrix: those of W and of its scales. -/
def State.matrixPages (s : State) (m : Matrix) : Ex (List (Nat × Nat) × State) := do
  let a : Acc := { size := 1, align := 1 }
  let (x, s) ← s.globalSpan a m.base ((m.rows - 1) * m.pitch + m.rowBytes)
  if m.format = 10 then .ok (x, s)
  else
    let (y, s) ← s.globalSpan a m.scales (m.rows * m.cols / 16)
    .ok (x ++ y, s)

/-- Maps a matrix whose pages are translated: its stack, the slot, and what SMAP writes. -/
def State.mapMatrix (s : State) (m : Matrix) (pages : List (Nat × Nat)) : Word × State :=
  let homes := (pages.map (fun p => p.2 / 2 ^ 36)).eraseDups
  match homes with
  | [st] =>
    if st / 4096 ≠ 1 then (0x8000000000000002, s)
    else
      let stack := st % 16
      let used := (s.matrices.filter (fun m => m.stack = stack)).map Matrix.slot
      match pickFree s.free ((List.range 256).filter (fun n => !used.contains n)) with
      | none => (0x8000000000000001, s)
      | some slot =>
        (BitVec.ofNat 64 (stack * 256 + slot),
          { s.spent with matrices := s.matrices ++ [{ m with stack := stack, slot := slot, xlat := pages }] })
  | _ => (0x8000000000000002, s)

/-- SMAP. -/
def execSmap (d a : R) (s : State) : Outcome :=
  settle s (do
    faultIf s.poolBarred (flt .domainRights 0)
    s.me.freeG d
    let x ← s.me.rdG a
    if x.getLsbD 63 then
      match s.matrix (x &&& 0xFFF) with
      | none => .ok (s.modMe (fun t => t.setG d 0x8000000000000004)).fell
      | some m =>
        if s.pendingOn m ≠ 0 then .error (.hold none)
        else .ok ({ s with matrices := s.matrices.erase m }.modMe (fun t => t.setG d 0)).fell
    else do
      faultIf (x.toNat % 8 ≠ 0) (fltAt .misaligned x 0)
      let (w, s) ← s.readWords globalOnly x 4
      if !descriptorOk w then .ok (s.modMe (fun t => t.setG d 0x8000000000000003)).fell
      else do
        let m := matrixOf w s.me.domid
        let (pages, s) ← s.matrixPages m
        match pages.find? (fun p => s.inMotion (cellOf p.2)) with
        | some p => .error (.hold (some (.moving (BitVec.ofNat 64 (p.1 * 65536)))))
        | none => .ok ()
        let (v, s) := s.mapMatrix m pages
        .ok (s.modMe (fun t => t.setG d v)).fell)

/-- SSTAT. -/
def execSstat (d a : R) (s : State) : Outcome :=
  settle s (do
    faultIf s.poolBarred (flt .domainRights 0)
    let x ← s.me.rdG a
    let v : Word := match s.matrix x with
      | none => 0
      | some m => 1#1 ++ BitVec.ofNat 7 (min (s.pendingOn m) 64) ++ BitVec.ofNat 4 m.stack ++ m.format ++
          BitVec.ofNat 16 (m.cols / 32) ++ BitVec.ofNat 32 m.rows
    let t ← s.me.wrG d v
    .ok (s.setMe t).fell)

/-- Pitch of the vectors of y. -/
def yPitch (x : SgemvX) : Nat := ((x.nrows.toNat + 1) * 4 + 127) / 128 * 128

/-- The checks of x, or of a y in the pool: aw = 1 faults POOL_BOUNDS here (R244). DESIGN CHOICE (log entry 79): its TINFO [7:4] is 6, since R182
has no code for it. -/
def State.sgemvSpan (s : State) (ptr : Word) (n : Nat) (write : Bool) : Ex Unit := do
  let va := spanAddr ptr (ptrOffset ptr)
  let w : Word := if write then 1 else 0
  faultIf (ptrOffset ptr % 128 ≠ 0) (fltAt .misaligned va w)
  faultIf (ptrAw ptr) (fltAt .poolBounds va (w ||| 0x60))
  s.poolSpan ptr (ptrOffset ptr) n 128 anyWindow [1] write

/-- SGEMV. -/
def execSgemv (a : R) (px : P) (c : R) (x : SgemvX) (e : EngF) (s : State) : Outcome :=
  settle s (do
    s.engReady .grotto
    let n ← s.me.rdG a
    match s.matrix n with
    | none => raise (flt .domainRights 0)
    | some m => do
      faultIf (decide (m.rows < x.row0.toNat + x.nrows.toNat + 1 ∨ m.cols / 32 < x.col0.toNat + x.ncols.toNat + 1))
        (s.headFault .reservedField 4)
      let p := s.me.rdP px
      s.sgemvSpan p ((x.nvec.toNat + 1) * xPitch x) false
      let yn := (x.nvec.toNat + 1) * yPitch x
      if x.ydst then do
        let y ← s.me.rdG c
        faultIf (y.toNat % 128 ≠ 0) (fltAt .misaligned y 1)
        let (pages, s) ← s.globalSpan { write := true, size := 1, align := 1 } y yn
        .ok (s.submit .grotto (.sgemv m.stack m.slot (ptrOffset p) false y.toNat x) e pages (spanLines pages y.toNat yn)).fell
      else do
        let q := s.me.rdP (c.extractLsb' 0 3)
        s.sgemvSpan q yn true
        .ok (s.submit .grotto (.sgemv m.stack m.slot (ptrOffset p) true (spanAddr q (ptrOffset q)).toNat x) e [] []).fell)

/-! ### The copy engine (R246, R247) -/

/-- A layout record; the fault of a broken one. -/
def State.layout (s : State) (w : List Word) : Ex Layout :=
  let w0 := w.getD 0 0
  let w3 := w.getD 3 0
  let n0 := (w0.extractLsb' 0 16).toNat
  let n1 := (w0.extractLsb' 16 16).toNat
  let n2 := (w0.extractLsb' 32 16).toNat
  if w0.extractLsb' 50 14 ≠ 0 || n0 = 0 || n1 = 0 || n2 = 0 then raise (s.headFault .reservedField 0xFE)
  else .ok ⟨(w0.extractLsb' 48 2).toNat, n0, n1, n2, w.getD 1 0, w.getD 2 0, (w3.extractLsb' 0 32).toNat, (w3.extractLsb' 32 32).toNat⟩

/-- The rows of a layout as pairs of a far address and a local offset, in ascending z, then y. -/
def Layout.rows (l : Layout) (far : Word) (o : Nat) : List (Word × Nat) :=
  (List.range (l.n2 * l.n1)).map (fun i =>
    let y := i % l.n1
    let z := i / l.n1
    (far + BitVec.ofNat 64 y * l.fs1 + BitVec.ofNat 64 z * l.fs2, o + y * l.ls1 + z * l.ls2))

/-- Bytes of a row. -/
def Layout.rowBytes (l : Layout) : Nat := l.n0 * 2 ^ l.esz

/-- The far side of a row of CPYPP. -/
def poolOnly : AClass → Option Nat
  | .own | .remote => none
  | _ => some 2

/-- What a copy command checks row by row: the local side `near`, then the far side `f`. -/
def State.copyRows (s : State) (near : State → Nat → Ex Unit) (f : State → Word → Ex (List (Nat × Nat) × State)) :
    List (Word × Nat) → Ex (List (Nat × Nat) × State)
  | [] => .ok ([], s)
  | (far, o) :: r => do
    near s o
    let (x, s) ← f s far
    let (y, s) ← s.copyRows near f r
    .ok (x ++ y, s)

/-- The layout record of a copy command. -/
def State.copyLayout (s : State) (b : R) : Ex (Layout × State) := do
  let va ← s.me.rdG b
  let (w, s) ← s.readWords (fun _ => none) va 4
  let l ← s.layout w
  .ok (l, s)

/-- The far rows of a copy to or from global memory. -/
def farGlobal (l : Layout) (write : Bool) (s : State) (far : Word) : Ex (List (Nat × Nat) × State) := do
  faultIf (far.toNat % 2 ^ l.esz ≠ 0) (fltAt .misaligned far (if write then 1 else 0))
  s.globalSpan { write := write, size := 1, align := 1 } far l.rowBytes

/-- The local rows of a copy, in S or M. -/
def nearPool (l : Layout) (ptr : Word) (write : Bool) (s : State) (o : Nat) : Ex Unit :=
  s.poolSpan ptr o l.rowBytes (2 ^ l.esz) anyWindow [1, 3] write

/-- CPYIN. -/
def execCpyin (a b : R) (p : P) (e : EngF) (s : State) : Outcome :=
  settle s (do
    s.engReady .copy
    let far ← s.me.rdG a
    let (l, s) ← s.copyLayout b
    let ptr := s.me.rdP p
    let (x, s) ← s.copyRows (nearPool l ptr true) (farGlobal l false) (l.rows far (ptrOffset ptr))
    .ok (s.submit .copy (.cpyin far l (spanAddr ptr (ptrOffset ptr)).toNat) e x []).fell)
/-- CPYOUT. -/
def execCpyout (a b : R) (p : P) (e : EngF) (s : State) : Outcome :=
  settle s (do
    s.engReady .copy
    let far ← s.me.rdG a
    let (l, s) ← s.copyLayout b
    let ptr := s.me.rdP p
    let rows := l.rows far (ptrOffset ptr)
    let (x, s) ← s.copyRows (nearPool l ptr false) (farGlobal l true) rows
    .ok (s.submit .copy (.cpyout far l (ptrOffset ptr)) e x ((rows.map (fun r => spanLines x r.1.toNat l.rowBytes)).flatten)).fell)
/-- The far rows of CPYPP. -/
def farPool (l : Layout) (s : State) (far : Word) : Ex (List (Nat × Nat) × State) := do
  let (_, s) ← s.check { write := true, size := l.rowBytes, align := 2 ^ l.esz, deny := poolOnly, regions := some [1, 3] } far
  .ok ([], s)
/-- The core of a pool address. -/
def State.poolCore (s : State) (va : Word) : Nat := if classOf va = .own then s.act.core else (va.extractLsb' 36 10).toNat
/-- CPYPP. -/
def execCpypp (a b : R) (p : P) (e : EngF) (s : State) : Outcome :=
  settle s (do
    s.engReady .copy
    let far ← s.me.rdG a
    let (l, s) ← s.copyLayout b
    let ptr := s.me.rdP p
    let (_, s) ← s.copyRows (nearPool l ptr false) (farPool l) (l.rows far (ptrOffset ptr))
    .ok (s.submit .copy (.cpypp (s.poolCore far) far.toNat l (ptrOffset ptr)) e [] []).fell)
/-- The data blocks of CPYSC and their entries. -/
def nearScale (l : Layout) (ptr : Word) (s : State) (o : Nat) : Ex Unit := do
  let t := (windowType (ptrWindow ptr)).getD .fp32
  s.poolSpan ptr o (l.n0 * blockBytes t) 1 (fun w => 1 ≤ w && w ≤ 3) [1] true
  s.scaleSpan ptr t o (l.n0 * blockBytes t) true
/-- CPYSC. -/
def execCpysc (a b : R) (p : P) (e : EngF) (s : State) : Outcome :=
  settle s (do
    s.engReady .copy
    let far ← s.me.rdG a
    let (l, s) ← s.copyLayout b
    faultIf (l.esz ≠ 1) (s.headFault .reservedField 0xFE)
    let ptr := s.me.rdP p
    let (x, s) ← s.copyRows (nearScale l ptr) (farGlobal l false) (l.rows far (ptrOffset ptr))
    .ok (s.submit .copy (.cpysc far l (poolOp ptr)) e x []).fell)
/-- CPYMQ. -/
def execCpymq (a : R) (count : BitVec 8) (e : EngF) (s : State) : Outcome :=
  settle s (do
    s.engReady .copy
    let far ← s.me.rdG a
    faultIf (far.toNat % 256 ≠ 0) (fltAt .misaligned far 0)
    let (x, s) ← s.globalSpan { size := 1, align := 1 } far (256 * count.toNat)
    .ok (s.submit .copy (.cpymq far count.toNat) e x []).fell)

/-! ### GATHER, SCATTER and CRED (R248, R249) -/

/-- The checks of the index list and the dense side; `write` says that the dense side is written. DESIGN CHOICE (log entry 79): with n = 0, of
which R248 says that it signals and does nothing else, of the checks of both pointers only that of aw is made. -/
def State.indexSpans (s : State) (idx dense : Word) (x : IndexX) (write : Bool) : Ex Unit := do
  let n := x.n.toNat
  if n = 0 then do
    faultIf (ptrAw idx) (fltAt .windowFormat (ptrAddr idx 0) 0)
    faultIf (ptrAw dense) (fltAt .windowFormat (ptrAddr dense 0) 0)
  else do
    let w := if x.iw then 8 else 4
    s.poolSpan idx (ptrOffset idx) (n * w) w anyWindow [1, 3] false
    s.poolSpan dense (ptrOffset dense) (n * 2 ^ x.esz.toNat) (2 ^ x.esz.toNat) anyWindow [1, 3] write

/-- GATHER. -/
def execGather (a : R) (pidx pdense : P) (x : IndexX) (e : EngF) (s : State) : Outcome :=
  settle s (do
    s.engReady .copy
    let base ← s.me.rdG a
    let i := s.me.rdP pidx
    let d := s.me.rdP pdense
    s.indexSpans i d x true
    .ok (s.submit .copy (.gather base (ptrOffset i) (spanAddr d (ptrOffset d)).toNat x) e [] []).fell)
/-- SCATTER. -/
def execScatter (a : R) (pidx pdense : P) (x : IndexX) (e : EngF) (s : State) : Outcome :=
  settle s (do
    s.engReady .copy
    let base ← s.me.rdG a
    let i := s.me.rdP pidx
    let d := s.me.rdP pdense
    s.indexSpans i d x false
    .ok (s.submit .copy (.scatter base (ptrOffset i) (ptrOffset d) x) e [] []).fell)

/-- CRED. -/
def execCred (op : CredOp) (t : CredType) (a b : R) (p : P) (e : EngF) (s : State) : Outcome :=
  settle s (do
    s.engReady .copy
    let dst ← s.me.rdG a
    let n ← s.me.rdG b
    faultIf (decide (65536 < n.toNat)) (s.headFault .reservedField 0)
    let w := t.toV.width / 8
    let ptr := s.me.rdP p
    s.poolSpan ptr (ptrOffset ptr) (n.toNat * w) w anyWindow [1, 3] false
    let (_, s) ← s.check { write := true, size := n.toNat * w, align := w, deny := poolOnly, regions := some [1, 3] } dst
    .ok (s.submit .copy (.cred (s.poolCore dst) dst.toNat n.toNat (ptrOffset ptr) t op) e [] []).fell)

/-! ### Control (R250) -/

/-- The engine of a bit of ECANCEL's mask, or of an ESTAT selector. -/
def engineOf (n : Nat) : EngineId := [EngineId.matrix, .copy, .grotto, .matrix, .matrix, .group].getD n .matrix

/-- A running MMAS that waits on an empty mq. -/
def Core.stalled (k : Core) (x : Cmd) : Bool :=
  match x.op with
  | .mmas _ _ _ => x.running && !x.done && k.mq.isEmpty
  | _ => false

/-- The commands that ECANCEL removes or aborts. -/
def Core.cancels (k : Core) (mask : BitVec 3) (cont : Nat) : List Cmd :=
  k.cmds.filter (fun x => x.mine && x.cont = cont && (!x.running || k.stalled x) &&
    (List.range 3).any (fun i => mask.getLsbD i && x.eng = engineOf i))

/-- An aborted MMAS leaves its tile undetermined. -/
def State.abortTile (s : State) (c : Nat) (x : Cmd) : State :=
  match x.op with
  | .mmas t _ _ =>
    if x.running then
      s.spent.modCore c (fun k => k.modPool (fun p => memWriteBytes p (t * tileBytes) ((List.range tileBytes).map (Config.freeByte s.fresh))))
    else s
  | _ => s

/-- ECANCEL. -/
def execEcancel (d : R) (mask : BitVec 3) (s : State) : Outcome :=
  settle s (do
    faultIf s.poolBarred (flt .domainRights 0)
    let c := s.act.core
    let l := s.core.cancels mask s.cont
    let t ← s.me.wrG d (BitVec.ofNat 64 l.length)
    let s := l.foldl (fun s x => (s.abortTile c x).cmdOver x) (s.setMe t)
    let s := s.modCore1 (fun k => { k with
      cmds := k.cmds.filter (fun x => !l.contains x)
      semq := k.semq.filter (fun w => l.all (fun x => w.who != .command x.id)) })
    let s := (List.range 3).foldl (fun s i => if mask.getLsbD i then s.post (.commandStart c (engineOf i)) else s) (s.semServeAll c)
    .ok s.fell)

/-- What ESTAT writes for an engine. -/
def Core.engineStat (k : Core) (e : EngineId) (cont : Nat) : Word :=
  let l := k.engine e
  let ovf := k.ovf.getD (if e = .group then 3 else (engineCode e).toNat) false
  let frec := match k.frec with
    | some f => f.engine = engineCode e
    | none => false
  bit ovf <<< 25 ||| bit frec <<< 24 |||
    BitVec.ofNat 64 (min 255 (l.filter (fun x => x.mine && x.cont = cont)).length) <<< 16 |||
    BitVec.ofNat 64 (min 255 (l.filter (fun x => x.running)).length) <<< 8 |||
    BitVec.ofNat 64 (min 255 (l.filter (fun x => !x.running)).length)

/-- The fault record as ESTAT 3 writes it. -/
def recordWord (f : FaultRec) : Word :=
  f.element ++ 0#7 ++ BitVec.ofBool f.more ++ f.ksig ++ 0#5 ++ f.engine ++ f.cause.code

/-- Sets the overflow mark of an engine. -/
def Core.setOvf (k : Core) (e : EngineId) (b : Bool) : Core :=
  match e with
  | .matrix => { k with ovf := k.ovf.set 0 b }
  | .copy => { k with ovf := k.ovf.set 1 b }
  | .grotto => { k with ovf := k.ovf.set 2 b }
  | .group => { k with ovf := k.ovf.set 3 b }

/-- ESTAT. -/
def execEstat (d : R) (sel : Fin 6) (s : State) : Outcome :=
  settle s (do
    faultIf s.poolBarred (flt .domainRights 0)
    let k := s.core
    let n := sel.val
    let v : Word :=
      if n = 3 then (k.frec.map recordWord).getD 0
      else if n = 4 then (k.frec.map FaultRec.addr).getD 0
      else k.engineStat (engineOf n) s.cont
    let t ← s.me.wrG d v
    let s := s.setMe t
    .ok (s.modCore1 (fun k =>
      if n = 3 then { k with frec := none } else if n = 4 then k else k.setOvf (engineOf n) false)).fell)

end Sys2Proof.Machine
end

