-- ==== Sys2Proof/Machine/EngineRun.lean ====
section
/-! DEFINITION. What engine commands do: COMMAND_START makes a command's effects, COMMAND_COMPLETE signals
(spec/11_fed_engines.md R226-R249; spec/07_numbers.md R147-R154; spec/16_synchronised_handles.md R342, R346). -/

namespace Sys2Proof.Machine

/-! ### Faults of commands (R229, R250) -/

/-- The domain of a thread at a depth of its stack. -/
def Thread.domAt (t : Thread) (d : Nat) : Option (BitVec 8) :=
  if t.depth = d then some t.domid
  else if d < t.depth then (t.frames[t.depth - d - 1]?).map Frame.caller
  else none

/-- Delivers an asynchronous fault to a continuation of a core whose issuing frame still stands, else counts it; `cmd` says that a
command raised it (R229), not a packet (R273). -/
def State.faultTo (s : State) (c cont launch : Nat) (f : Flt) (depth : Nat) (dom : BitVec 8) (cmd : Bool) : State :=
  let k := s.getCore c
  match k.runner cont with
  | some i =>
    if (k.thread i).domAt depth = some dom then s.hold c i f (some (depth, dom)) cmd else s.countFault launch
  | none =>
    match k.parked.find? (fun p => (p.th.run.map Cont.id) = some cont) with
    | some p =>
      if p.th.domAt depth = some dom then
        s.modCore c (fun k => k.modParked cont (fun p => p.holdTrap ⟨f, some (depth, dom), cmd⟩ s.cycle))
      else s.countFault launch
    | none => s.countFault launch

/-- Writes the core's fault record, and delivers or counts the fault of a command. -/
def State.cmdFault (s : State) (c : Nat) (x : Cmd) (cause : Cause) (addr : Word) (elem : Nat) (code : BitVec 3) : State :=
  let s := s.modCore c (fun k => { k with
    frec := match k.frec with
      | none => some ⟨cause, code, x.f.ksig, BitVec.ofNat 32 elem, addr, false⟩
      | some f => some { f with more := true } })
  let s := if cause = .semOverflow then s.modCore c (fun k => k.setOvf x.eng true) else s
  s.faultTo c x.cont x.launch ⟨cause, addr, 0#32 ++ 1#1 ++ code ++ BitVec.ofNat 28 elem⟩ x.depth x.dom true

/-! ### Running -/

/-- Why a running command stops: it waits for something to come, its access at an address stalls on a page in motion (R292), the write of
its packet is refused with a verdict (R273), it waits for a slot that its owner may use (R54) or for what its thread has posted before it
(R347), or a fault with its address and element, which may leave a state of its own. -/
inductive Halt where
  | stall
  | moving (va : Word) (elem : Nat)
  | refused (v : Word)
  | starved
  | fault (cause : Cause) (addr : Word) (elem : Nat)
  | faultIn (s : State) (cause : Cause) (addr : Word) (elem : Nat)
  deriving DecidableEq, Repr

/-- The effects of a step that stops: those before it stand, and what it leaves itself. -/
def Halt.after (h : Halt) (s : State) : State × Option Halt :=
  match h with
  | .faultIn s' cause addr elem => (s', some (.fault cause addr elem))
  | _ => (s, some h)

/-- A step of a command's effects. -/
abbrev Run (α : Type) := Except Halt α

/-- The effects of a command: the state that stands, and why it stopped, if it did. -/
abbrev Effect := State × Option Halt

/-- Words of region S in a span become full, and their deferred lists are served (R188). -/
def State.fillSpan (s : State) (c off n : Nat) : State :=
  ((spanWords off n).filter (fun w => regionOf (s.getCore c) w = 1)).foldl (fun s w => (s.feSet c w true).serve c w) s

/-- The words of spans, of core, offset and length, become full, each once (R188). -/
def State.fillSpans (s : State) (l : List (Nat × Nat × Nat)) : State :=
  (((l.map (fun x => (spanWords x.2.1 x.2.2).map (fun w => (x.1, w)))).flatten).eraseDups).foldl (fun s x => s.fillSpan x.1 x.2 8) s

/-- Runs a step for each element of a list until one stops. -/
def runEach {α : Type} (f : State → α → Run State) : List α → State → Effect
  | [], s => (s, none)
  | a :: r, s =>
    match f s a with
    | .ok s' => runEach f r s'
    | .error h => h.after s

/-- Runs a step that writes a span of a pool for each element of a list until one stops; the words of the spans written are full then: a
word that takes several elements serves its deferred list once, with all of them (R188, R308). -/
def runFill {α : Type} (f : State → α → Run State) (span : α → Nat × Nat × Nat) (l : List α) (s : State) : Effect :=
  match runEach (fun (x : State) a => f x a) l s with
  | (t, none) => (t.fillSpans (l.map span), none)
  | (_, some _) => fillUntil f span l [] s
where
  /-- The same, up to the element that stops. -/
  fillUntil (f : State → α → Run State) (span : α → Nat × Nat × Nat) : List α → List (Nat × Nat × Nat) → State → Effect
    | [], done, s => (s.fillSpans done, none)
    | a :: r, done, s =>
      match f s a with
      | .ok s' => fillUntil f span r (done ++ [span a]) s'
      | .error h => ((h.after s).1.fillSpans done, (h.after s).2)

/-- Why a coherent agent's access to memory stops before it reaches its bytes: a link that is down, a page in motion, or no slot that its
owner may use (R54, R292, R300). -/
def State.memStop (s : State) (barred : Bool) (pa : Nat) (va : Word) (elem : Nat) : Run Unit :=
  if paSpace pa = 3 && s.hostDown then .error (.fault .hostLinkDown va elem)
  else if s.inMotion (cellOf pa) then .error (.moving va elem)
  else if barred then .error .starved
  else .ok ()

/-- Whether the page of an address is uncached for an engine: by the translation that a domain holds of it, or by its space (R178, R287). -/
def State.engUncached (s : State) (dom : BitVec 8) (pa : Nat) (va : Word) : Bool :=
  paSpace pa = 4 || s.tlb.any (fun e =>
    e.dom = dom && e.page = va.toNat / 65536 && e.pa + va.toNat % 65536 = pa && e.leaf.getLsbD 61)

/-- The same for an engine of a core. -/
def State.engStop (s : State) (c : Nat) (o : BitVec 4) (uc : Bool) (pa : Nat) (va : Word) (elem : Nat) : Run Unit :=
  s.memStop (s.starvedAt c o uc pa) pa va elem

/-- n bytes in one line as a coherent agent reads them (R228, R298). -/
def State.lineRead (s : State) (pa n : Nat) (va : Word) (elem : Nat) : Run (Nat × State) :=
  let cell := cellOf pa
  if s.bad.any (fun e => e.1 = lineOf cell) then .error (.fault .integrity va elem)
  else
    let s := s.recall (lineOf cell)
    .ok (s.bytesAt cell n, s)

/-- The destinations whose replies an engine's access to memory may account (R406). -/
def engDests (uc : Bool) (pa : Nat) : List (Option Nat) := if uc then [some (homeDest pa)] else [some (sliceOf pa), some (homeDest pa)]

/-- An engine of a core reads n bytes that lie in one line, for an owner and a domain; the reply is accounted at the core. -/
def State.engRead (s : State) (c : Nat) (o : BitVec 4) (dom : BitVec 8) (pa n : Nat) (va : Word) (elem : Nat) : Run (Nat × State) := do
  let uc := s.engUncached dom pa va
  s.engStop c o uc pa va elem
  match s.lineRead pa n va elem with
  | .ok (x, s) => .ok (x, s.accountAt c (engDests uc pa))
  | .error (.fault cause addr elem) => .error (.faultIn (s.accountAt c (engDests uc pa)) cause addr elem)
  | .error h => .error h

/-- An engine of a core writes n bytes that lie in one line, for an owner and a domain: a write to an uncached page of space 3 goes to the
host (R287). The acknowledgement is accounted at the core, but a store to host memory over PCIe has none. -/
def State.engWrite (s : State) (c : Nat) (o : BitVec 4) (dom : BitVec 8) (pa n v : Nat) (va : Word) (elem : Nat) : Run State := do
  let uc := s.engUncached dom pa va
  s.engStop c o uc pa va elem
  let cell := cellOf pa
  let s := (s.recall (lineOf cell)).mendSpan cell n
  let s := ({ s with excl := s.excl.filter (fun e => e.2 != lineOf cell) }.putBytes uc cell n v).hitLine (lineOf cell)
  .ok (if paSpace pa = 4 then s else s.accountAt c (engDests uc pa))

/-- Writes n bytes of a pool; `va` is their address. A marked word stops the command (R346). -/
def State.engPool (s : State) (c off n v : Nat) (va : Nat) (elem : Nat) : Run State :=
  match (spanWords off n).find? (fun w => (s.getCore c).marks.contains w) with
  | some w => .error (.fault .handleStore (BitVec.ofNat 64 (va + w) - BitVec.ofNat 64 off) elem)
  | none => .ok (s.modCore c (fun k => k.putAt off (placed 0 n v)))

/-- Reads n bytes of a pool: an uncorrectable error stops the command (R382). -/
def State.engLocal (s : State) (c off n : Nat) (va : Nat) (elem : Nat) : Run Nat :=
  if (s.getCore c).worn.any (fun w => meets off n w 8) then .error (.fault .integrity (BitVec.ofNat 64 va) elem)
  else .ok (memRead (s.getCore c).pool off n)

/-- The offset of a pool address. -/
def poolOff (va : Nat) : Nat := va % 2 ^ 22

/-- Whether what a command writes to a core's pool lands (R185, R405). -/
def State.lands (s : State) (x : Cmd) (dst : Nat) : Bool :=
  let k := s.getCore dst
  k.valid && k.owner = x.owner && k.scrub.isNone

/-- The verdict with which a command's write to a core is refused on its way (R273). -/
def State.copyBad (s : State) (x : Cmd) (c dst : Nat) : Option Word := if c = dst then none else s.pathBad x.owner (s.pathTo c dst)

/-- A command's write to a core: one that is refused stops the command (R229, R273); one to another core is counted there, and its
acknowledgement at the core (R401, R406). -/
def State.copyTo (s : State) (x : Cmd) (c dst : Nat) : Run State :=
  match s.copyBad x c dst with
  | some v => .error (.refused v)
  | none => .ok (if c = dst then s else (s.countMsg x.launch c dst).accountAt c [some (44 + coreDie dst)])

/-- A command's writes reach the cores that they name: they queue at the port of a core that is halted (R394), and what the core has posted
to those cores earlier is performed first (R353, R370). -/
def State.reachAll (s : State) (x : Cmd) (c : Nat) : List Nat → Effect
  | [] => (s, none)
  | d :: r =>
    if d = c || (s.copyBad x c d).isSome then s.reachAll x c r
    else
      match s.turnAt c d (.command c x.id) with
      | none => (s.queueItem c d (.command c x.id), some .stall)
      | some s => s.reachAll x c r

/-! ### Products (R152, R153, R234-R237) -/

/-- One element of a floating product: its n products accumulated onto acc. -/
def accumulate (fp32 : Bool) (n : Nat) (a b : Nat → FVal) (acc : FVal) : FVal :=
  if fp32 then (List.range n).foldl (fun acc k => fp32rn (FVal.add .rn acc (FVal.mul (a k) (b k)))) acc
  else (List.range (n / 32)).foldl (fun acc j =>
    blockStep acc ((List.range 32).map (fun i => FVal.mul (a (32 * j + i)) (b (32 * j + i))))) acc

/-- The integer an I8 element encodes. -/
def FVal.toI : FVal → Int
  | .fin neg m e => signedAt neg m e 0
  | _ => 0

/-- The new code of a tile element of a panel product. -/
def productCode (w : Nat) (n : Nat) (a b : Nat → FVal) (old : Nat) : Nat :=
  if w = 7 then wrapTo 32 ((old : Int) + ((List.range n).map (fun k => (a k).toI * (b k).toI)).foldl (· + ·) 0)
  else fmtFP32.round .rn (accumulate (w = 6) n a b (fmtFP32.decode old))

/-- Writes a tile of 64 × 64 32-bit elements. -/
def writeTile (p : Mem) (t : Nat) (f : Nat → Nat → Nat) : Mem :=
  (List.range 4096).foldl (fun p i => memWrite p (t * tileBytes + 4 * i) 4 (f (i / 64) (i % 64))) p

/-- Elements of a row of a panel. -/
def panelK (w : Nat) : Nat := panelPitch w * 8 / ((windowType w).getD .fp32).width

/-- MMA and MMAZ. -/
def Core.mma (k : Core) (t : Nat) (a b : PoolOp) (zero : Bool) : Core :=
  let ta := (windowType a.win).getD .fp32
  let tb := (windowType b.win).getD .fp32
  let p := panelPitch a.win
  k.modPool (fun pool => writeTile pool t (fun i j =>
    productCode a.win (panelK a.win) (fun x => k.element ta (a.off + i * p) x) (fun x => k.element tb (b.off + j * p) x)
      (if zero then 0 else memRead k.pool (t * tileBytes + 4 * (64 * i + j)) 4)))

/-- Entries that an MMAS takes from mq (R235). -/
def sparseEntries (w : Nat) : Nat := 2 * panelK w / 32

/-- Logical element x of a row of sparse A: the kept elements stand where the metadata says, the others are zero. -/
def Core.sparse (k : Core) (ta : VType) (row : Nat) (r : Nat) (popped : List (BitVec 2048)) (x : Nat) : FVal :=
  let s := x / 32
  let g := x % 32 / 4
  let m := (popped.getD s 0).toNat / 2 ^ (32 * r + 4 * g) % 16
  let pos := x % 4
  if m / 4 = pos then k.element ta row (16 * s + 2 * g + 1)
  else if m % 4 = pos then k.element ta row (16 * s + 2 * g)
  else .zero false

/-- MMAS. -/
def Core.mmas (k : Core) (t : Nat) (a b : PoolOp) (popped : List (BitVec 2048)) : Core :=
  let ta := (windowType a.win).getD .fp32
  let tb := (windowType b.win).getD .fp32
  let p := panelPitch a.win
  k.modPool (fun pool => writeTile pool t (fun i j =>
    productCode a.win (2 * panelK a.win) (k.sparse ta (a.off + i * p) i popped) (fun x => k.element tb (b.off + j * (2 * p)) x)
      (memRead k.pool (t * tileBytes + 4 * (64 * i + j)) 4)))

/-- The pool spans that hold n bytes of elements of a window, with the entries of their blocks (R191). -/
def Core.windowSpans (k : Core) (win off n : Nat) : List (Nat × Nat) :=
  (off, n) :: (match windowType win with
    | some t => if isScaled t then [(k.entryAt t off, 2 * (n / blockBytes t))] else []
    | none => [])

/-- The pool spans that a command of the matrix engine reads. -/
def CmdOp.reads (k : Core) : CmdOp → List (Nat × Nat)
  | .mma t a b zero => k.windowSpans a.win a.off (64 * panelPitch a.win) ++ k.windowSpans b.win b.off (64 * panelPitch a.win) ++
      if zero then [] else [(t * tileBytes, tileBytes)]
  | .mmas t a b => k.windowSpans a.win a.off (64 * panelPitch a.win) ++ k.windowSpans b.win b.off (128 * panelPitch a.win) ++
      [(t * tileBytes, tileBytes)]
  | .mmaq t oa ob clear _ => [(oa, 2048), (ob, 2048)] ++ if clear then [] else [(t * tileBytes, 2048)]
  | .aload _ o kd => k.windowSpans o.win o.off (moveBytes o.win kd)
  | .astore t _ kd _ => [(t * tileBytes, if kd = .n64 then 2048 else tileBytes)]
  | _ => []

/-- The first byte of a span of a pool that lies in a word with an error, the lowest such word. -/
def Core.wornIn (k : Core) (r : Nat × Nat) : Option Nat :=
  (leastBy id (k.worn.filter (fun w => meets r.1 r.2 w 8))).map (fun w => max r.1 w)

/-- The uncorrectable error that a command of the matrix engine meets in what it reads, at its address (R229, R382). DESIGN CHOICE (log
entry 79): of several it reports the lowest of the first operand that holds one. -/
def State.wornRead (s : State) (c : Nat) (op : CmdOp) : Option Halt :=
  ((op.reads (s.getCore c)).findSome? (s.getCore c).wornIn).map (fun a => .fault .integrity (BitVec.ofNat 64 (0xFFFE * 2 ^ 48 + a)) 0)

/-- The words of a span of a pool that is written whole hold no error any more. -/
def Core.renew (k : Core) (off n : Nat) : Core := { k with worn := k.worn.filter (fun w => w < off || off + n < w + 8) }

/-- A command of the matrix engine that reads sound bytes writes n bytes of its tile. -/
def State.tileDo (s : State) (c : Nat) (op : CmdOp) (t n : Nat) (f : Core → Core) : Effect :=
  match s.wornRead c op with
  | some h => (s, some h)
  | none => (s.modCore c (fun k => (f k).renew (t * tileBytes) n), none)

/-- MMAQ (R237). -/
def Core.mmaq (k : Core) (t oa ob : Nat) (clear : Bool) (q : Word) : Core :=
  let at_ := fun i j => t * tileBytes + 8 * (16 * i + j)
  k.modPool (fun pool => (List.range 256).foldl (fun pool n =>
    let i := n / 16
    let j := n % 16
    let old := if clear then 0 else memRead k.pool (at_ i j) 8
    memWrite pool (at_ i j) 8 ((List.range 16).foldl (fun s x =>
      addMod q.toNat s (mulMod q.toNat (memRead k.pool (oa + 128 * i + 8 * x) 8) (memRead k.pool (ob + 128 * j + 8 * x) 8))) old)) pool)

/-! ### Tile moves (R239, R240) -/

/-- ALOAD. DESIGN CHOICE (log entry 78): its conversion to FP32 rounds rn, since R238 gives it no mode. -/
def Core.aload (k : Core) (t : Nat) (o : PoolOp) (kd : Kind) : Core :=
  match windowType o.win with
  | none => k.modPool (fun p => memWriteBytes p (t * tileBytes) (memBytes k.pool o.off (moveBytes 0 kd)))
  | some w => k.modPool (fun p => writeTile p t (fun i j =>
      convertTo (if w = .i8 then .i32 else .fp32) .rn (k.element w o.off (64 * i + j))))

/-- The magnitude of a value, none when it is not finite. -/
def FVal.mag : FVal → Option FVal
  | .fin _ m e => some (.fin false m e)
  | _ => none

/-- The index of the greatest finite magnitude, the lowest on a tie, other than one index. -/
def topMag (vals : List FVal) (skip : Option Nat) : Option Nat :=
  (vals.zipIdx.foldl (fun best e =>
    match e.1.mag with
    | none => best
    | some m =>
      if some e.2 = skip then best
      else
        match best with
        | none => some (e.2, m)
        | some (_, b) => if FVal.cmp m b = .gt then some (e.2, m) else best) (none : Option (Nat × FVal))).map Prod.fst

/-- emax of a block format. -/
def blockEmax : VType → Int
  | .e4m3 => 8 | .e5m2 => 15 | _ => 2

/-- sc(m) of R240. -/
def blockScale (t : VType) (m : FVal) : Nat :=
  match m with
  | .fin _ n e => if n = 0 then 127 else (min 254 (max 0 ((Nat.log2 n : Int) + e - blockEmax t + 127))).toNat
  | _ => 127

/-- The scale entry and the codes of a block of 32 elements (R240). DESIGN CHOICE (log entry 78): a block with neither a NaN nor a finite
element takes m = 0. -/
def scaledBlock (t : VType) (rm : Rnd) (vals : List FVal) : Nat × List Nat :=
  if vals.any (fun v => v = .nan) then (0xFF, vals.map (fun _ => 0))
  else
    let at_ := fun (j : Option Nat) => match j with
      | some j => vals.getD j (.zero false)
      | none => .zero false
    let j := topMag vals none
    let plain := blockScale t (at_ j)
    let special : Option (Nat × Nat) :=
      if t ≠ .e2m1 then none
      else
        match j with
        | none => none
        | some i =>
          let m2 := (at_ (topMag vals (some i))).mag.getD (.zero false)
          let s2 := blockScale t m2
          let x := ((at_ j).mag.getD (.zero false)).scale (127 - (s2 : Int))
          if FVal.cmp m2 (.zero false) = .gt && FVal.cmp x (.fin false 6 0) = .gt then some (i, s2) else none
    let s := match special with | some (_, s2) => s2 | none => plain
    let k := match special with | some (i, s2) => fmtE4M3.round rm ((vals.getD i (.zero false)).scale (127 - (s2 : Int))) | none => 0
    (k * 256 + s, vals.zipIdx.map (fun e =>
      if special.map Prod.fst = some e.2 then 8 else convertTo t rm (e.1.scale (127 - (s : Int)))))

/-- Codes of width w packed into a number, the first lowest. -/
def packCodes (w : Nat) : List Nat → Nat
  | [] => 0
  | c :: r => c % 2 ^ w + 2 ^ w * packCodes w r

/-- A tile element as ASTORE reads it. -/
def Core.tileVal (k : Core) (t : Nat) (kd : Kind) (i j : Nat) : FVal :=
  typeFVal (if kd = .i32 then .i32 else .fp32) (memRead k.pool (t * tileBytes + 4 * (64 * i + j)) 4)

/-- One row of ASTORE. -/
def State.astoreRow (s : State) (c t : Nat) (o : PoolOp) (kd : Kind) (rm : Rnd) (i : Nat) : Run State :=
  let k := s.getCore c
  let base := 0xFFFE * 2 ^ 48 + o.win * 2 ^ 32
  match windowType o.win with
  | none =>
    let n := if kd = .n64 then 128 else 256
    s.engPool c (o.off + i * n) n (memRead k.pool (t * tileBytes + i * n) n) (base + o.off + i * n) 0
  | some w =>
    let n := 64 * w.width / 8
    let row := (List.range 64).map (k.tileVal t kd i)
    if !isScaled w then
      s.engPool c (o.off + i * n) n (packCodes w.width (row.map (convertTo w rm))) (base + o.off + i * n) 0
    else do
      let lo := scaledBlock w rm (row.take 32)
      let hi := scaledBlock w rm (row.drop 32)
      let s ← s.engPool c (o.off + i * n) n (packCodes w.width (lo.2 ++ hi.2)) (base + o.off + i * n) 0
      .ok (s.modCore c (fun k => k.modPool (fun p =>
        memWrite (memWrite p (k.entryAt w (o.off + i * n)) 2 lo.1) (k.entryAt w (o.off + i * n + n / 2)) 2 hi.1)))

/-! ### SGEMV (R245) -/

/-- A byte of a matrix, under the translations that SMAP took. -/
def State.matrixByte (s : State) (m : Matrix) (va : Nat) : Nat := (s.byteAt (cellOf (paUnder m.xlat va))).toNat

/-- Element k of row r of W, decoded with its block's entry. -/
def State.matrixElem (s : State) (m : Matrix) (r k : Nat) : FVal :=
  let row := m.base.toNat + r * m.pitch
  if m.format = 10 then fmtBF16.decode (s.matrixByte m (row + 2 * k) + 256 * s.matrixByte m (row + 2 * k + 1))
  else
    let ea := m.scales.toNat + 2 * (r * m.cols / 32 + k / 32)
    let entry := s.matrixByte m ea + 256 * s.matrixByte m (ea + 1)
    if m.format = 13 then blockVal .e2m1 (s.matrixByte m (row + k / 2) / (if k % 2 = 0 then 1 else 16) % 16) entry
    else blockVal (if m.format = 11 then .e4m3 else .e5m2) (s.matrixByte m (row + k)) entry

/-- The address of the first line of W or of its scales that an output reads and that fails its check (R382). -/
def State.matrixBad (s : State) (m : Matrix) (r c0 n : Nat) : Option Nat :=
  let w := if m.format = 10 then 16 else if m.format = 13 then 4 else 8
  let row := m.base.toNat + r * m.pitch + c0 * 32 * w / 8
  let ent := m.scales.toNat + 2 * (r * m.cols / 32 + c0)
  let bytes := (List.range (n * 32 * w / 8)).map (row + ·) ++ (if m.format = 10 then [] else (List.range (2 * n)).map (ent + ·))
  bytes.find? (fun va => s.bad.any (fun e => e.1 = lineOf (cellOf (paUnder m.xlat va))))

/-- n bytes of a list from a place on, little-endian. -/
def listRead (l : List Byte) (at_ n : Nat) : Nat := ((l.drop at_).take n).foldr (fun b r => b.toNat + 256 * r) 0

/-- Where output n of SGEMV lies after y. -/
def outAt (w : SgemvX) (n : Nat) : Nat := n / (w.nrows.toNat + 1) * yPitch w + 4 * (n % (w.nrows.toNat + 1))

/-- One output of SGEMV; y is read only to be added to. -/
def State.sgemvOut (s : State) (c : Nat) (x : Cmd) (m : Matrix) (pool : Bool) (y : Nat) (w : SgemvX) (n : Nat) : Run State := do
  let nr := w.nrows.toNat + 1
  let nb := w.ncols.toNat + 1
  let v := n / nr
  let r := w.row0.toNat + n % nr
  let yo := outAt w n
  match s.matrixBad m r w.col0.toNat nb with
  | some va => .error (.fault .integrity (BitVec.ofNat 64 va) n)
  | none => do
    let (old, s) ←
      if !w.acc then .ok (0, s)
      else if pool then do
        let v ← s.engLocal c (poolOff y + yo) 4 (y + yo) n
        .ok (v, s)
      else s.engRead c x.owner x.dom (paUnder x.xlat (y + yo)) 4 (BitVec.ofNat 64 (y + yo)) n
    let xe := fun k =>
      let at_ := v * xPitch w
      if w.xfp32 then fmtFP32.decode (listRead x.sent (at_ + 4 * k) 4) else fmtBF16.decode (listRead x.sent (at_ + 2 * k) 2)
    let acc := accumulate false (32 * nb) (fun k => s.matrixElem m r (32 * w.col0.toNat + k)) xe
      (if w.acc then fmtFP32.decode old else .zero false)
    let code := fmtFP32.round .rn acc
    if pool then s.engPool c (poolOff y + yo) 4 code (y + yo) n
    else s.engWrite c x.owner x.dom (paUnder x.xlat (y + yo)) 4 code (BitVec.ofNat 64 (y + yo)) n

/-- U copies of a matrix's lines are combined before the Grotto reads them (R324). -/
def State.recallMatrix (s : State) (m : Matrix) : State :=
  ((s.ucopies.map UCopy.line).eraseDups.filter (fun l => m.xlat.any (fun p => (cellOf p.2) / 65536 = l / 65536))).foldl
    (fun s l => s.recall l) s

/-- Whether a strict owner may not read its matrices in a stack (R54); channel 0 stands for those of the stack (log entry 24). -/
def State.channelBarred (s : State) (c : Nat) (o : BitVec 4) (st : Nat) : Bool := s.isCompute c && !s.granted o (.channel st 0)

/-! ### Copies (R246-R249) -/

/-- The elements of a layout in ascending z, then y, then x: their far address and local offset. -/
def Layout.elems (l : Layout) (far : Word) (o : Nat) (step : Nat) : List (Word × Nat) :=
  (List.range (l.n2 * l.n1 * l.n0)).map (fun i =>
    let x := i % l.n0
    let y := i / l.n0 % l.n1
    let z := i / (l.n0 * l.n1)
    (far + BitVec.ofNat 64 (x * 2 ^ l.esz) + BitVec.ofNat 64 y * l.fs1 + BitVec.ofNat 64 z * l.fs2,
      o + x * step + y * l.ls1 + z * l.ls2))

/-- CPYIN. -/
def State.runCpyin (s : State) (c : Nat) (x : Cmd) (far : Word) (l : Layout) (o : Nat) : Effect :=
  runFill (fun s e => do
    let (v, s) ← s.engRead c x.owner x.dom (paUnder x.xlat e.1.toNat) (2 ^ l.esz) e.1 0
    s.engPool c (poolOff e.2) (2 ^ l.esz) v e.2 0) (fun e => (c, poolOff e.2, 2 ^ l.esz)) (l.elems far o (2 ^ l.esz)) s

/-- Lines that rows of n bytes have covered whole take new tags (R298). -/
def State.mendRows (s : State) (xlat : List (Nat × Nat)) (n : Nat) (rows : List Word) : State :=
  rows.foldl (fun s r => (spanLines xlat r.toNat n).foldl (fun s l =>
    if (List.range 128).all (fun i => (List.range n).any (fun j => cellOf (paUnder xlat (r.toNat + j)) = l + i)) then s.mendSpan l 128
    else s) s) s

/-- CPYOUT. -/
def State.runCpyout (s : State) (c : Nat) (x : Cmd) (far : Word) (l : Layout) (o : Nat) : Effect :=
  match runEach (fun s e => do
      let v ← s.engLocal c e.2 (2 ^ l.esz) (0xFFFE * 2 ^ 48 + e.2) 0
      s.engWrite c x.owner x.dom (paUnder x.xlat e.1.toNat) (2 ^ l.esz) v e.1 0) (l.elems far o (2 ^ l.esz)) s with
  | (s, none) => (if s.bad.isEmpty then s else s.mendRows x.xlat l.rowBytes ((l.rows far o).map Prod.fst), none)
  | e => e

/-- The core of a pool address of a command of a core. -/
def farCore (c : Nat) (va : Word) : Nat := if classOf va = .own then c else (va.extractLsb' 36 10).toNat

/-- CPYPP: strides may lead to the pools of several cores. Each element is one write. -/
def State.runCpypp (s : State) (c : Nat) (x : Cmd) (far : Word) (l : Layout) (o : Nat) : Effect :=
  match s.reachAll x c (((l.rows far o).map (fun r => farCore c r.1)).eraseDups) with
  | (s, some h) => (s, some h)
  | (s, none) =>
    runFill (fun s e => do
      let d := farCore c e.1
      let v ← s.engLocal c e.2 (2 ^ l.esz) (0xFFFE * 2 ^ 48 + e.2) 0
      let s ← s.copyTo x c d
      if s.lands x d then s.engPool d (poolOff e.1.toNat) (2 ^ l.esz) v e.1.toNat 0 else .ok s)
      (fun e => if s.lands x (farCore c e.1) then (farCore c e.1, poolOff e.1.toNat, 2 ^ l.esz) else (c, 0, 0))
      (l.elems far o (2 ^ l.esz)) s

/-- CPYSC. -/
def State.runCpysc (s : State) (c : Nat) (x : Cmd) (far : Word) (l : Layout) (o : PoolOp) : Effect :=
  let t := (windowType o.win).getD .e4m3
  runEach (fun s e => do
    let (v, s) ← s.engRead c x.owner x.dom (paUnder x.xlat e.1.toNat) 2 e.1 0
    .ok (s.modCore c (fun k => k.putAt (k.entryAt t e.2) (placed 0 2 v)))) (l.elems far o.off (blockBytes t)) s

/-- The entries that mq holds (R236). -/
abbrev mqRoom : Nat := 64

/-- Changes a command of a core. -/
def Core.modCmd (k : Core) (id : Nat) (f : Cmd → Cmd) : Core :=
  { k with cmds := k.cmds.map (fun x => if x.id = id then f x else x) }

/-- CPYMQ: appends as many entries as mq has room for; an MMAS that waits for one goes on (R235), whatever stops the copy. -/
def State.runCpymq (s : State) (c : Nat) (x : Cmd) (far : Word) (count : Nat) : Effect :=
  let had := (s.getCore c).mq.length
  let n := min count (mqRoom - had)
  let (s, h) := runEach (fun s i => do
      let va := far + BitVec.ofNat 64 (256 * i)
      let (lo, s) ← s.engRead c x.owner x.dom (paUnder x.xlat va.toNat) 128 va 0
      let (hi, s) ← s.engRead c x.owner x.dom (paUnder x.xlat (va.toNat + 128)) 128 (va + 128) 0
      .ok (s.modCore c (fun k => { k with mq := k.mq ++ [BitVec.ofNat 2048 (lo + 2 ^ 1024 * hi)] }))) (List.range n) s
  let put := (s.getCore c).mq.length - had
  let s := if put = 0 then s else s.post (.commandStart c .matrix)
  let s := s.modCore c (fun k => k.modCmd x.id (fun x => { x with op := .cpymq (far + BitVec.ofNat 64 (256 * put)) (count - put) }))
  (s, if h.isNone && put < count then some .stall else h)

/-- MMAS: takes entries from mq as they are there, and computes once it has all of them. -/
def State.runMmas (s : State) (c : Nat) (x : Cmd) (t : Nat) (a b : PoolOp) : Effect :=
  let k := s.getCore c
  let n := min (sparseEntries a.win - x.popped.length) k.mq.length
  let popped := x.popped ++ k.mq.take n
  let s := s.modCore c (fun k => ({ k with mq := k.mq.drop n }).modCmd x.id (fun x => { x with popped := popped }))
  let s := if n = 0 then s else s.post (.commandStart c .copy)
  if popped.length < sparseEntries a.win then (s, some .stall)
  else s.tileDo c (.mmas t a b) t tileBytes (fun k => k.mmas t a b popped)

/-- The address of element i of a GATHER or SCATTER, from its index list. -/
def Core.indexed1 (k : Core) (base : Word) (idx : Nat) (x : IndexX) (i : Nat) : Word :=
  let ix : Word := if x.iw then BitVec.ofNat 64 (memRead k.pool (idx + 8 * i) 8) else sext (BitVec.ofNat 32 (memRead k.pool (idx + 4 * i) 4))
  base + (ix <<< x.shift.toNat)

/-- The checks of R182 on an element of a running command, with the issuing domain's rights: its physical address. -/
def State.elemPa (s : State) (x : Cmd) (write : Bool) (n : Nat) (va : Word) (i : Nat) : Run (Nat × State) :=
  if va.toNat % n ≠ 0 then .error (.fault .misaligned va i)
  else
    match classOf va with
    | .global =>
      match s.checkPa { write := write, size := n, align := n } x.dom x.level va va with
      | .error (.fault f) => .error (.fault f.cause va i)
      | .error (.hold (some (.moving _))) => .error (.moving va i)
      | .error _ => .error .stall
      | .ok ((pa, _), s) => .ok (pa, s)
    | .none => .error (.fault .pageNotPresent va i)
    | _ => .error (.fault .pageRights va i)

/-- The read of entry i of an index list (R382). -/
def State.indexSound (s : State) (c idx : Nat) (x : IndexX) (i : Nat) : Run Nat :=
  let w := if x.iw then 8 else 4
  s.engLocal c (idx + i * w) w (0xFFFE * 2 ^ 48 + idx + i * w) i

/-- GATHER. -/
def State.runGather (s : State) (c : Nat) (x : Cmd) (base : Word) (idx dense : Nat) (w : IndexX) : Effect :=
  let n := 2 ^ w.esz.toNat
  runFill (fun s i => do
    let _ ← s.indexSound c idx w i
    let va := (s.getCore c).indexed1 base idx w i
    let (pa, s) ← s.elemPa x false n va i
    let (v, s) ← s.engRead c x.owner x.dom pa n va i
    s.engPool c (poolOff dense + i * n) n v (dense + i * n) i) (fun i => (c, poolOff dense + i * n, n)) (List.range w.n.toNat) s

/-- SCATTER. -/
def State.runScatter (s : State) (c : Nat) (x : Cmd) (base : Word) (idx dense : Nat) (w : IndexX) : Effect :=
  let n := 2 ^ w.esz.toNat
  runEach (fun s i => do
    let _ ← s.indexSound c idx w i
    let va := (s.getCore c).indexed1 base idx w i
    let (pa, s) ← s.elemPa x true n va i
    let v ← s.engLocal c (dense + i * n) n (0xFFFE * 2 ^ 48 + dense + i * n) i
    s.engWrite c x.owner x.dom pa n v va i) (List.range w.n.toNat) s

/-- One update of CRED. -/
def credCode (op : CredOp) (t : VType) (old x : Nat) : Nat :=
  match typeFloat t with
  | some f =>
    let a := f.decode old
    let b := f.decode x
    f.round .rn (match op with | .add => FVal.add .rn a b | .min => FVal.min a b | .max => FVal.max a b)
  | none => redApply (match op with | .add => .add | .min => .min | .max => .max) t old x

/-- CRED. Each element is one write. -/
def State.runCred (s : State) (c : Nat) (x : Cmd) (dst : Nat) (va n o : Nat) (t : CredType) (op : CredOp) : Effect :=
  let w := t.toV.width / 8
  match s.reachAll x c [dst] with
  | (s, some h) => (s, some h)
  | (s, none) =>
    runFill (fun s i => do
      let off := poolOff va + i * w
      let v ← s.engLocal c (o + i * w) w (0xFFFE * 2 ^ 48 + o + i * w) i
      let s ← s.copyTo x c dst
      if s.lands x dst then do
        let old ← s.engLocal dst off w (va + i * w) i
        s.engPool dst off w (credCode op t.toV old v) (va + i * w) i
      else .ok s)
      (fun i => if s.lands x dst then (dst, poolOff va + i * w, w) else (c, 0, 0)) (List.range n) s

/-! ### HCPY.OUT (R331, R342) -/

/-- The extent or origin along axis i. -/
def axisOf (x : Word) (i : Nat) : Nat := (x.extractLsb' (16 * i) 16).toNat

/-- Elements of a region. -/
def Region.count (r : Region) : Nat := axisOf r.ext 0 * axisOf r.ext 1 * axisOf r.ext 2 * axisOf r.ext 3

/-- The address of element n of a region, axis 0 fastest. -/
def Region.addr (r : Region) (n : Nat) : Nat :=
  let e := axisOf r.ext
  let x := fun i => axisOf r.org i + (match i with
    | 0 => n % e 0
    | 1 => n / e 0 % e 1
    | 2 => n / (e 0 * e 1) % e 2
    | _ => n / (e 0 * e 1 * e 2))
  (r.base + BitVec.ofNat 64 (r.size * (x 0 + axisOf r.root 0 * (x 1 + axisOf r.root 1 * (x 2 + axisOf r.root 2 * x 3))))).toNat

/-- Whether a message is one that a command's thread posted before the command, or one that such a message follows (R353). -/
def State.postedBefore (s : State) (c : Nat) (x : Cmd) (m : Msg) : Bool :=
  m.src = c && s.msgs.any (fun y => y.src = c && y.cont = x.cont && y.dst = m.dst && m.id ≤ y.id && y.id < x.id)

/-- HCPY.OUT. What its thread has posted before it is performed first, since the join that waits for the transfer acquires that too
(R347). -/
def State.runHcpy (s : State) (c : Nat) (x : Cmd) (o : Nat) (r : Region) : Effect :=
  if s.msgs.any (fun m => m.refused.isNone && s.postedBefore c x m && s.portShut m.dst) then (s, some .starved)
  else
    runEach (fun s i => do
      let v ← s.engLocal c (o + i * r.size) r.size (0xFFFE * 2 ^ 48 + o + i * r.size) 0
      s.engWrite c x.owner x.dom (paUnder x.xlat (r.addr i)) r.size v (BitVec.ofNat 64 (r.addr i)) 0)
      (List.range r.count) (s.deliverMsgs (s.postedBefore c x))

/-! ### COMMAND_START (R226-R228) -/

/-- The effects of a command. -/
def State.effects (s : State) (c : Nat) (x : Cmd) : Effect :=
  match x.op with
  | .mma t a b zero => s.tileDo c x.op t tileBytes (fun k => k.mma t a b zero)
  | .mmas t a b => s.runMmas c x t a b
  | .mmaq t a b clear q => s.tileDo c x.op t 2048 (fun k => k.mmaq t a b clear q)
  | .azero t => s.tileDo c x.op t tileBytes (fun k => k.modPool (fun p => memClear p (t * tileBytes) tileBytes))
  | .astore t o k rm =>
    match s.wornRead c x.op with
    | some h => (s, some h)
    | none => runEach (fun s i => s.astoreRow c t o k rm i) (List.range (if k = .n64 then 16 else 64)) s
  | .aload t o k => s.tileDo c x.op t (if k = .n64 then 2048 else tileBytes) (fun y => y.aload t o k)
  | .sgemv st sl _ pool y w =>
    match s.matrices.find? (fun m => m.stack = st && m.slot = sl) with
    | some m =>
      if s.channelBarred c x.owner st then (s, some .starved)
      else runFill (fun s n => s.sgemvOut c x m pool y w n) (fun n => if pool then (c, poolOff y + outAt w n, 4) else (c, 0, 0))
        (List.range ((w.nvec.toNat + 1) * (w.nrows.toNat + 1))) ((s.recallMatrix m).accountAt c [some (32 + st)])
    | none => (s, none)
  | .cpyin far l o => s.runCpyin c x far l o
  | .cpyout far l o => s.runCpyout c x far l o
  | .cpypp _ far l o => s.runCpypp c x (BitVec.ofNat 64 far) l o
  | .cpysc far l o => s.runCpysc c x far l o
  | .cpymq far n => s.runCpymq c x far n
  | .gather base i d w => s.runGather c x base i d w
  | .scatter base i d w => s.runScatter c x base i d w
  | .cred dst va n o t op => s.runCred c x dst va n o t op
  | .hcpyOut _ _ o r => s.runHcpy c x o r
  | .gload die slot gen member src len off =>
    let (id, s) := s.newId
    let g := s.groups.find? (fun g => g.die = die && g.slot = slot && g.gen = gen)
    let round := ((g.bind (fun g => g.members[member]?)).map Member.counter).getD 0
    let q : GReq := ⟨id, die, slot, gen, member, round, c, x.cont, x.launch, src, len, off, x.f.ksig, x.f.inc, none⟩
    ({ s with greqs := s.greqs ++ [q] }.post (.groupRequest id), none)

/-! ### Refusals of a command's packets (R273) -/

/-- A copy or CRED whose write is returned with a verdict: it stops without a signal. -/
def State.refuseCmd (s : State) (c : Nat) (x : Cmd) (v : Word) : State :=
  let s := s.modCore c (fun k => { k with cmds := k.cmds.filter (fun y => y.id != x.id) })
  let s := s.cmdFault c x (verdictFault v).cause 0 (v.extractLsb' 0 28).toNat 3
  ((s.countMsg x.launch c c).modCore c (fun k => k.event s.cycle)).post (.commandStart c x.eng)

/-! ### Making effects -/

/-- Whether a command goes on from where it stalled, and does not start its effects anew. -/
def CmdOp.resumes : CmdOp → Bool
  | .mmas _ _ _ | .cpymq _ _ => true
  | _ => false

/-- Nanoseconds after which a stalled access faults MIGRATION_TIMEOUT (R292). -/
abbrev stallLimit : Nat := 50000

/-- Whether a command's access at an address has stalled for 50 µs. -/
def Cmd.timedOut (x : Cmd) (now : Nat) (va : Word) : Bool :=
  match x.stall with
  | some (since, at_) => at_ = va && since + stallLimit ≤ now
  | none => false

/-- A command stalls: whatever else of its engine may go on does. -/
def State.stalls (s : State) (c : Nat) (x : Cmd) : State :=
  if ((s.getCore c).engine x.eng).any (fun y => y.running && !y.done && !y.op.resumes) then s.post (.commandStart c x.eng) else s

/-- A command has made its effects, or a fault has stopped it. -/
def State.finish (s : State) (c : Nat) (x : Cmd) (fault : Option Flt) : State :=
  let s := s.modCore c (fun k => k.modCmd x.id (fun x => { x with
    done := true, owned := [], fault := fault, stall := none }))
  let s := if x.eng = .group then s else s.post (.commandComplete c x.id)
  s.post (.commandStart c x.eng)

/-- The effects of a started command, and what follows: one that met an error as it started stops there; one that stalls starts its effects again later, and one whose access stalls for
50 µs stops there with a fault. -/
def State.perform (s : State) (c : Nat) (x : Cmd) : State :=
  match if x.fault.isSome then (s, none) else s.effects c x with
  | (t, none) => t.finish c x x.fault
  | (t, some .stall) => t.stalls c x
  | (t, some (.moving va elem)) =>
    if x.timedOut s.ns va then t.finish c x (some ⟨.migrationTimeout, va, BitVec.ofNat 64 elem⟩)
    else
      let t := if x.op.resumes then t else s
      (t.modCore c (fun k => k.modCmd x.id (fun x => { x with
        stall := match x.stall with
          | some (since, at_) => if at_ = va then some (since, at_) else some (s.ns, va)
          | none => some (s.ns, va) }))).post (.commandStart c x.eng)
  | (t, some (.refused v)) => t.refuseCmd c x v
  | (t, some .starved) => (if x.op.resumes then t else s).post (.commandStart c x.eng)
  | (t, some (.fault cause addr elem)) => t.finish c x (some ⟨cause, addr, BitVec.ofNat 64 elem⟩)
  | (_, some (.faultIn t cause addr elem)) => t.finish c x (some ⟨cause, addr, BitVec.ofNat 64 elem⟩)

/-- How many commands of an engine may have started and not completed (R227). -/
def engineSlots : EngineId → Option Nat
  | .matrix => some 1
  | .copy => some 4
  | .grotto => some 8
  | .group => none

/-- Whether an engine of a core runs as many commands as it can. -/
def Core.crowded (k : Core) (e : EngineId) : Bool :=
  match engineSlots e with
  | some n => decide (n ≤ ((k.engine e).filter (fun x => x.running)).length)
  | none => false

/-- The wait of a command that is next to start: whether it starts now (R226). -/
def State.startWait (s : State) (c : Nat) (x : Cmd) : Bool × State :=
  let k := s.getCore c
  if x.f.thr = 0 then (true, s)
  else if k.semq.any (fun w => w.who = .command x.id) then (false, s)
  else if (k.semHead x.f.kwait).isNone && x.f.thr.toNat ≤ k.sem x.f.kwait then
    (true, s.modCore c (fun k => k.setSem x.f.kwait (k.sem x.f.kwait - x.f.thr.toNat)))
  else (false, s.modCore c (fun k => { k with semq := k.semq ++ [⟨x.f.kwait, x.f.thr.setWidth 16, .command x.id⟩] }))

/-- The stack of an SGEMV. -/
def CmdOp.stack : CmdOp → Option Nat
  | .sgemv st _ _ _ _ _ => some st
  | _ => none

/-- Whether an earlier command has reached the stack of a command and is not complete: a Grotto takes them one at a time (R227). -/
def State.behind (s : State) (c : Nat) (x : Cmd) : Bool :=
  (s.grotto.takeWhile (fun e => e != (c, x.id))).any (fun e =>
    (s.getCore e.1).cmds.any (fun y => y.id = e.2 && y.op.stack = x.op.stack))

/-- The commands of an engine that have started, have not made their effects, and may make them now. -/
def State.startable (s : State) (c : Nat) (e : EngineId) : List Cmd :=
  ((s.getCore c).engine e).filter (fun x => x.running && !x.done && !(e == .grotto && s.behind c x))

/-- Makes the effects of one of the started commands of an engine: which one is not determined (R227). -/
def State.performOne (s : State) (c : Nat) (e : EngineId) : State :=
  match s.startable c e with
  | [] => s
  | [x] => s.perform c x
  | l =>
    match pickFree s.free l with
    | some x => s.spent.perform c x
    | none => s

/-- Starts the oldest command of an engine that has not started, once it may (R226, R227, R393); its effects follow in the step. -/
def State.startNext (s : State) (c : Nat) (e : EngineId) : State :=
  let k := s.getCore c
  match (k.engine e).find? (fun x => !x.running) with
  | none => s
  | some x =>
    if k.dbg.halted || k.crowded e then s
    else
      match s.startWait c x with
      | (false, s) => s
      | (true, s) => s.startCmd c x.id

/-- COMMAND_START: the oldest waiting command of the engine starts if it may, and one that has started makes its effects. -/
def execCommandStart (core : Nat) (e : EngineId) (s : State) : Outcome := .next ((s.startNext core e).performOne core e)

/-! ### COMMAND_COMPLETE (R226, R229) -/

/-- The thread of a core that runs a continuation, when its trace mask has a bit. -/
def Core.traces (k : Core) (cont bit : Nat) : Bool :=
  match k.runner cont with
  | some i => (k.thread i).trace.getLsbD bit
  | none => false

/-- The signal of a command. -/
def State.signal (s : State) (c : Nat) (x : Cmd) : State :=
  if x.f.inc = 0 then s
  else
    match s.semAdd c x.f.ksig x.f.inc.toNat with
    | (true, s) => s.cmdFault c x .semOverflow 0 0 (engineCode x.eng)
    | (false, s) => s

/-- Matrices of a domain that is not live any more leave their stacks once no SGEMV uses them (R230, R243). -/
def State.dropMatrices (s : State) : State :=
  { s with matrices := s.matrices.filter (fun m => (s.domain m.dom).state = .live || s.pendingOn m ≠ 0) }

/-- An SGEMV leaves its stack, which takes the next command. -/
def State.leaveStack (s : State) (c : Nat) (x : Cmd) : State :=
  if x.eng ≠ .grotto then s
  else
    let s := { s with grotto := s.grotto.filter (fun e => e != (c, x.id)) }.dropMatrices
    match s.grotto.find? (fun e => (s.getCore e.1).cmds.any (fun y => y.id = e.2 && y.op.stack = x.op.stack)) with
    | some e => s.post (.commandStart e.1 .grotto)
    | none => s

/-- COMMAND_COMPLETE: a command that a fault stopped does not signal. -/
def execCommandComplete (core : Nat) (cmd : Nat) (s : State) : Outcome :=
  let k := s.getCore core
  match k.cmds.find? (fun x => x.id = cmd && x.done && x.eng != .group) with
  | none => .next s
  | some x =>
    let s := s.modCore core (fun k => { k with cmds := k.cmds.filter (fun y => y.id != cmd) })
    let s := (s.cmdOver x).leaveStack core x
    let s := match x.fault with
      | some f => s.cmdFault core x f.cause f.addr f.info.toNat (engineCode x.eng)
      | none => s.signal core x
    let s := if k.dbg.traceOn && k.traces x.cont 4 then
        s.modCore core (fun k => k.emit ⟨s.ns, 5, BitVec.ofNat 12 (core * 4 + 3), (engineCode x.eng).setWidth 64 <<< 8 ||| x.f.ksig.setWidth 64, 0,
          (s.domain x.dom).owner⟩)
      else s
    .next ((s.modCore core (fun k => k.event s.cycle)).post (.commandStart core x.eng))

end Sys2Proof.Machine
end

