-- ==== Sys2Proof/Machine/Place.lean ====
section
/-! DEFINITION. Launch headers, placement, the queues, and the selection, parking and saving of continuations
(spec/01_described_work.md R14-R24; spec/03_placed.md R48-R65; spec/19_interrupted.md R387-R390). -/

namespace Sys2Proof.Machine

/-! ### Fields of a launch header (R16) -/

/-- Word i of a header. -/
def Launch.word (l : Launch) (i : Nat) : Word := l.header.getD i 0

/-- The domain of a header. -/
def hdrDomain (h : List Word) : BitVec 8 := (h.getD 8 0).extractLsb' 36 8
/-- The owner of a header. -/
def hdrOwner (h : List Word) : BitVec 4 := (h.getD 8 0).extractLsb' 32 4
/-- Flag bit n of a header, 18 to 31. -/
def hdrFlag (h : List Word) (n : Nat) : Bool := (h.getD 8 0).getLsbD n
/-- The priority of a header. -/
def hdrPrio (h : List Word) : Nat := ((h.getD 8 0).extractLsb' 16 2).toNat
/-- Bit i of group_mask. -/
def hdrGroup (h : List Word) (i : Nat) : Bool := (h.getD 8 0).getLsbD (8 + i)
/-- Bit i of place_mask. -/
def hdrPlace (h : List Word) (i : Nat) : Bool := (h.getD 8 0).getLsbD i
/-- The number of fields. -/
def hdrFields (h : List Word) : Nat := ((h.getD 4 0).extractLsb' 36 3).toNat
/-- The width of field i. -/
def hdrWidth (h : List Word) (i : Nat) : Nat := ((h.getD 4 0).extractLsb' (6 * i) 6).toNat
/-- The extent of field i. -/
def hdrExtent (h : List Word) (i : Nat) : Nat := ((h.getD (5 + i / 2) 0).extractLsb' (32 * (i % 2)) 32).toNat
/-- PB1, PB2 and PB3 of a header. -/
def hdrPb (h : List Word) : BitVec 16 × BitVec 16 × BitVec 16 :=
  ((h.getD 11 0).extractLsb' 0 16, (h.getD 11 0).extractLsb' 16 16, (h.getD 11 0).extractLsb' 32 16)
/-- group_members. -/
def hdrMembers (h : List Word) : Nat := ((h.getD 12 0).extractLsb' 0 16).toNat
/-- group_timer. -/
def hdrTimer (h : List Word) : Nat := ((h.getD 12 0).extractLsb' 16 32).toNat

/-- The number of work items (R15). -/
def hdrItems (h : List Word) : Nat := (List.range (hdrFields h)).foldl (fun n i => n * hdrExtent h i) 1

/-- Field i of the work item with linear index n (R15). -/
def hdrValue (h : List Word) (n i : Nat) : Nat :=
  n / ((List.range i).foldl (fun m j => m * hdrExtent h j) 1) % hdrExtent h i

/-- The work identifier of a work item (R14). -/
def hdrWorkId (h : List Word) (n : Nat) : Word :=
  BitVec.ofNat 64 ((List.range (hdrFields h)).foldl (fun acc i =>
    acc + hdrValue h n i * 2 ^ ((List.range i).foldl (fun w j => w + hdrWidth h j) 0)) 0)

/-- The frame address of a work item (R15). -/
def hdrFrame (h : List Word) (n : Nat) : Word :=
  h.getD 2 0 + BitVec.ofNat 64 n * ((h.getD 3 0).extractLsb' 0 32).setWidth 64

/-- The tile address of a work item (R17). -/
def hdrTile (h : List Word) (n : Nat) : Word :=
  let fs := (List.range 8).filter (hdrPlace h)
  let s := h.getD 10 0
  h.getD 9 0 + (match fs[0]? with
    | some a => BitVec.ofNat 64 (hdrValue h n a) * (s.extractLsb' 0 32).setWidth 64
    | none => 0) + (match fs[1]? with
    | some b => BitVec.ofNat 64 (hdrValue h n b) * (s.extractLsb' 32 32).setWidth 64
    | none => 0)

/-! ### Locked sets and distances (R49, R56) -/

/-- The locked set of an owner, sorted. -/
def State.locked (s : State) (o : BitVec 4) : List Nat :=
  (s.cores.filter (fun e => s.isCompute e.1 && e.2.valid && e.2.owner = o && e.2.scrub.isNone)).map Prod.fst

/-- Step 2 of R56: the core that the hash of a work identifier chooses. -/
def State.hashTarget (s : State) (o : BitVec 4) (work : Word) : Option Nat :=
  let h := (work * 0x9E3779B97F4A7C15).extractLsb' 54 10
  (s.locked o)[h.toNat % (s.locked o).length]?

/-- Router hops between two routers, each a die, a row and a column: row links, column links and die crossings. -/
def routerHops (d1 r1 c1 d2 r2 c2 : Nat) : Nat :=
  let far := fun (a b : Nat) => if a = b then 0 else 1
  far r1 r2 + (match Nat.xor d1 d2 with
    | 0 => far c1 c2
    | 1 => far c1 7 + 1 + far c2 7
    | 2 => far c1 0 + 1 + far c2 0
    | _ => min (far c1 7 + far c2 0) (far c1 0 + far c2 7) + 3)

/-- Hops from a router of a die to the router of a core. -/
def hopsTo (die key core : Nat) : Nat :=
  let (r1, c1) := gridOf key
  let (r2, c2) := gridOf (coreRouter core)
  routerHops die r1 c1 (coreDie core) r2 c2

/-- Hops between the routers of two cores. -/
def coreHops (a b : Nat) : Nat := hopsTo (coreDie a) (coreRouter a) b

/-- Cases 1 and 3 of R56: the nearest router with cores of the owner, then the fewest records in the core queue, then the lowest
number. -/
def State.nearRouter (s : State) (o : BitVec 4) (die key : Nat) : Option Nat :=
  match leastBy (hopsTo die key) (s.locked o) with
  | none => none
  | some c => leastBy (fun x => (s.getCore x).queue.length) ((s.locked o).filter (fun x => hopsTo die key x = hopsTo die key c))

/-! ### Queues (R60) -/

/-- A queue event ends a WFI (R140). DESIGN CHOICE (log entry 79): that of a thread on the core; a continuation that a hard pre-emption has put
away in WFI keeps its wait, which an event meanwhile does not end (R388). -/
def Thread.queueEvent (t : Thread) : Thread :=
  match t.wait with
  | some w => if w.kind = .wfi then { t with wait := some { w with served := .done } } else t
  | none => t

/-- Records of a core queue (R60). -/
abbrev queueSize : Nat := 64

/-- Whether a record goes to the core queue: it has room, and none waits in the ring. -/
def Core.queueRoom (k : Core) : Bool := k.queue.length < queueSize && k.ring.isEmpty

/-- Adds a record to the core queue or, when that has no room, to its overflow ring. -/
def Core.putRecord (k : Core) (r : Record) : Core :=
  if k.queueRoom then { k with queue := k.queue ++ [r] } else { k with ring := k.ring ++ [r] }

/-- The records of a core queue and its ring. -/
def Core.records (k : Core) : List Record := k.queue ++ k.ring

/-- Records move from the ring into the core queue in stamp order as room appears (R60): the ring stands in stamp order. -/
def Core.refill (k : Core) : Core :=
  { k with
    queue := k.queue ++ k.ring.take (queueSize - k.queue.length)
    ring := k.ring.drop (queueSize - k.queue.length) }

/-- Takes a record out of the queue or the ring. -/
def Core.dropRecord (k : Core) (r : Record) : Core := ({ k with queue := k.queue.erase r, ring := k.ring.erase r } : Core).refill

/-- Puts a record at the end of a core's queue, with its stamp; the core has received it (R401). -/
def State.enqueue (s : State) (c : Nat) (r : Record) : State :=
  s.modCore c (fun k =>
    let k : Core := { k.putRecord { r with target := c, enq := s.cycle, promo := s.cycle, waited := 0 } with
      threads := k.threads.map Thread.queueEvent }
    k.count r.launch 0 1)

/-- Whether a core's queue with its overflow ring is full. -/
def Core.queueFull (k : Core) : Bool := !k.queueRoom && decide (Config.overflowRing ≤ k.ring.length)

/-! ### Continuations and threads -/

/-- A thread that holds no continuation any more; its registers stay (R405), and its watch slots are disarmed (R202). -/
def Thread.idle (t : Thread) : Thread :=
  { t with
    run := none
    frames := []
    fetch := []
    watch := Vector.replicate 2 none
    wait := none
    held := []
    unwind := none
    preempt := none
    exempt := false
    boundary := false
    mask := none
    late := [] }

/-- A thread whose registers step 3 of R51 has zeroed. -/
def zeroThread : Thread := { resetThread with sys := ⟨0, 0, 0, 0, 0, 0, 0, 0⟩, spbudget := 0 }

/-- The boundaries of a launch. -/
def State.pbOf (s : State) (launch : Nat) : BitVec 16 × BitVec 16 × BitVec 16 :=
  match s.launchOf launch with
  | some l => hdrPb l.header
  | none => (2, 22, 46)

/-- Whether a record's boundaries are those of a core, or stand for none (on the hub). -/
def State.pbMatch (s : State) (c : Nat) (launch : Nat) : Bool :=
  let k := s.getCore c
  !s.isCompute c || s.pbOf launch = (k.pb1, k.pb2, k.pb3)

/-- Whether no thread of a core runs a continuation and none is parked there (R59). -/
def Core.quiet (k : Core) : Bool := k.threads.all (fun t => t.run.isNone) && k.parked.isEmpty

/-- The registers of a thread that starts a record (R24), with the traps that the losses of its gang bring (R41). Pavilion and
Kiosk cores run at hypervisor level. -/
def State.startThread (s : State) (c : Nat) (r : Record) : Thread :=
  let h := ((s.launchOf r.launch).map Launch.header).getD []
  let budget := ((h.getD 3 0).extractLsb' 32 32).setWidth 64
  let sp := ((h.getD 11 0).extractLsb' 48 16).setWidth 64
  let g4 : Word := match r.group with
    | some g => 0#32 ++ g.gen ++ 0#14 ++ g.die ++ g.slot
    | none => 0
  let g := (((Vector.replicate 32 zeroG).set 1 ⟨r.workId, .plain⟩).set 2 ⟨r.frame, .plain⟩).set 3 ⟨r.join, .plain⟩
  { resetThread with
    run := some ⟨r.id, r.launch, r.owner, r.prio, hdrPrio h, r.group, s.cycle⟩
    pc := r.code
    held := ((s.launchOf r.launch).map (fun l => l.gang.lost)).getD [] |>.map
      (fun j => ⟨flt .gangMemberLost (BitVec.ofNat 64 j), none, false⟩)
    g := g.set 4 ⟨g4, .plain⟩
    level := if s.isCompute c then .user else .hyper
    domid := hdrDomain h
    spbudget := if sp = 0 then (s.ownerRec r.owner).spDefault.setWidth 64 else sp * 256
    wdog := if budget = 0 then 0 else budget ||| 0x100000000 }

/-- The bytes of the old L1 carve-out that new boundaries uncover. -/
def uncovered (a b a' b' : Nat) : List (Nat × Nat) :=
  [(a, min b a' - a), (max a b', b - max a b')].filter (fun e => e.2 ≠ 0)

/-- Loads new boundaries (R59): the L1 carve-out is cleaned and invalidated; what the uncovered words hold and whether
they are full is not determined. -/
def State.changeBounds (s : State) (c : Nat) (pb : BitVec 16 × BitVec 16 × BitVec 16) : State :=
  let k := s.getCore c
  let s := s.dropCaches c
  let open_ := uncovered (k.pb2.toNat * 65536) (k.pb3.toNat * 65536) (pb.2.1.toNat * 65536) (pb.2.2.toNat * 65536)
  let n := s.fresh
  s.spent.modCore c (fun k => { k with
    pb1 := pb.1
    pb2 := pb.2.1
    pb3 := pb.2.2
    change := none
    pool := open_.foldl (fun p e => memWriteBytes p e.1 ((List.range e.2).map (fun i => Config.freeByte n (e.1 + i)))) k.pool
    full := (k.full.filter (fun w => open_.all (fun e => w < e.1 || e.1 + e.2 ≤ w))) ++
      (open_.map (fun e => ((List.range (e.2 / 8)).map (fun i => e.1 + 8 * i)).filter (fun w =>
        (Config.freeByte n (0x400000 + w)).getLsbD 0))).flatten })

/-- A thread of a core takes a record. A continuation whose base domain is revoked is killed (R222). -/
def State.startRecord (s : State) (c : Nat) (i : BitVec 2) (r : Record) : State :=
  let s := if s.pbMatch c r.launch then s else s.changeBounds c (s.pbOf r.launch)
  let t := s.startThread c r
  let s := (s.modCore c (fun k => { k with change := if k.change = some r.id then none else k.change })).setThread c i t
  if (s.domain t.domid).state = .revoked then s.askUnwind c i ⟨0, .revoked, 1, true, none, some s.cycle, true⟩ else s

/-- The value of `inLine` while a resumed continuation has yet to complete its waiting instruction: no address of a line. -/
abbrev resumedLine : Word := 1

/-- What a resumed continuation waits on: one that PARK put away waits no longer, and the cycles that WSLEEP has been resident go on
counting (R202). The fetch buffer is discarded (R85), but for the image of a waiting instruction, which has been fetched already and
completes with it. A boundary at which it was put away is its boundary still, and the safe point that that was (R75, R139): a cause held
for a safe point is taken there. -/
def Thread.resumed (t : Thread) (now : Nat) : Thread :=
  { t with
    fetch := if t.inWait then t.fetch.filter (fun l => l.line = t.pc &&& 0xFFFFFFFFFFFFFFC0) else []
    inLine := resumedLine
    preempt := none
    run := t.run.map (fun r => { r with start := now })
    wait := match t.wait with
      | some w =>
        match w.kind with
        | .away => none
        | .sleep _ => some w
        | _ => if t.inWait then some { w with resident := 0 } else none
      | none => none }

/-! ### Seals that fail (R213, R348, R382) -/

/-- A thread whose registers come from a save or a frame that failed its check: what they hold is not determined. -/
def Thread.scrambled (t : Thread) (n : Nat) : Thread :=
  { t with
    g := Vector.ofFn (fun i : Fin 32 => if i.val = 0 then zeroG else ⟨BitVec.ofNat 64 (Config.freeNat (n + i.val)), .plain⟩)
    v := Vector.ofFn (fun i : Fin 32 => BitVec.ofNat 512 (Config.freeNat (n + 32 + i.val)))
    p := Vector.ofFn (fun i : Fin 8 => BitVec.ofNat 64 (Config.freeNat (n + 64 + i.val)))
    lc := Vector.replicate 3 zeroLoop
    shadow := Vector.replicate 3 zeroLoop
    sys := startSys
    watch := Vector.replicate 2 none
    fetch := []
    wait := none }

/-- Free values that a scramble uses. -/
abbrev scrambleUse : Nat := 72

/-- The thread with its top frame's saved state restored; from a frame that fails its check, undetermined registers. -/
def Thread.popped (t : Thread) (n : Nat) : Thread :=
  match t.frames with
  | [] => t
  | f :: r =>
    let t := { t with
      level := .user
      domid := f.caller
      frames := r
      watch := Vector.replicate 2 none
      fetch := []
      wait := none
      pc := f.ret }
    if f.intact then { t with g := f.g, v := f.v, p := f.p, lc := f.lc, sys := f.sys, shadow := Vector.replicate 3 zeroLoop }
    else t.scrambled n

/-- Whether the top frame of a thread fails its check. -/
def Thread.topBroken (t : Thread) : Bool :=
  match t.frames with
  | f :: _ => !f.intact
  | [] => false

/-- A seal has failed: every frame is given up, no handler runs, and INTEGRITY goes to the base domain at depth 0 (R213). DESIGN CHOICE (log
entry 69): the s in g1 is that of a give-up, 3, since R219 lists none for this. -/
def State.breakSeal (s : State) (c : Nat) (i : BitVec 2) : State :=
  let s := s.modThread c i (fun t => { t with frames := t.frames.map (fun f => { f with gaveUp := true }) })
  let s := if (s.getThread c i).depth = 0 then s else s.askUnwind c i ⟨0, .giveUp, 3, false, none, none, true⟩
  s.hold c i (flt .integrity 5)

/-- A resumed continuation that has an unwind to do does it first (R218, R224). -/
def Thread.unwindFirst (t : Thread) : Thread :=
  { t with unwind := t.unwind.map (fun u => { u with due := u.due || u.handler.isNone }) }

/-- A thread of a core resumes a parked continuation; a save that fails its check loses its registers. -/
def State.resume (s : State) (c : Nat) (i : BitVec 2) (p : Parked) : State :=
  let s := (s.modCore c (fun k => { k with parked := k.parked.erase p })).setThread c i (p.th.resumed s.cycle).unwindFirst
  let s := if p.th.unwind.isSome then s.post (.unwind c i.toNat) else s
  let s := if p.th.held.isEmpty then s else s.post (.asyncTrapDelivery c i.toNat)
  if p.intact then s
  else
    let s := (s.reclaimServed (coreDie c) (s.getThread c i)).reclaimRegs (coreDie c) (s.getThread c i).g
    let s := (s.withdraw c p.th.cont).modThread c i (fun t => t.scrambled s.fresh)
    { s with fresh := s.fresh + scrambleUse }.breakSeal c i

/-! ### Saving (R63, R76, R387-R390) -/

/-- Park slots of a core. -/
abbrev parkSlots : Nat := 16

/-- Whether a park slot is free. -/
def Core.slotFree (k : Core) : Bool := decide ((k.parked.filter (fun p => !p.inRing)).length < parkSlots)

/-- Whether a park slot or an entry of the overflow save ring is free. -/
def Core.saveRoom (k : Core) : Bool :=
  k.slotFree || decide ((k.parked.filter (fun p => p.inRing)).length < Config.saveRing)

/-- The registers that a save under a live mask keeps (R76). -/
def Thread.masked (t : Thread) (mask : Word) : Thread :=
  { t with
    g := Vector.ofFn (fun n : Fin 32 =>
      let r := t.g[n]
      if mask.getLsbD n.val || r.tag = .handle || r.tag = .movedFrom || r.tag = .zero then r else zeroG)
    v := Vector.ofFn (fun n : Fin 32 => if mask.getLsbD (32 + n.val) then t.v[n] else 0)
    watch := if mask.getLsbD 0 then t.watch else Vector.replicate 2 none }

/-- Whether a held cause came from a command; a network fault of a posted store did not (R273). -/
def Held.command (h : Held) : Bool := h.cmd

/-- Saves a thread's continuation in a park slot or, when none is free, in the save ring; the thread is then idle.
`mask` none saves everything; a killed continuation is not frozen, since it has to unwind (R222). A save with bit 0 of its mask clear keeps
no core record (R390); one of a thread that is only not ready keeps no wait, since its instruction has not issued. -/
def State.save (s : State) (c : Nat) (i : BitVec 2) (mask : Option Word) (resumable : Bool) : State :=
  let k := s.getCore c
  let t := k.thread i
  let cont := (t.run.map Cont.id).getD 0
  let frozen := (s.ownerRec ((t.run.map Cont.owner).getD 0)).frozen.isSome && !t.unwind.any Unwind.kill
  let drop := match mask with | some m => !m.getLsbD 0 | none => false
  let lost := if drop then (t.held.filter Held.command).length else 0
  let th := match mask with | some m => t.masked m | none => t
  let th := { th with preempt := none, wait := if t.inWait then t.wait else none, held := if drop then th.held.filter (fun h => !h.command) else th.held }
  let s := (List.range lost).foldl (fun s _ => s.countFault t.launch) s
  s.modCore c (fun k =>
    let k : Core := { k with
      parked := k.parked ++ [⟨th, resumable, s.cycle, frozen, !k.slotFree, 0, true⟩]
      cmds := if drop then k.cmds.map (fun x => if x.cont = cont then { x with mine := false } else x) else k.cmds }
    k.setThread i t.idle)

/-- Whether a thread has an unwind to do that no running handler puts off (R218, R220, R222). -/
def State.unwindPends (s : State) (t : Thread) : Bool :=
  match t.unwind with
  | some u => u.handler.isNone || (s.domain t.domid).state ≠ .live
  | none => false

/-- Parks a thread's continuation, at a safe point with every register live; it becomes resumable at its launch priority (R63, R64). One
that has an unwind to do is resumable at once (R218, R222), and so is one that takes a held cause at this safe point (R41, R139; log entry
79). -/
def State.park (s : State) (c : Nat) (i : BitVec 2) (resumable : Bool) : State :=
  let t := s.getThread c i
  (s.modThread c i (fun t => { t with run := t.run.map (fun r => { r with prio := r.base }), boundary := true, mask := none })).save c i none
    (resumable || s.unwindPends t || (!t.active && !t.held.isEmpty))

/-! ### Selection (R61) -/

/-- The record of the highest priority, the oldest of those. -/
def bestRecord (l : List Record) : Option Record := leastBy (fun r => 3 - r.prio) l

/-- The priority of a parked continuation. -/
def Parked.prio (p : Parked) : Nat := (p.th.run.map Cont.prio).getD 0

/-- The resumable parked continuation of the highest priority, the oldest resume first. -/
def bestParked (l : List Parked) : Option Parked :=
  let l := l.filter (fun p => p.resumable && !p.frozen)
  match leastBy (fun p => 3 - p.prio) l with
  | none => none
  | some b => leastBy Parked.stamp (l.filter (fun p => p.prio = b.prio))

/-- What a thread takes. -/
inductive Choice where
  | resume (p : Parked)
  | start (r : Record)
  deriving DecidableEq, Repr

/-- The better of a resumable parked continuation and a record. -/
def choose (p : Option Parked) (r : Option Record) : Option Choice :=
  match p, r with
  | none, none => none
  | some p, none => some (.resume p)
  | none, some r => some (.start r)
  | some p, some r => if p.prio < r.prio then some (.start r) else some (.resume p)

/-- Whether a core's clock runs: the package is active (R413), and its die's clock is not held (R412). -/
def State.clocked (s : State) (c : Nat) : Bool :=
  s.power = .active && !(s.isCompute c && (s.clocks.toList.getD (coreDie c) ⟨1250, false, false, none⟩).held)

/-- Whether the owner of a core is frozen: none of its records starts (R47). -/
def State.frozenAt (s : State) (c : Nat) : Bool := (s.ownerRec (s.getCore c).owner).frozen.isSome

/-- Step 1 of R61 on a core, with the boundary change of R59; answers the choice and the record a change waits for. -/
def State.chooseOwn (s : State) (c : Nat) : Option Choice × Option Nat :=
  let k := s.getCore c
  let p := bestParked k.parked
  let all := k.queue.filter (fun r => r.owner = k.owner && !r.heldBack && !s.frozenAt c)
  match choose p (bestRecord all) with
  | some (.start r) =>
    if s.pbMatch c r.launch || k.quiet then (some (.start r), k.change)
    else (choose p (bestRecord (all.filter (fun r => s.pbMatch c r.launch))), some r.id)
  | x => (x, k.change)

/-- Whether a core is idle for its present owner (R50). A group fill on its way to its pool belongs to an engine command (R360). -/
def State.idleCore (s : State) (c : Nat) : Bool :=
  let k := s.getCore c
  k.quiet && k.records.isEmpty && k.cmds.isEmpty && s.fills.all (fun f => f.core != c) && k.chans.all Option.isNone &&
    s.streams.all (fun x => x.core != c || x.closing) &&
    s.groups.all (fun g => g.members.all (fun m => m.core != some c || !m.enrolled)) && !k.dbg.halted

/-- Whether a core may take a record from elsewhere (R59): its boundaries match, or the core is idle for the owner, apart from engine, stream
and group state where the record is not held back. -/
def State.mayTake (s : State) (c : Nat) (r : Record) : Bool :=
  let k := s.getCore c
  r.owner = k.owner && !s.frozenAt c &&
    (s.pbMatch c r.launch || (if r.heldBack then s.idleCore c else k.quiet && k.records.isEmpty))

/-- Whether a core's threads may select: it has an owner, or is a hub core, its clock runs, and it stands neither in a scrub nor in a
debug stop. -/
def State.maySelect (s : State) (c : Nat) : Bool :=
  let k := s.getCore c
  (k.valid || !s.isCompute c) && k.scrub.isNone && !k.dbg.halted && s.clocked c

/-- The rank of a core for a record by R56: its distance from the record's target, its queue, its number. -/
def State.rankFor (s : State) (r : Record) (c : Nat) : Nat :=
  coreHops c r.target * 2 ^ 40 + (s.getCore c).queue.length * 2 ^ 20 + c

/-- Whether a core is the nearest of those with an idle thread that may take a held-back record, whichever die's queue holds it (R59, R65;
log entry 71). -/
def State.nearestFor (s : State) (c : Nat) (r : Record) : Bool :=
  s.coreNums.all (fun x => s.rankFor r c ≤ s.rankFor r x ||
    !(s.isCompute x && s.maySelect x && (s.getCore x).threads.any (fun t => t.run.isNone) && s.mayTake x r))

/-- Step 2 of R61: the die whose queue holds the record, and the record. -/
def State.chooseDie (s : State) (c : Nat) : Option (Nat × Record) :=
  let l := s.dieq.filter (fun e => s.mayTake c e.2 && (if e.2.heldBack then s.nearestFor c e.2 else e.1 = coreDie c))
  match bestRecord (l.map Prod.snd) with
  | none => none
  | some b =>
    let l := l.filter (fun e => e.2.prio = b.prio)
    match leastBy (fun e => coreHops c e.2.target) l with
    | none => none
    | some n => leastBy (fun e => e.2.enq) (l.filter (fun e => coreHops c e.2.target = coreHops c n.2.target))

/-- Step 3 of R61: the core to steal from and its record. DESIGN CHOICE (log entry 71): a core queue none of whose records may be taken is
passed over, and the steal is from the fullest of the others. -/
def State.chooseSteal (s : State) (c : Nat) : Option (Nat × Record) :=
  let takes := fun (x : Nat) => (s.getCore x).queue.filter (fun r => r.group.isNone && !r.heldBack && s.mayTake c r)
  let others := s.coreNums.filter (fun x => x != c && s.isCompute x && x / 16 = c / 16 && !(takes x).isEmpty)
  let most := others.foldl (fun n x => max n (s.getCore x).queue.length) 0
  match others.find? (fun x => (s.getCore x).queue.length = most) with
  | none => none
  | some x => (bestRecord (takes x)).map (fun r => (x, r))

/-- Selection by a thread of a core. -/
def State.select (s : State) (c : Nat) (i : BitVec 2) : State :=
  if !s.maySelect c || (s.getThread c i).run.isSome then s
  else
    let (own, wait) := s.chooseOwn c
    let s := s.modCore c (fun k => { k with change := wait })
    match own with
    | some (.resume p) => s.resume c i p
    | some (.start r) => (s.modCore c (fun k => k.dropRecord r)).startRecord c i r
    | none =>
      if !s.isCompute c then s
      else
        match s.chooseDie c with
        | some e => { s with dieq := s.dieq.erase e }.startRecord c i e.2
        | none =>
          match s.chooseSteal c with
          | some (x, r) => (s.modCore x (fun k => k.dropRecord r)).startRecord c i r
          | none => s

/-- Whether a thread of a core would find something to take. -/
def State.canSelect (s : State) (c : Nat) (i : BitVec 2) : Bool :=
  s.maySelect c && (s.getThread c i).run.isNone &&
    ((s.chooseOwn c).1.isSome || (s.isCompute c && ((s.chooseDie c).isSome || (s.chooseSteal c).isSome)))

/-- CONTINUATION_SELECT. -/
def execContinuationSelect (core thr : Nat) (s : State) : Outcome := .next (s.select core (BitVec.ofNat 2 thr))

/-! ### Steps of the queues -/

/-- Whether a record of a core is to be held back (R59): its boundaries differ from the core's, and it has waited long enough; a group member's
record never moves. -/
def State.holdsBack (s : State) (core : Nat) (r : Record) : Bool :=
  r.group.isNone && Config.recordWaitCycles ≤ r.waited && !s.pbMatch core r.launch

/-- RECORD_HOLD_BACK (R59): the record moves from the core queue or its ring to the die queue. -/
def execRecordHoldBack (core : Nat) (rec : Nat) (s : State) : Outcome :=
  match (s.getCore core).records.find? (fun r => r.id = rec && s.holdsBack core r) with
  | none => .next s
  | some r =>
    let s := s.modCore core (fun k => { k.dropRecord r with change := if k.change = some rec then none else k.change })
    .next { s with dieq := s.dieq ++ [(coreDie core, { r with heldBack := true })] }

/-- A promoted record (R62). -/
def Record.promote (r : Record) (now : Nat) : Record := { r with prio := min 3 (r.prio + 1), promo := now }

/-- A promoted parked continuation (R62). -/
def Parked.promote (p : Parked) (now : Nat) : Parked :=
  { p with th := { p.th with run := p.th.run.map (fun r => { r with prio := min 3 (r.prio + 1) }) }, promo := now }

/-- Whether a wait at a priority since a cycle has lasted long enough for a promotion (R62). -/
def promotes (prio since now : Nat) : Bool := prio < 3 && since + Config.promoteCycles ≤ now

/-- Whether a record is to be promoted. -/
def Record.promotes (r : Record) (now : Nat) : Bool := Machine.promotes r.prio r.promo now

/-- Whether a parked continuation is to be promoted. -/
def Parked.promotes (p : Parked) (now : Nat) : Bool := p.resumable && Machine.promotes p.prio (max p.stamp p.promo) now

/-- PRIORITY_PROMOTION (R62): of a record, or of a resumable parked continuation, that has waited long enough. -/
def execPriorityPromotion (core : Nat) (rec : Nat) (s : State) : Outcome :=
  let raise := fun (r : Record) => if r.id = rec && r.promotes s.cycle then r.promote s.cycle else r
  let s := { s with dieq := s.dieq.map (fun e : Nat × Record => (e.1, raise e.2)) }
  .next (s.modCore core (fun k => { k with
    queue := k.queue.map raise
    ring := k.ring.map raise
    parked := k.parked.map (fun p : Parked => if (p.th.run.map Cont.id) = some rec && p.promotes s.cycle then p.promote s.cycle else p) }))

/-- Whether a core's queue holds an eligible record of a priority (R61, R63): one of the core's owner that is not held back, whatever
its boundaries, so that a record whose boundaries differ has its wait counted while the continuation is parked (R59, R65). -/
def State.eligible (s : State) (c : Nat) (prio : Nat) : Bool :=
  let k := s.getCore c
  k.queue.any (fun r => r.owner = k.owner && !r.heldBack && prio ≤ r.prio)

/-- Whether the event that a waiting instruction waits on has come. -/
def State.eventCome (s : State) (t : Thread) (w : WaitRec) : Bool :=
  w.served ≠ .no || (match w.kind with
    | .sleep _ => t.sleepEnd.isSome
    | .room c => decide ((s.getCore c).deferred.length < maxDeferred)
    | .handle die l => l.all (fun e => (s.entry die e).pending.isEmpty)
    | _ => false)

/-- BLOCKED_PARK (R63): a continuation whose event has come is resumable at once. -/
def execBlockedPark (core thr : Nat) (s : State) : Outcome :=
  let i := BitVec.ofNat 2 thr
  let t := s.getThread core i
  match t.wait with
  | some w =>
    if w.kind.parks && t.run.isSome && s.clocked core && Config.parkCycles < w.resident && s.eligible core 0 && (s.getCore core).slotFree then
      .next (s.park core i (s.eventCome t w))
    else .next s
  | none => .next s

end Sys2Proof.Machine
end

