-- ==== Sys2Proof/Machine/Group.lean ====
section
/-! DEFINITION. Multicast groups: GJOIN, GLEAVE, GLOAD and GSTAT, the rounds at the slice, and fills
(spec/12_fed_groups.md R251-R265). -/

namespace Sys2Proof.Machine

/-! ### Groups and members (R251-R253) -/

/-- Whether an identifier's group is this one. -/
def Group.named (g : Group) (die : BitVec 2) (slot gen : BitVec 8) : Bool := g.die = die && g.slot = slot && g.gen = gen

/-- The group with an identifier's fields. -/
def State.groupAt (s : State) (die : BitVec 2) (slot gen : BitVec 8) : Option Group :=
  s.groups.find? (fun g => g.named die slot gen)

/-- Changes a group. -/
def State.modGroup (s : State) (g : Group) (f : Group → Group) : State :=
  { s with groups := s.groups.map (fun x => if x.named g.die g.slot g.gen then f x else x) }

/-- Changes a member of a group. -/
def Group.modMember (g : Group) (m : Nat) (f : Member → Member) : Group :=
  { g with members := g.members.modify m f }

/-- A fault of R253. -/
def groupFault (reason : Nat) : Flt := flt .groupFault (BitVec.ofNat 64 reason)

/-- The identifier of a group (R251). -/
def Group.ident (g : Group) : Word := 0#32 ++ g.gen ++ 0#14 ++ g.die ++ g.slot

/-- The group an identifier names, with the executing member's index and record: reasons 1 to 4 of R253 in order. -/
def State.member (s : State) (x : Word) (enrolled : Bool) : Ex (Group × Nat × Member) :=
  let bad := x.extractLsb' 32 32 ≠ 0 || x.extractLsb' 10 14 ≠ 0
  match if bad then none else s.groupAt (x.extractLsb' 8 2) (x.extractLsb' 0 8) (x.extractLsb' 24 8) with
  | none => raise (groupFault 1)
  | some g =>
    match s.me.run.bind Cont.group with
    | none => raise (groupFault 2)
    | some r =>
      match if g.named r.die r.slot r.gen then g.members[r.member]? else none with
      | none => raise (groupFault 2)
      | some m => do
        faultIf (enrolled && !m.enrolled) (groupFault 3)
        faultIf (decide (s.me.depth ≠ 0)) (groupFault 4)
        .ok (g, r.member, m)

/-- The required count of a round: a member that has left is not waited for from the first round on that it had not joined, and joining the
group again does not raise the count (R254). -/
def Group.required (g : Group) (round : Nat) : Nat :=
  g.size - (g.members.filter (fun m => match m.left with | some n => decide (n ≤ round) | none => false)).length

/-! ### Reading the source (R258) -/

/-- The translations of the pages of a source, with a domain's rights at user level. -/
def State.sourcePages (s : State) (dom : BitVec 8) : List Nat → Ex (List (Nat × Nat) × State)
  | [] => .ok ([], s)
  | v :: r => do
    let va := BitVec.ofNat 64 v
    let ((pa, _), s) ← s.checkPa { size := 1, align := 1 } dom .user va va
    let (l, s) ← s.sourcePages dom r
    .ok ((v / 65536, pa - v % 65536) :: l, s)

/-- The owner of a group's launch, whose slots its traffic uses (R258). -/
def State.groupOwner (s : State) (g : Group) : BitVec 4 := ((s.launchOf g.launch).map Launch.owner).getD 0

/-- Whether the slice of the group's die that homes a line grants no slot to the group's owner (R54, R258). -/
def State.sliceBarred (s : State) (g : Group) (pa : Nat) : Bool := !s.granted (s.groupOwner g) (.slicePort g.die.toNat (sliceOf pa))

/-- The bytes of whole lines from an address on, as the slices of a group's die read them. -/
def State.sourceLines (s : State) (g : Group) (xlat : List (Nat × Nat)) (va : Nat) : Nat → Run (List Byte × State)
  | 0 => .ok ([], s)
  | n + 1 => do
    let pa := paUnder xlat va
    s.memStop (s.sliceBarred g pa) pa (BitVec.ofNat 64 va) 0
    let (x, s) ← s.lineRead pa 128 (BitVec.ofNat 64 va) 0
    let (l, s) ← s.sourceLines g xlat (va + 128) n
    .ok ((placed 0 128 x).map Prod.snd ++ l, s)

/-- A source as the slices read it, with its physical address. A page in motion stalls the read. -/
def State.readSource (s : State) (g : Group) (src : Word) (len : Nat) : Run ((List Byte × Nat) × State) :=
  match s.sourcePages g.domain (pagesOf src.toNat len) with
  | .error (.fault f) => .error (.fault f.cause f.addr f.info.toNat)
  | .error (.hold (some (.moving va))) => .error (.moving va 0)
  | .error _ => .error .stall
  | .ok (xlat, s) =>
    match xlat.find? (fun p => s.inMotion (cellOf p.2)) with
    | some p => .error (.moving (BitVec.ofNat 64 (p.1 * 65536)) 0)
    | none => do
      let (bytes, s) ← s.sourceLines g xlat src.toNat (len / 128)
      .ok ((bytes, paUnder xlat src.toNat), s)

/-- Whether a read that stalls has stalled for 50 µs (R292). -/
def stalledLong (since : Option Nat) (now : Nat) : Bool :=
  match since with
  | some n => n + stallLimit ≤ now
  | none => false

/-! ### Outcomes of a GLOAD (R256, R264) -/

/-- Records what has come of the GLOAD of a continuation; one whose continuation is gone is dropped. -/
def State.serveGload (s : State) (q : GReq) (v : Served) : State :=
  let k := s.getCore q.core
  let here := (k.runner q.cont).isSome || k.parked.any (fun p => (p.th.run.map Cont.id) = some q.cont)
  let s := s.modCore q.core (fun k => { k with
    cmds := if here then k.cmds.map (fun x => if x.eng = .group && x.cont = q.cont then { x with served := v } else x)
      else k.cmds.filter (fun x => !(x.eng = .group && x.cont = q.cont)) })
  s.completeWhen (fun w => w = .ground) q.cont v

/-- Counts a message that a die's dispatcher or slice sends for a launch (R401). -/
def Launch.sendAt (l : Launch) (die : BitVec 2) : Launch :=
  { l with sent := l.sent.set die.toNat (l.sent[die.toNat]'die.isLt + 1) die.isLt }

/-- A fill on its way to an asker's pool, with its bytes and their source; the slice's die counts it as sent (R401). -/
def State.sendFill (s : State) (q : GReq) (off : Nat) (bytes : List Byte × Nat) : State :=
  let (id, s) := s.newId
  let f : Fill := ⟨id, q.die, q.slot, q.gen, q.member, q.round, q.core, q.cont, q.launch, bytes.2, off, bytes.1, q.ksig, q.inc⟩
  ({ s with fills := s.fills ++ [f] }.modLaunch q.launch (fun l => l.sendAt q.die)).post (.groupFill id)

/-- The trace record of a member's completed round (R399, R408). -/
def State.traceRound (s : State) (g : Group) (q : GReq) (part late : Bool) : State :=
  match (s.getCore q.core).runner q.cont with
  | some i => s.traceAs q.core i (some 3) 4 g.ident (0#30 ++ BitVec.ofBool late ++ BitVec.ofBool part ++ BitVec.ofNat 32 q.round)
  | none => s

/-- An asker's GLOAD completes: its counter, its status, its fill and its trace record. -/
def State.fulfil (s : State) (g : Group) (q : GReq) (off : Nat) (bytes : List Byte × Nat) (part late aged : Bool) (asked : Nat) : State :=
  let s := s.modGroup g (fun g => g.modMember q.member (fun m =>
    { m with counter := q.round + 1, late := late, aged := aged, part := part, skipped := false, asked := asked }))
  ((s.traceRound g q part late).serveGload q .done).sendFill q off bytes

/-- A fault of a round for one asker. -/
def State.refuse (s : State) (q : GReq) (f : Flt) : State := s.serveGload q (.fault f)

/-- The rounds a slice remembers (R258). -/
abbrev roundsKept : Nat := 8

/-- A group whose open round is discarded stays at that round: a member that has joined while it was being released has not passed it
(R254). -/
def Group.stay (g : Group) : Group :=
  { g with
    open_ := none
    members := g.members.map (fun m => { m with counter := min m.counter g.round, left := m.left.map (fun n => min n (g.round + 1)) }) }

/-- A round is discarded, and every asker takes the fault (R260); requests for the round after it are requests for it now. -/
def State.discardRound (s : State) (g : Group) (o : Round) (f : Flt) : State :=
  let s := s.modGroup g Group.stay
  o.askers.foldl (fun s q => s.refuse q f) { s with
    greqs := s.greqs.map (fun q => if g.named q.die q.slot q.gen then { q with round := min q.round g.round } else q) }

/-- Leaves the release of a round until the read of its source goes on. -/
def State.releaseLater (s : State) (g : Group) (o : Round) : State :=
  (s.modGroup g (fun g => { g with open_ := some o })).post (.groupTimerExpiry g.die.toNat g.slot)

/-- Releases a round, or discards it when its check fails (R258, R260). A source that stalls leaves the round open, and
the release is tried again, until it has stalled for 50 µs (R292); whether it is one by timer is settled at the first try. -/
def State.releaseRound (s : State) (g : Group) (o : Round) (timer : Bool) : State :=
  let timer := o.timed.getD timer
  match s.readSource g o.src o.len with
  | .error (.fault cause addr info) => s.discardRound g o ⟨cause, addr, BitVec.ofNat 64 info⟩
  | .error (.moving va _) =>
    if stalledLong o.stall s.ns then s.discardRound g o (fltAt .migrationTimeout va 0)
    else s.releaseLater g { o with timed := some timer, stall := some (o.stall.getD s.ns) }
  | .error _ => s.releaseLater g { o with timed := some timer }
  | .ok (bytes, s) =>
    let s := s.modGroup g (fun g => { g with
      round := g.round + 1
      open_ := none
      past := ((g.round, o.src, o.len, o.off) :: g.past).take roundsKept })
    o.askers.foldl (fun s q => s.fulfil g q o.off bytes timer false false o.askers.length) s

/-- Whether the timer of a group's open round has run out. What comes in the cycle in which it does still counts, so that a release by
count goes before one by timer (R258; log entry 48). -/
def Group.expired (g : Group) (now : Nat) : Bool :=
  match g.open_ with
  | some o => g.timer ≠ 0 && o.since + g.timer < now
  | none => false

/-- Whether the open round of a group is being released, so that nothing more counts for it. -/
def Group.releasing (g : Group) (now : Nat) : Bool :=
  g.expired now || (match g.open_ with | some o => o.timed.isSome | none => false)

/-- Releases the open round of a group if its count of askers meets the required count. -/
def State.releaseByCount (s : State) (g : Group) : State :=
  match s.groupAt g.die g.slot g.gen with
  | none => s
  | some g =>
    match g.open_ with
    | some o => if !g.releasing s.cycle && g.required g.round ≤ o.askers.length then s.releaseRound g o false else s
    | none => s

/-- The open round of a group whose timer has run out is released before anything that comes later counts for it (R258). -/
def State.releaseExpired (s : State) (g : Group) : State :=
  match g.open_ with
  | some o => if g.expired s.cycle then s.releaseRound g o (!decide (g.required g.round ≤ o.askers.length)) else s
  | none => s

/-- The members of a group whose GLOAD has started and has not sent its request (R256). -/
def State.asking (s : State) (g : Group) : List Nat :=
  (s.cores.map (fun e => e.2.cmds.filterMap (fun x =>
    match x.op with
    | .gload die slot gen member _ _ _ => if g.named die slot gen && x.running && !x.done then some member else none
    | _ => none))).flatten

/-- The slots of groups that every member has left are free (R251, R254), once no request for a round of them is under way. -/
def State.freeGroups (s : State) : State :=
  { s with groups := s.groups.filter (fun x => !(x.open_.isNone && x.members.all (fun y => y.left.isSome && !y.enrolled) &&
      s.greqs.all (fun q => !x.named q.die q.slot q.gen) && (s.asking x).isEmpty)) }

/-- The first round that a member has not joined: it has joined the one that it has asked for, be its request about to be sent, on its way
or counted. -/
def State.unjoined (s : State) (g : Group) (m : Nat) : Nat :=
  let mine := (s.greqs.filter (fun q => g.named q.die q.slot q.gen) ++ (g.open_.map Round.askers).getD []).filter (fun q => q.member = m)
  let next := if (s.asking g).contains m then ((g.members[m]?).map Member.counter).getD 0 + 1 else 0
  mine.foldl (fun n q => max n (q.round + 1)) (max next g.round)

/-- A member leaves (R254), after a round whose timer has run out is released; one that has left before lowers no count again. -/
def State.leaveGroup (s : State) (g : Group) (m : Nat) : State :=
  let s := s.releaseExpired g
  match s.groupAt g.die g.slot g.gen with
  | none => s
  | some g =>
    let n := s.unjoined g m
    ((s.modGroup g (fun g => g.modMember m (fun x => { x with enrolled := false, left := some (x.left.getD n) }))).releaseByCount g).freeGroups

/-- A continuation that ends or is killed leaves its group (R254). -/
def State.leaveAll (s : State) (r : Option GRef) : State :=
  match r with
  | none => s
  | some r =>
    match s.groupAt r.die r.slot r.gen with
    | none => s
    | some g =>
      match g.members[r.member]? with
      | some m => if m.left.isSome && !m.enrolled then s else s.leaveGroup g r.member
      | none => s

/-! ### The instructions -/

/-- GJOIN: a round whose timer has run out counts as released. -/
def execGjoin (d a : R) (s : State) : Outcome :=
  settle s (do
    let x ← s.me.rdG a
    let (g, i, m) ← s.member x false
    s.me.freeG d
    if m.enrolled then .ok (s.modMe (fun t => t.setG d 1)).fell
    else
      let s := s.releaseExpired g
      let s := s.modGroup g (fun g => g.modMember i (fun m => { m with
        enrolled := true, core := some s.act.core, counter := if g.releasing s.cycle then g.round + 1 else g.round }))
      .ok (s.modMe (fun t => t.setG d 0)).fell)

/-- GLEAVE. -/
def execGleave (a : R) (s : State) : Outcome :=
  settle s (do
    let x ← s.me.rdG a
    let (g, i, _) ← s.member x true
    .ok (s.leaveGroup g i).fell)

/-- GSTAT (R265). -/
def execGstat (d a : R) (s : State) : Outcome :=
  settle s (do
    let x ← s.me.rdG a
    let (g, _, m) ← s.member x false
    let v : Word := 0#23 ++ BitVec.ofBool m.enrolled ++ 0#4 ++ BitVec.ofBool m.skipped ++ BitVec.ofBool m.aged ++
      BitVec.ofBool m.part ++ BitVec.ofBool m.late ++ BitVec.ofNat 16 m.counter ++ BitVec.ofNat 8 (min 255 m.asked) ++
      BitVec.ofNat 8 (g.required m.counter)
    let t ← s.me.wrG d v
    .ok (s.setMe t).fell)

/-- GLOAD (R255, R256). One whose request stands from before an interruption sends no second one (R264). -/
def execGload (d a b : R) (p : P) (e : EngF) (s : State) : Outcome :=
  settle s (do
    match s.core.cmds.find? (fun x => x.eng = .group && x.cont = s.cont) with
    | some x =>
      let s' := s.modCore1 (fun k => { k with cmds := k.cmds.filter (fun y => y.id != x.id) })
      match x.served with
      | .no => .error (.hold (some .ground))
      | .fault f => .error (.faultIn s' f)
      | .done | .value _ | .handle _ => .ok s'.fell
    | none => do
      s.engReady .group
      let x ← s.me.rdG a
      let (g, i, _) ← s.member x true
      let len ← s.me.rdG d
      faultIf (len.toNat % 128 ≠ 0 || len.toNat < 128 || 65536 < len.toNat) (groupFault 5)
      let src ← s.me.rdG b
      faultIf (src.toNat % 128 ≠ 0) (fltAt .misaligned src 0)
      let ptr := s.me.rdP p
      s.poolSpan ptr (ptrOffset ptr) len.toNat 128 (fun _ => true) [1] true
      let (xlat, s) ← s.globalSpan { size := 1, align := 1 } src len.toNat
      if s.barred s.core.owner (toSlice s.act.core g.die.toNat (sliceOf (paUnder xlat src.toNat))) then .error (.hold none)
      let s ← s.release (scopeOf e.sc)
      .ok ((s.submit .group (.gload g.die g.slot g.gen i src len.toNat (ptrOffset ptr)) e [] []).waits (some .ground)))

/-! ### Steps of the slice -/

/-- Reads the source anew for one member. -/
def State.fillLate (s : State) (g : Group) (q : GReq) (aged : Bool) : State :=
  match s.readSource g q.src q.len with
  | .error (.fault cause addr info) => s.refuse q ⟨cause, addr, BitVec.ofNat 64 info⟩
  | .error (.moving va _) =>
    if stalledLong q.stall s.ns then s.refuse q (fltAt .migrationTimeout va 0)
    else { s with greqs := { q with stall := some (q.stall.getD s.ns) } :: s.greqs }.post (.groupRequest q.id)
  | .error _ => { s with greqs := q :: s.greqs }.post (.groupRequest q.id)
  | .ok (bytes, s) => s.fulfil g q q.off bytes false true aged 1

/-- A late request (R259): matched against the record of its round while the slice keeps it. -/
def State.lateRequest (s : State) (g : Group) (q : GReq) : State :=
  match g.past.find? (fun r => r.1 = q.round) with
  | some r =>
    if r.2 ≠ (q.src, q.len, q.off) then s.refuse q (fltAt .groupMismatch q.src 0)
    else s.fillLate g q false
  | none => s.fillLate g q true
/-- A request reaches its group's slice (R257-R259). -/
def State.takeRequest (s : State) (g : Group) (q : GReq) : State :=
  if q.round < g.round then s.lateRequest g q
  else
    match g.open_ with
    | none => (s.modGroup g (fun g => { g with open_ := some ⟨q.src, q.len, q.off, s.cycle, [q], none, none⟩ })).releaseByCount g
    | some o =>
      if g.releasing s.cycle then { s with greqs := q :: s.greqs }.post (.groupRequest q.id)
      else if (o.src, o.len, o.off) ≠ (q.src, q.len, q.off) then s.refuse q (fltAt .groupMismatch q.src 0)
      else (s.modGroup g (fun g => { g with open_ := some { o with askers := o.askers ++ [q] } })).releaseByCount g

/-- GROUP_REQUEST. -/
def execGroupRequest (req : Nat) (s : State) : Outcome :=
  match s.greqs.find? (fun q => q.id = req) with
  | none => .next s
  | some q =>
    let s := { s with greqs := s.greqs.erase q }
    match s.groupAt q.die q.slot q.gen with
    | none => .next (s.serveGload q .done)
    | some g =>
      let s := s.releaseExpired g
      match s.groupAt q.die q.slot q.gen with
      | none => .next (s.serveGload q .done)
      | some g => .next (s.takeRequest g q).freeGroups

/-- GROUP_TIMER_EXPIRY (R258): a release by count comes first when both hold. -/
def execGroupTimerExpiry (die : Nat) (slot : BitVec 8) (s : State) : Outcome :=
  match s.groups.find? (fun g => g.die.toNat = die && g.slot = slot) with
  | none => .next s
  | some g =>
    match g.open_ with
    | none => .next s
    | some o =>
      if o.timed.isSome || g.required g.round ≤ o.askers.length then .next (s.releaseRound g o false).freeGroups
      else if g.expired s.cycle then .next (s.releaseRound g o true).freeGroups
      else .next s

/-! ### Fills (R261, R262) -/

/-- The command that a fill's overflow is reported for. -/
def Fill.command (f : Fill) (dom : BitVec 8) (owner : BitVec 4) : Cmd :=
  ⟨f.id, .group, .gload f.die f.slot f.gen f.member 0 0 f.off, ⟨.c, 0, 0, f.ksig, f.inc⟩, f.cont, f.launch, owner, dom, .user, 0,
    true, true, true, none, [], [], [], .no, none, []⟩

/-- Writes the words of a fill that are not marked; answers whether one was. -/
def State.fillWords (s : State) (c off : Nat) (bytes : List Byte) : Bool × State :=
  (List.range (bytes.length / 8)).foldl (fun r i =>
    let w := off + 8 * i
    if (r.2.getCore c).marks.contains w then (true, r.2)
    else
      let s := r.2.modCore c (fun k => k.putAt w (((bytes.drop (8 * i)).take 8).zipIdx.map (fun b => (b.2, b.1))))
      (r.1, (s.feSet c w true).serve c w)) (false, s)

/-- Where a fill is accounted (R55, R406): at the slice of the own die that homes its source, or, from another die, at the source's home. -/
def Fill.dest (f : Fill) : Nat := if f.die.toNat = coreDie f.core then sliceOf f.pa else homeDest f.pa

/-- Whether a link on which a fill reaches its core, from the slice of the group's die that homes its source, grants an owner no slot (R54,
R258, R267). -/
def State.fillBarred (s : State) (f : Fill) (o : BitVec 4) : Bool := s.barred o (fromSlice f.die.toNat (sliceOf f.pa) f.core)

/-- What arrives at a core and does not get its turn: it queues at the port, or waits outside while the port is full (R394). -/
def State.queueAt (s : State) (c : Nat) (x : PortItem) (again : Instr) : State :=
  if (s.getCore c).portRoom then s.modCore c (fun k => k.portPut x) else s.post again

/-- GROUP_FILL: it lands whatever its member does; a halted core holds it, and a core that is not the owner's, or is
being scrubbed, discards it (R394, R405). -/
def execGroupFill (fill : Nat) (s : State) : Outcome :=
  match s.fills.find? (fun f => f.id = fill) with
  | none => .next s
  | some f =>
    let owner := ((s.launchOf f.launch).map Launch.owner).getD (s.getCore f.core).owner
    if s.fillBarred f owner then .next (s.post (.groupFill fill))
    else
    match s.portTurn f.core (.fill fill) with
    | none => .next (s.queueAt f.core (.fill fill) (.groupFill fill))
    | some s =>
      let k := s.getCore f.core
      let dom := ((s.launchOf f.launch).map (fun l => hdrDomain l.header)).getD 0
      let s := { s with fills := s.fills.erase f }.modCore f.core (fun k => k.count f.launch 0 1)
      if !(k.valid && k.owner = owner && k.scrub.isNone) then .next s
      else
        let (skipped, s) := s.fillWords f.core f.off f.bytes
        let s := match s.groupAt f.die f.slot f.gen with
          | some g => s.modGroup g (fun g => g.modMember f.member (fun m =>
              { m with skipped := m.skipped || (skipped && m.counter = f.round + 1) }))
          | none => s
        let s := (s.accountAt f.core [some f.dest]).signal f.core (f.command dom owner)
        .next (s.modCore f.core (fun k => k.event s.cycle))

end Sys2Proof.Machine
end

