-- ==== Sys2Proof/Machine/Fetch.lean ====
section
/-! DEFINITION. Fetch (spec/04_fetched.md R66-R70, R84-R86) and what completes an instruction: the end step of
hardware loops and their deactivation (spec/06_issued_control.md R135, R136). -/

namespace Sys2Proof.Machine

/-! ### Fetching a line (R85, R182) -/

/-- A leaf's rights for a fetch: x, usr, and no exclusive page. -/
def fetchOk (leaf : Word) (l : Level) : Bool := leaf.getLsbD 59 && (leaf.getLsbD 56 || l != .user) && !leaf.getLsbD 60

/-- The halfwords of a line of memory. -/
def State.lineHalves (s : State) (cell : Nat) : List Half :=
  let x := s.bytesAt cell 64
  (List.range 32).map (fun i => BitVec.ofNat 16 (x / 2 ^ (16 * i)))

/-- The image of a line of global memory, read whole with a thread's domain and level; faults are reported at `loc`. -/
def State.readLine (s : State) (t : Thread) (line loc : Word) : Ex (FetchLine × State) :=
  let (r, s) := s.translate t.domid line.toNat
  match r with
  | .error n => .error (walkStop n loc (fun n => fltAt .pageNotPresent loc (BitVec.ofNat 64 (16 * n))))
  | .ok (pa, leaf) =>
    let cell := cellOf pa
    if !fetchOk leaf t.level then raise (fltAt .pageRights loc (if leaf.getLsbD 60 then 2 else 0))
    else if s.denied.contains (t.domid, frameOf cell) then raise (fltAt .domainRights loc 0x20)
    else if paSpace pa = 3 && s.hostDown then raise (flt .hostLinkDown 0)
    else if s.inMotion cell then .error (.hold (some (.moving loc)))
    else if s.lineOwned cell then .error (.hold none)
    else if s.starved (leaf.getLsbD 61 || paSpace pa = 4) pa then .error (.hold none)
    else do
      let dests := destsOf pa (leaf.getLsbD 61 || paSpace pa = 4)
      (s.account dests).keep (s.soundLine cell)
      let s := s.recall (lineOf cell)
      .ok (⟨line, s.lineHalves cell⟩, s.account dests)

/-- Lines that a fetch buffer holds: the executing one and four ahead. -/
abbrev bufferLines : Nat := 5

/-- Puts a line into a fetch buffer. -/
def bufferPut (b : List FetchLine) (l : FetchLine) : List FetchLine :=
  let r := b.filter (fun x => x.line != l.line) ++ [l]
  r.drop (r.length - bufferLines)

/-- The line of a location. -/
def lineAddr (pc : Word) : Word := pc &&& 0xFFFFFFFFFFFFFFC0

/-- The slot of a location. -/
def slotOf (pc : Word) : Nat := (pc.extractLsb' 1 5).toNat

/-- Fetches ahead the lines that have a newer image than the buffer holds; which of them is a free value, and no fault
is taken. -/
def State.fetchAhead (s : State) (c : Nat) (i : BitVec 2) (line : Word) : Nat → State
  | 0 => s
  | n + 1 =>
    let s := s.fetchAhead c i line n
    let t := s.getThread c i
    let va := line + BitVec.ofNat 64 (64 * (n + 1))
    if classOf va ≠ .global then s
    else
      match s.readLine t va va with
      | .error _ => s
      | .ok (l, s') =>
        if t.fetch.contains l then s
        else if s.free % 2 = 0 then s.spent
        else s'.spent.modThread c i (fun t => { t with fetch := bufferPut t.fetch l })

/-- What a thread's fetch buffer holds for its next head: after a resumption nothing but the image of a waiting instruction. -/
def Thread.buffer (t : Thread) : List FetchLine := if t.inLine = resumedLine && !t.inWait then [] else t.fetch

/-- Puts an image into a thread's fetch buffer, as that of the line it executes in. -/
def Thread.useLine (t : Thread) (l : FetchLine) : Thread :=
  { t with fetch := bufferPut t.buffer l, inLine := if t.inLine = resumedLine && t.inWait then resumedLine else l.line }

/-- The image that a thread executes at a location: while it stays in a line, the one image of that line (R85); where it enters a line,
the one its buffer holds, or a newer one (R86). The checks of R69 on the address come first. -/
def State.fetchImage (s : State) (c : Nat) (i : BitVec 2) (pc loc : Word) : Ex (List Half × State) :=
  let t := s.getThread c i
  if pc.getLsbD 0 || slotOf pc = 0 then raise (fltAt .lineFormat loc 1)
  else
    match classOf pc with
    | .none => raise (fltAt .pageNotPresent loc 0x10)
    | .own | .remote | .window => raise (fltAt .pageRights loc 0x10)
    | .global =>
      let line := lineAddr pc
      match t.buffer.find? (fun l => l.line = line) with
      | some l =>
        let held := s.modThread c i (fun t => t.useLine l)
        if t.inLine = line || t.inLine = resumedLine then .ok (l.half, held)
        else
          match s.readLine t line loc with
          | .error _ => .ok (l.half, held)
          | .ok (l', s') =>
            if l' = l then .ok (l.half, held)
            else if s.free % 2 = 0 then .ok (l.half, held.spent)
            else .ok (l'.half, s'.spent.modThread c i (fun t => t.useLine l'))
      | none => do
        let (l, s) ← s.readLine t line loc
        .ok (l.half, s.modThread c i (fun t => t.useLine l))

/-- The well-formed line of a location whose slot holds a head (R68, R69). -/
def State.fetch (s : State) (c : Nat) (i : BitVec 2) (pc : Word) : Ex (List Half × State) := do
  let (l, s) ← s.fetchImage c i pc pc
  match lineBad l with
  | some n => raise (fltAt .lineFormat pc (BitVec.ofNat 64 n))
  | none =>
    if (lineHeads l).length < slotOf pc then raise (fltAt .lineFormat pc 1)
    else .ok (l, s.fetchAhead c i (lineAddr pc) ((s.getThread c i).sys.fetchctl &&& 7).toNat)

/-- The location after a location in its line (R70). -/
def nextLoc (line : List Half) (pc : Word) : Word :=
  if slotOf pc < (lineHeads line).length then pc + 2 else lineAddr pc + 66

/-! ### Completing an instruction (R135, R136) -/

/-- Inserts a loop into a list that is in order of age, newest first. -/
def putByAge (x : Fin 3 × Loop) : List (Fin 3 × Loop) → List (Fin 3 × Loop)
  | [] => [x]
  | y :: r => if y.2.age < x.2.age then x :: y :: r else y :: putByAge x r

/-- The loops of a thread, newest first, with their numbers. -/
def Thread.loopsByAge (t : Thread) : List (Fin 3 × Loop) :=
  (([0, 1, 2] : List (Fin 3)).map (fun n => (n, t.lc[n]))).foldr putByAge []

/-- The end step at a location: the newest loop that ends there loops back or reaches zero, and then the next one. -/
def endLoops (loc : Word) : List (Fin 3 × Loop) → Thread → Thread
  | [], t => t
  | (n, l) :: r, t =>
    if !l.active || l.stop ≠ loc then endLoops loc r t
    else
      let count := l.count - 1
      if count ≠ 0 then { t with lc := t.lc.set n { l with count := count }, pc := l.start }
      else endLoops loc r { t with lc := t.lc.set n { l with count := count, active := false } }

/-- Loops whose body does not contain the next location become inactive. -/
def Thread.leaveLoops (t : Thread) : Thread :=
  { t with lc := t.lc.map (fun l => if l.active && (t.pc.ult l.start || l.stop.ult t.pc) then { l with active := false } else l) }

/-- What completes the instruction at a location of a thread, by how it ended. DESIGN CHOICE (log entry 76): the loops that ERET and GRET
restore are not tested against the location where the thread goes on (R136). -/
def Thread.finish (t : Thread) (loc : Word) (o : Out) : Thread :=
  match o with
  | .fell => (endLoops loc t.loopsByAge t).leaveLoops
  | .jumped => t.leaveLoops
  | .crossed | .trapped | .waits | .retired => t

/-- Completes the executing instruction, which fell through, inside its meaning: what follows needs the boundary. -/
def State.complete (s : State) : State :=
  let loc := s.here
  (s.fell.modMe (fun t => t.finish loc .fell)).out .trapped

/-- Delivers a cause after the executing instruction (R140, R399). DESIGN CHOICE (log entry 50): the boundary after it, which is the handler's
first, is no safe point under the live mask of a head with sp = 1 (R75). -/
def State.trapAfter (s : State) (f : Flt) : State :=
  let s := s.complete
  (s.deliver s.act.core s.act.thr f false s.me.pc).out .trapped

end Sys2Proof.Machine
end

