-- ==== Sys2Proof/Machine/Control.lean ====
section
/-! DEFINITION. Control flow, hardware loops, continuations, traps, waits and fences, majors 0x00 to 0x0C and 0x0E
(spec/06_issued_control.md R127-R143; spec/02_launched.md R36-R38; spec/01_described_work.md R26-R28). -/

namespace Sys2Proof.Machine

/-- NOP. -/
def execNop (s : State) : Outcome := .next s.fell

/-! ### Branches and calls (R128-R131) -/

/-- A taken branch, with its trace record (R399). -/
def State.branch (s : State) (target : Word) : State := (s.traceAs s.act.core s.act.thr (some 0) 1 s.here target).jump target

/-- A conditional branch of two registers. -/
def branchIf (f : Word → Word → Bool) (a b : R) (off : BitVec 16) (s : State) : Outcome :=
  settle s (do
    let (x, y) ← s.me.rd2 a b
    .ok (if f x y then s.branch (s.target off) else s.fell))

/-- A branch on one bit of a register. -/
def branchBit (sense : Bool) (a : R) (k : BitVec 6) (off : BitVec 16) (s : State) : Outcome :=
  settle s (do
    let x ← s.me.rdG a
    .ok (if x.getLsbD k.toNat = sense then s.branch (s.target off) else s.fell))

/-- BR. -/
def execBr (off : BitVec 27) (s : State) : Outcome := .next (s.branch (s.target off))
/-- BEQ. -/
def execBeq (a b : R) (off : BitVec 16) (s : State) : Outcome := branchIf (fun x y => x == y) a b off s
/-- BNE. -/
def execBne (a b : R) (off : BitVec 16) (s : State) : Outcome := branchIf (fun x y => x != y) a b off s
/-- BLT. -/
def execBlt (a b : R) (off : BitVec 16) (s : State) : Outcome := branchIf (fun x y => x.slt y) a b off s
/-- BGE. -/
def execBge (a b : R) (off : BitVec 16) (s : State) : Outcome := branchIf (fun x y => !x.slt y) a b off s
/-- BLTN. -/
def execBltn (a b : R) (off : BitVec 16) (s : State) : Outcome := branchIf (fun x y => x.ult y) a b off s
/-- BGEN. -/
def execBgen (a b : R) (off : BitVec 16) (s : State) : Outcome := branchIf (fun x y => !x.ult y) a b off s
/-- BBS. -/
def execBbs (a : R) (k : BitVec 6) (off : BitVec 16) (s : State) : Outcome := branchBit true a k off s
/-- BBC. -/
def execBbc (a : R) (k : BitVec 6) (off : BitVec 16) (s : State) : Outcome := branchBit false a k off s

/-- CALL. -/
def execCall (d : R) (off : BitVec 27) (s : State) : Outcome :=
  settle s (do
    let t ← s.me.wrG d s.act.next
    .ok ((s.setMe t).branch (s.target off)))

/-- JR and RET. -/
def jumpTo (a : R) (s : State) : Outcome :=
  settle s (do
    let x ← s.me.rdG a
    .ok (s.branch x))

/-- JR. -/
def execJr (a : R) (s : State) : Outcome := jumpTo a s
/-- CALLR: ga is read before the link is written. -/
def execCallr (d a : R) (s : State) : Outcome :=
  settle s (do
    let x ← s.me.rdG a
    let t ← s.me.wrG d s.act.next
    .ok ((s.setMe t).branch x))
/-- RET. -/
def execRet (a : R) (s : State) : Outcome := jumpTo a s

/-! ### Hardware loops (R134) -/

/-- The age of a loop that starts now. -/
def Thread.nextAge (t : Thread) : Nat := (t.lc.toList.map Loop.age).foldl max 0 + 1

/-- Replaces a loop. -/
def Thread.setLoop (t : Thread) (n : Fin 3) (l : Loop) : Thread := { t with lc := t.lc.set n l }

/-- A skip to a line that does not hold the end location: the loops are left as by a transfer there (R136), and the fault is taken. -/
def State.skipFault (s : State) (f : Flt) (e : Word) : State :=
  (((s.jump e).modMe Thread.leaveLoops).deliver s.act.core s.act.thr f false e).out .trapped

/-- LOOP and LOOPI with their count. A skip whose line does not hold the end location faults at that location, after
the instruction has completed. -/
def loopForm (n : Fin 3) (cnt : Ex Word) (off : BitVec 16) (s : State) : Outcome :=
  settle s (do
    let t := s.me
    let num : Word := BitVec.ofNat 64 (4 * n.val)
    faultIf (t.lc.toList.any (fun l => l.active && l.stop = s.here)) (flt .loopState (num ||| 1))
    let e := s.target off
    faultIf (off.sle 0 || slotOf e = 0) (flt .loopState (num ||| 2))
    let c ← cnt
    if c ≠ 0 then .ok (s.modMe (fun t => t.setLoop n ⟨c, s.act.next, e, true, t.nextAge⟩)).fell
    else
      let s := s.modMe (fun t => t.setLoop n zeroLoop)
      match s.fetch s.act.core s.act.thr e with
      | .ok (line, s) => .ok (s.jump (nextLoc line e))
      | .error (.hold w) => .error (.hold w)
      | .error (.fault f) => .ok (s.skipFault f e)
      | .error (.faultIn s f) => .ok (s.skipFault f e))

/-- LOOP. -/
def execLoop (n : Fin 3) (a : R) (off : BitVec 16) (s : State) : Outcome := loopForm n (s.me.rdG a) off s
/-- LOOPI. -/
def execLoopi (n : Fin 3) (cnt : BitVec 10) (off : BitVec 16) (s : State) : Outcome :=
  loopForm n (.ok (cnt.setWidth 64)) off s

/-! ### Spawning (R137) -/

/-- A record of a running continuation's launch: its owner, and the launch's priority without promotion. -/
def State.childRecord (s : State) (w : List Word) (id : Nat) (prio : Nat) : Record :=
  { id := id, code := w.getD 0 0, frame := w.getD 1 0, join := w.getD 2 0, workId := w.getD 3 0, launch := s.me.launch,
    owner := (s.me.run.map Cont.owner).getD s.core.owner, prio := prio, group := none, target := s.act.core, enq := s.cycle,
    promo := s.cycle, waited := 0, heldBack := false, made := false }

/-- SPAWN and SPAWNL. DESIGN CHOICE (log entry 72): HANDLE_STORE of gd comes before the faults of reading the record, since R94 and R137 do not
order them. -/
def spawnForm (near : Bool) (d a : R) (s : State) : Outcome :=
  settle s (do
    let x ← s.me.rdG a
    faultIf (x.toNat % 32 ≠ 0) (fltAt .misaligned x 0)
    s.me.freeG d
    if s.me.depth ≠ 0 then .ok (s.modMe (fun t => t.setG d 3)).fell
    else do
      let (w, s) ← s.readWords (fun _ => none) x 4
      let here := near || !s.isCompute s.act.core
      let c := if here then s.act.core else (s.hashTarget s.core.owner (w.getD 3 0)).getD s.act.core
      if (s.getCore c).queueFull then .ok (s.modMe (fun t => t.setG d 1)).fell
      else do
        let s ← s.release .p
        let (id, s) := s.newId
        let r := s.childRecord w id ((s.me.run.map Cont.base).getD 0)
        let s := (s.modMe (fun t => t.setG d 0)).fell
        .ok ((s.modCore1 (fun k => k.count r.launch 1 0)).enqueue c r))

/-- SPAWN. -/
def execSpawn (d a : R) (s : State) : Outcome := spawnForm false d a s
/-- SPAWNL. -/
def execSpawnl (d a : R) (s : State) : Outcome := spawnForm true d a s

/-! ### The completion of revocations (R218, R348, R405) -/

/-- Whether a thread runs, or a saved one would run, code that names a domain. -/
def Thread.names (t : Thread) (dom : BitVec 8) : Bool :=
  t.run.isSome && (t.domid = dom || t.frames.any (fun f => f.caller = dom))

/-- Whether a domain-stack frame or a running continuation names a domain. -/
def State.domainNamed (s : State) (dom : BitVec 8) : Bool :=
  s.cores.any (fun e => e.2.threads.any (fun t => t.names dom) || e.2.parked.any (fun p => p.th.names dom))

/-- Clears the marked words of a domain's handles and frees its Trellis entries, once nothing names it (R348). -/
def State.clearTiles (s : State) (dom : BitVec 8) : State :=
  let mine := s.trellis.filter (fun e => e.2.domain = dom && e.2.state ≠ .free)
  let s := mine.foldl (fun s e => match e.2.word with
    | some (c, off) =>
      let s := s.modCore c (fun k => { k.modPool (fun p => memClear p off 8) with marks := k.marks.filter (fun w => w != off) })
      (s.feSet c off false).serve c off
    | none => s) s
  mine.foldl (fun s e => s.freeEntryAt (e.1 / 65536) (BitVec.ofNat 16 e.1)) s

/-- Whether a command holds a translation of a domain (R230): a copy under its own, an SGEMV under those of its matrix. -/
def State.translating (s : State) (dom : BitVec 8) : Bool :=
  s.cores.any (fun e => e.2.cmds.any (fun x => x.dom = dom && (!x.xlat.isEmpty || x.op.stack.isSome)))

/-- Whether the shootdown of a domain's translations is complete (R180). -/
def State.shotDown (s : State) (dom : BitVec 8) : Bool := !s.translating dom && s.tlb.all (fun e => e.dom != dom)

/-- Whether nothing holds back the completion of a domain's revocation any more (R218, R405). -/
def State.goneDomain (s : State) (dom : BitVec 8) : Bool :=
  (s.domain dom).state = .revoked && !s.domainNamed dom && s.shotDown dom

/-- Completes the revocations that nothing holds back any more: of a domain that no frame names, once the shootdown of what its threads
have translated meanwhile is complete too. -/
def State.finishRevocations (s : State) : State :=
  ((s.domains.map (fun e => BitVec.ofNat 8 e.1)).filter (fun d => (s.domain d).state = .revoked && !s.domainNamed d)).foldl
    (fun s d => if s.shotDown d then s.clearTiles d else s.postNew (.shootdown d)) s

/-! ### END (R27, R138) -/

/-- The lowest channel that the executing continuation holds open, of those it opened at a depth or deeper. -/
def State.openChannel (s : State) (depth : Nat) : Option Nat :=
  (List.range 4).find? (fun n =>
    match (s.core.chans[n]?).getD none with
    | some id => s.streams.any (fun x => x.id = id && x.cont = s.cont && depth ≤ x.depth)
    | none => false)

/-- The checks of R182 on n aligned words from an address on, with nothing read. -/
def State.checkWords (s : State) (va : Word) : Nat → Ex State
  | 0 => .ok s
  | n + 1 => do
    let (_, s) ← s.check { size := 8, align := 8 } va
    s.checkWords (va + 8) n

/-- The join decrement: the faults on the join object come first; the thread that makes the counter zero reads the embedded record, which
goes to its die's queue, by hash. DESIGN CHOICE (log entry 72): an object in host memory (spaces 3 and 4) is decremented in place, with no
AtomicOp, no ATOMIC_UNSUPPORTED and no check of scope, since R294 to R296 speak of major 0x33; and of the parts of a bad object the embedded
record at g3 + 8, checked as reads, faults before the counter at g3, since R27 gives no order. -/
def State.joinEnd (s : State) (va : Word) : Ex State := do
  let s ← s.checkWords (va + 8) 4
  let (pl, s) ← s.check { write := true, both := true, size := 8, align := 8 } va
  s.unmarked pl va 3 [(0, 8)]
  let s ← s.release .d
  let (old, s) ← s.update pl 8 (fun v => some ((v + (2 ^ 64 - 1)) % 2 ^ 64))
  let s := s.dataMatch va true [(0, 8)]
  if old ≠ 1 then .ok s
  else do
    let (w, s) ← s.readWords (fun _ => none) (va + 8) 4
    let (id, s) := s.newId
    let prio := ((s.launchOf s.me.launch).map (fun l => hdrPrio l.header)).getD 0
    let r := s.childRecord w id prio
    let c := (s.hashTarget r.owner r.workId).getD s.act.core
    let s := (s.modCore1 (fun k => k.count r.launch 1 0)).modCore c (fun k => k.count r.launch 0 1)
    .ok { s with dieq := s.dieq ++ [(coreDie c, { r with target := c })] }

/-- Counts the held faults of commands and packets that a thread will not take any more (R22, R229, R273). -/
def State.countHeld (s : State) (c : Nat) (i : BitVec 2) : State :=
  let t := s.getThread c i
  (t.held.filter (fun h => h.frame.isSome)).foldl (fun s _ => s.countFault t.launch) s

/-- A thread holds no continuation any more; commands of its group port that are over are dropped. -/
def State.vacate (s : State) (c : Nat) (i : BitVec 2) : State :=
  let cont := ((s.getThread c i).run.map Cont.id).getD 0
  s.modCore c (fun k =>
    ({ k with cmds := k.cmds.filter (fun x => !(x.eng = EngineId.group && x.cont = cont && x.served != Served.no)) }).setThread i (k.thread i).idle)

/-- END. -/
def execEndC (s : State) : Outcome :=
  settle s (do
    let t := s.me
    faultIf (decide (t.depth ≠ 0)) (flt .gateInvalid (BitVec.ofNat 64 t.depth))
    faultIf (t.handleMask ≠ 0) (flt .handleLimit t.handleMask)
    match s.openChannel 0 with
    | some n => raise (flt .streamState (BitVec.ofNat 64 n))
    | none => do
      let j ← t.rdG 3
      let s ← if j ≠ 0 then s.joinEnd j else .ok s
      let s := s.leaveAll (s.me.run.bind Cont.group)
      let s := s.modLaunch t.launch (fun l => { l with run := l.run + 1 })
      .ok (((s.countHeld s.act.core s.act.thr).vacate s.act.core s.act.thr).finishRevocations.out .retired))

/-! ### YIELD, PARK and WFI (R139, R140) -/

/-- The boundary after the executing instruction is a safe point with every register live. -/
def State.safeAll (s : State) : State := s.modMe (fun t => { t with boundary := true, mask := none })

/-- YIELD. -/
def execYield (s : State) : Outcome :=
  let t := s.me
  let k := s.core
  let prio := (t.run.map Cont.prio).getD 0
  let other := s.eligible s.act.core prio || k.parked.any (fun p => p.resumable && !p.frozen && prio ≤ p.prio)
  if other && k.slotFree then .next ((s.complete.park s.act.core s.act.thr true).out .retired)
  else .next s.fell.safeAll

/-- PARK: with no slot the thread sleeps in place. -/
def execPark (s : State) : Outcome :=
  settle s (
    match s.me.wait with
    | some ⟨.parked, .done, _, _⟩ => .ok s.fell.safeAll
    | some ⟨.parked, _, _, _⟩ => .error (.hold (some .parked))
    | _ =>
      if s.core.slotFree then
        let s := s.complete.modMe (fun t => t.await .away s.ns)
        .ok ((s.park s.act.core s.act.thr false).out .retired)
      else .error (.hold (some .parked)))

/-- WFI. DESIGN CHOICE (log entry 76): only a record that arrives during the wait ends it, not one that the core's queue holds already. -/
def execWfi (s : State) : Outcome :=
  settle s (do
    s.needLevel .hyper
    match s.me.wait with
    | some ⟨.wfi, .done, _, _⟩ => .ok s.fell
    | _ =>
      if !s.me.held.isEmpty || s.core.dbg.request.isSome then .ok s.fell
      else .error (.hold (some .wfi)))

/-! ### LAUNCH (R37) -/

/-- The device launch queue, by die and owner, that a header goes to; none when its owner holds no core. -/
def State.launchQueue (s : State) (h : List Word) : Option (Nat × BitVec 4) :=
  let c := s.act.core
  if !s.isCompute c then (s.locked (hdrOwner h)).head?.map (fun x => (coreDie x, hdrOwner h))
  else if s.me.level = .user || s.me.level = .guest then some (coreDie c, s.core.owner)
  else some (coreDie c, hdrOwner h)

/-- LAUNCH. DESIGN CHOICE (log entry 72): a handle in gd faults before the header is read, since R37 and R94 give no order. -/
def execLaunch (d a : R) (s : State) : Outcome :=
  settle s (do
    let x ← s.me.rdG a
    faultIf (x.toNat % 8 ≠ 0) (fltAt .misaligned x 0)
    s.me.freeG d
    let answer := fun (s : State) (v : Word) => (s.modMe (fun t => t.setG d v)).fell
    if s.me.depth ≠ 0 then .ok (answer s 3)
    else do
      let (h, s) ← s.readWords (fun _ => none) x 16
      let done := h.getD 13 0
      if done = 0 || done.toNat % 32 ≠ 0 then .ok (answer s 2)
      else
        match s.launchQueue h with
        | none => .ok (answer s 4)
        | some (die, o) =>
          if Config.deviceQueueSize ≤ (s.devq.filter (fun e => e.die = die && e.owner = o)).length then .ok (answer s 1)
          else do
            let s ← s.release .p
            let e : DevEntry := ⟨die, o, h, x⟩
            let s := { answer s 0 with devq := s.devq ++ [e] }
            .ok (s.post (.launchAccept (.device die o))))

/-! ### Traps (R140, R379) -/

/-- TRAP: it completes and then delivers its cause. -/
def execTrap (code : BitVec 11) (s : State) : Outcome := .next (s.trapAfter (flt .trap (code.setWidth 64)))

/-- ERET. -/
def execEret (s : State) : Outcome :=
  settle s (do
    s.needLevel .guest
    .ok ((s.modMe Thread.eret).out .crossed))

/-! ### Fences (R141-R143) -/

/-- A full fence. -/
def execFence (sc : Scope) (s : State) : Outcome :=
  settle s (do
    let s ← s.release sc
    .ok s.fell)
/-- An acquire fence: later accesses follow earlier ones in any case. -/
def execFenceAcq (_sc : Scope) (s : State) : Outcome := .next s.fell
/-- A release fence. -/
def execFenceRel (sc : Scope) (s : State) : Outcome :=
  settle s (do
    let s ← s.release sc
    .ok s.fell)

/-- The executing instruction falls through to a location that its own head's line does not give. -/
def State.fellTo (s : State) (next : Word) : State := { s with act := { s.act with next := next } }.fell

/-- FETCHF completes, and the line's fault is taken at the next slot, whose head would execute next. -/
def State.refetchFault (s : State) (next : Word) (f : Flt) : State :=
  let s := { s with act := { s.act with next := next } }.complete
  if s.me.pc = next then (s.deliver s.act.core s.act.thr f false next).out .trapped else s

/-- FETCHF (R86): the next location is found in the new image of the line. A fault of the new image is taken at the next slot; behind
slot 31, where no head of the line follows, an image that is not well formed faults at FETCHF itself (DESIGN CHOICE, log entry 72), and one
that cannot be read faults nowhere. -/
def execFetchf (s : State) : Outcome :=
  settle s (
    let loc := s.here
    let s := s.modMe (fun t => { t with fetch := [] })
    let last := slotOf loc = 31
    let after := if last then lineAddr loc + 66 else loc + 2
    match s.fetchImage s.act.core s.act.thr loc after with
    | .ok (line, s) =>
      match lineBad line with
      | some n => if last then raise (fltAt .lineFormat loc (BitVec.ofNat 64 n)) else .ok (s.fellTo after)
      | none => .ok (s.fellTo (nextLoc line loc))
    | .error (.hold w) => .error (.hold w)
    | .error (.fault f) => .ok (if last then s.fellTo after else s.refetchFault after f)
    | .error (.faultIn s f) => .ok (if last then s.fellTo after else s.refetchFault after f))

/-- EFENCE: accesses are performed in order in any case. -/
def execEfence (s : State) : Outcome := .next s.fell

end Sys2Proof.Machine
end

