-- ==== Sys2Proof/Machine/Route.lean ====
section
/-! DEFINITION. Route instructions, stream channels, posted remote messages, and changes of the topology map
(spec/13_fed_routes.md R273-R286; spec/09_fed_pool_memory.md R185; spec/03_placed.md R52). -/

namespace Sys2Proof.Machine

/-! ### Measurements (R43) -/

/-- Extends a measurement index. -/
def State.extend (s : State) (index : Nat) : State :=
  { s with meas := putKey index (Config.sha384 (getKey index 0 s.meas) s.free) s.meas }.spent

/-- Extends the index of an owner. -/
def State.extendOwner (s : State) (o : BitVec 4) : State := s.extend (0x10 + o.toNat)

/-! ### The topology map in memory (R274, R275) -/

/-- The records of the map that a change names: a link direction, a fabric port, or a switch port. -/
inductive MapItem where
  | link (die key port : Nat)
  | fabric (n : Nat)
  | switch (n : Nat)
  deriving DecidableEq, Repr

/-- Codes of link states. -/
def linkCode : LinkState → Nat
  | .absent => 0 | .up => 1 | .down => 2

/-- The input port of the peer of a link direction: the port that leads back. -/
def portBack (die key p : Nat) : Nat :=
  let at_ := peerOf die key p
  ((List.range 16).find? (fun q => decide (kindOf q = kindOf p) && peerOf at_.1 at_.2 q == (die, key))).getD 0

/-- The first word of a link record. -/
def State.linkWord (s : State) (die key p : Nat) : Nat :=
  let st := s.linkState die key p
  let sched := s.written (.link die key p)
  let owners := (List.range 16).foldl (fun n u =>
    if sched.any (fun x => !x.shared && x.owner.toNat == u) then n + 2 ^ u else n) 0
  let shared := (sched.filter (fun x => x.shared)).length
  let at_ := peerOf die key p
  let inner := kindOf p = .row ∨ kindOf p = .column ∨ kindOf p = .die
  let peer : Nat :=
    if st = .absent then 0
    else if inner then at_.1 * 2 ^ 46 + at_.2 * 2 ^ 41 + portBack die key p * 2 ^ 37
    else if kindOf p = .exit then ((fabricPort die key).getD 0) * 2 ^ 41
    else 0
  linkCode st * 2 ^ 62 + peer + owners * 2 ^ 16 + shared

/-- A fabric-port or switch-port record. -/
def portWord (r : PortRec) : Nat :=
  linkCode r.state * 2 ^ 62 + (if r.up then 2 ^ 61 else 0) + r.kind % 4 * 2 ^ 56 + r.pport % 64 * 2 ^ 50 + r.peer % 2 ^ 16 * 2 ^ 32 +
    r.changed.toNat % 2 ^ 32

/-- Where the link array, the fabric ports and the switch ports begin. -/
def mapLinks : Nat := Config.mapBase + 64
/-- Where the fabric-port records begin. -/
def mapFports : Nat := mapLinks + 4 * 32 * 16 * 16
/-- Where the switch-port records begin. -/
def mapSwitches : Nat := mapFports + 18 * 8

/-- Writes n bytes to memory as firmware does. -/
def State.poke (s : State) (pa n v : Nat) : State :=
  let cell := cellOf pa
  let s := (s.recall (lineOf cell)).mendSpan cell n
  ({ s with excl := s.excl.filter (fun e => e.2 != lineOf cell) }.putBytes true cell n v).hitLine (lineOf cell)

/-- The version at which a link record last changed. -/
def State.linkChanged (s : State) (die key p : Nat) : Word :=
  ((s.links.find? (fun l => l.1 = (die, key, p))).map (fun l => l.2.2)).getD 0

/-- Rewrites one record of the map. -/
def State.writeItem (s : State) (i : MapItem) : State :=
  match i with
  | .link die key p =>
    let a := mapLinks + ((32 * die + key) * 16 + p) * 16
    (s.poke a 8 (s.linkWord die key p)).poke (a + 8) 8 (s.linkChanged die key p).toNat
  | .fabric n =>
    match s.fports.find? (fun e => e.1 = n) with
    | some e => s.poke (mapFports + 8 * n) 8 (portWord e.2)
    | none => s
  | .switch n =>
    match s.switches.find? (fun e => e.1 = n) with
    | some e => s.poke (mapSwitches + 8 * n) 8 (portWord e.2)
    | none => s

/-- Rewrites the header of the map. -/
def State.writeHeader (s : State) : State :=
  let nsw := (s.switches.map (fun e => e.1 / 64 + 1)).foldl max 0
  let w1 := nsw % 2 ^ 16 * 2 ^ 16 + (if s.bin = .u1024 then 0 else 1) * 2 ^ 12 + s.module.toNat
  ((((s.poke Config.mapBase 8 s.mapVer.toNat).poke (Config.mapBase + 8) 8 w1).poke (Config.mapBase + 16) 8 mapLinks).poke
    (Config.mapBase + 24) 8 mapFports).poke (Config.mapBase + 32) 8 mapSwitches

/-- The records of the map that a hop crosses: at port 15 that of the link and that of the fabric port (R267, R275). -/
def PathHop.items (h : PathHop) : List MapItem :=
  match h.port with
  | .router die key p =>
    .link die key p :: (if kindOf p = .exit then (fabricPort die key).toList.map MapItem.fabric else [])
  | .switch n => [.switch n]
  | .fabric n => [.fabric n]

/-- Whether an entry's path crosses one of the changed records (R276, R278). -/
def State.crosses (s : State) (core : Nat) (e : RouteEntry) (l : List MapItem) : Bool :=
  (s.entryPath core e).any (fun h => h.items.any l.contains)

/-- Whether an owner is affected by a change of the map (R276). -/
def State.affected (s : State) (o : BitVec 4) (l : List MapItem) : Bool :=
  l.any (fun i => match i with
    | .link die key p => slotsOwn (s.written (.link die key p)) o
    | .fabric _ => false
    | .switch _ => false) ||
  s.cores.any (fun c => c.2.valid && c.2.owner = o && c.2.routes.any (fun e => e.valid && s.crosses c.1 e l))

/-- Sets the state and the version of a record. -/
def State.setItem (s : State) (i : MapItem) (st : Option LinkState) (ver : Word) : State :=
  match i with
  | .link die key p =>
    let st := st.getD (s.linkState die key p)
    { s with links := s.links.filter (fun l => l.1 != (die, key, p)) ++ [((die, key, p), st, ver)] }
  | .fabric n => { s with fports := s.fports.map (fun e => if e.1 = n then (n, { e.2 with state := st.getD e.2.state, changed := ver }) else e) }
  | .switch n => { s with switches := s.switches.map (fun e => if e.1 = n then (n, { e.2 with state := st.getD e.2.state, changed := ver }) else e) }

/-- Whether the map has a record. -/
def State.hasItem (s : State) (i : MapItem) : Bool :=
  match i with
  | .link die key p => die < 4 && key < 32 && p < 16 && portExists s.bin die key p
  | .fabric n => s.fports.any (fun e => e.1 = n)
  | .switch n => s.switches.any (fun e => e.1 = n)

/-- The state that the map gives a record. -/
def State.itemState (s : State) (i : MapItem) : LinkState :=
  match i with
  | .link die key p => s.linkState die key p
  | .fabric n => ((s.fports.find? (fun e => e.1 = n)).map (fun e => e.2.state)).getD .absent
  | .switch n => ((s.switches.find? (fun e => e.1 = n)).map (fun e => e.2.state)).getD .absent

/-- Changes a stream. -/
def State.modStream (s : State) (id : Nat) (f : Stream → Stream) : State :=
  { s with streams := s.streams.map (fun x => if x.id = id then f x else x) }

/-- A channel breaks (R284): of its undelivered words a prefix that is not determined stays on its way, and the
others are lost. -/
def State.breakStream (s : State) (id : Nat) (v : Word) : State :=
  match s.streams.find? (fun x => x.id = id) with
  | none => s
  | some x =>
    if x.broken.isSome then s
    else
      let keep := if x.held < x.links.length then 0 else s.free % (x.words.length + 1)
      let lost := x.words.length - keep
      (s.spent.modStream id (fun x =>
        { x with words := x.words.take keep, broken := some (v.extractLsb' 0 28), waiting := x.waiting && keep ≠ 0 })).modCore x.core
          (fun k => k.count x.launch 0 lost)

/-- The channels whose route crosses a record that has gone down break (R284). -/
def State.breakOver (s : State) (i : MapItem) : State :=
  s.streams.foldl (fun s x =>
    match x.links.find? (fun h => h.items.contains i) with
    | some h => s.breakStream x.id (h.refusal 6)
    | none => s) s

/-- Writes the topology event word of each affected owner. -/
def State.tellOwners (s : State) (l : List MapItem) : State :=
  (List.range 16).foldl (fun s u =>
    let o := BitVec.ofNat 4 u
    let r := s.ownerRec o
    if r.created && r.eventWord ≠ 0 && s.affected o l then s.poke r.eventWord 8 s.mapVer.toNat else s) s

/-- One change of the map (R276-R278, R284): the version rises by 2, the records are rewritten, the entries that cross one become stale, the
channels over one that is not up break, index 0x04 is extended, and affected owners are told. -/
def State.mapChange (s : State) (l : List (MapItem × Option LinkState)) : State :=
  let l := l.filter (fun e => s.hasItem e.1)
  let items := l.map Prod.fst
  let ver := s.mapVer + 2
  let s := l.foldl (fun s e => s.setItem e.1 e.2 ver) { s with mapVer := ver }
  let s := items.foldl (fun s i => s.writeItem i) s.writeHeader
  let s := s.mapCores (fun c k =>
    { k with routes := k.routes.map (fun e => if e.valid && s.crosses c e items then { e with stale := true } else e) })
  let s := (items.filter (fun i => s.itemState i ≠ .up)).foldl (fun s i => s.breakOver i) s
  (s.extend 4).tellOwners items

/-- The record that an entry of a TOPOLOGY_MAP_CHANGE names: dies 0 to 3 for links, 4 for fabric ports, 5 for switch
ports. -/
def mapItem (die key port : Nat) : MapItem :=
  if die < 4 then .link die key port else if die = 4 then .fabric key else .switch (64 * key + port)

/-- TOPOLOGY_MAP_CHANGE. -/
def execTopologyMapChange (changes : List (Nat × Nat × Nat × LinkState)) (s : State) : Outcome :=
  .next (s.mapChange (changes.map (fun x => (mapItem x.1 x.2.1 x.2.2.1, some x.2.2.2))))

/-- LINK_DOWN: the channels over the record that it names break, and the firmware changes the map (R276, R284). -/
def execLinkDown (die key port : Nat) (s : State) : Outcome :=
  let i := mapItem die key port
  if s.itemState i ≠ .up then .next s
  else .next ((s.breakOver i).post (.topologyMapChange [(die, key, port, .down)]))

/-! ### Route instructions (R279) -/

/-- What comes before every instruction of majors 0x74 to 0x76. -/
def State.routeAllowed (s : State) : Ex Unit := faultIf s.poolBarred (flt .domainRights 0)

/-- The index of a route cache entry. -/
def routeIndex (x : Word) : Ex (BitVec 6) := do
  faultIf (decide (64 ≤ x.toNat)) (verdictFault (verdict 13 0 0 0))
  .ok (x.extractLsb' 0 6)

/-- The entry of a descriptor, checked at a version. -/
def entryOf (w : List Word) (ver : Word) : RouteEntry := ⟨w.getD 0 0, w.getD 1 0, w.getD 2 0, w.getD 3 0, true, false, ver⟩

/-- The check of an entry for the executing core. -/
def State.checkEntry (s : State) (cluster : Option Nat) (e : RouteEntry) : Except Word Nat :=
  s.checkRoute s.core.owner s.act.core cluster e.route e.ext e.dside e.desc

/-- RTSET. -/
def execRtset (a b : R) (s : State) : Outcome :=
  settle s (do
    s.routeAllowed
    let (x, va) ← s.me.rd2 a b
    let i ← routeIndex x
    faultIf (va.toNat % 8 ≠ 0) (fltAt .misaligned va 0)
    let (w, s) ← s.readWords (fun _ => none) va 4
    let e := entryOf w s.mapVer
    if e.desc.getLsbD 63 then s.needLevel .hyper
    match s.checkEntry none e with
    | .error v => raise (verdictFault v)
    | .ok _ => .ok (s.modCore1 (fun k => k.setRoute i e)).fell)

/-- What RTGET writes: an invalid entry reads as zero words apart from its bits. -/
def routeWord (e : RouteEntry) (sel : BitVec 2) : Word :=
  let w : Word := if !e.valid then 0 else match sel.toNat with
    | 0 => e.route
    | 1 => e.ext
    | 2 => e.dside
    | _ => e.desc
  if sel = 3 then w ||| (bit e.valid <<< 62) ||| (bit e.stale <<< 61) else w

/-- RTGET. -/
def execRtget (d a : R) (sel : BitVec 2) (s : State) : Outcome :=
  settle s (do
    s.routeAllowed
    let x ← s.me.rdG a
    let i ← routeIndex x
    let t ← s.me.wrG d (routeWord (s.core.route i) sel)
    .ok (s.setMe t).fell)

/-- RTCHK. -/
def execRtchk (d a : R) (s : State) : Outcome :=
  settle s (do
    s.routeAllowed
    let va ← s.me.rdG a
    faultIf (va.toNat % 8 ≠ 0) (fltAt .misaligned va 0)
    s.me.freeG d
    let (w, s) ← s.readWords (fun _ => none) va 4
    .ok (s.modMe (fun t => t.setG d (verdictOf (s.checkEntry none (entryOf w s.mapVer))))).fell)

/-! ### Stream channels (R280-R284) -/

/-- A STREAM_STATE fault. -/
def streamFault (reason : Nat) : Flt := flt .streamState (BitVec.ofNat 64 reason)

/-- The channel of a core under a number. -/
def Core.chan (k : Core) (n : BitVec 2) : Option Nat := k.chans[n.toNat]'n.isLt

/-- Sets a channel number. -/
def Core.setChan (k : Core) (n : BitVec 2) (x : Option Nat) : Core := { k with chans := k.chans.set n.toNat x n.isLt }

/-- The open stream under a channel number, of any thread. -/
def State.streamAt (s : State) (c : Nat) (n : BitVec 2) : Option Stream :=
  ((s.getCore c).chan n).bind (fun id => s.streams.find? (fun x => x.id = id))

/-- The open stream of the executing thread under a number. -/
def State.myStream (s : State) (n : BitVec 2) : Ex Stream :=
  match s.streamAt s.act.core n with
  | none => raise (streamFault 1)
  | some x => if x.cont = s.cont then .ok x else raise (streamFault 2)

/-- The classes that the destination of SOPEN may not have. -/
def remoteOnly : AClass → Option Nat
  | .global | .window => some 2
  | .own => some 4
  | _ => none

/-- A descriptor's last word with the end that a destination core has. -/
def endAt (desc : Word) (core : Nat) : Word :=
  (desc &&& ~~~0x7F#64) ||| BitVec.ofNat 64 (coreDie core * 32 + coreRouter core)

/-- The first check of SOPEN's destination: its class, which R281 names before the alignment. -/
def sopenClass (a : Acc) (dst : Word) : Ex Unit :=
  match classOf dst with
  | .none => a.fault .pageNotPresent dst 1
  | c =>
    match a.deny c with
    | some n => a.fault .pageRights dst n
    | none => .ok ()

/-- SOPEN. Each hop of its route is a link direction that it holds, the port to the destination's cluster among them (R275, R281). -/
def execSopen (ch : BitVec 2) (a b : R) (s : State) : Outcome :=
  settle s (do
    s.routeAllowed
    match s.streamAt s.act.core ch with
    | some x => raise (streamFault (if x.cont = s.cont then 1 else 2))
    | none => do
      let (c, dst) ← s.me.rd2 a b
      faultIf (c.extractLsb' 28 36 ≠ 0 || c.extractLsb' 6 10 ≠ 0) (streamFault 3)
      let n := (c.extractLsb' 16 12).toNat + 1
      let i := c.extractLsb' 0 6
      faultIf (!(s.core.route i).valid) (verdictFault (verdict 13 0 0 0))
      let s ← s.recheck s.act.core i
      let acc : Acc := { write := true, size := 8 * n, align := 8, deny := remoteOnly, regions := some [1], noRoute := true }
      sopenClass acc dst
      let (pl, s) ← s.check acc dst
      let (core, off) := match pl with
        | .pool c o => (c, o)
        | .cell _ _ _ => (s.act.core, 0)
      let e := s.core.route i
      match s.checkEntry (some (core / 4 % 4)) { e with desc := endAt e.desc core } with
      | .error v => .error (.faultIn s (verdictFault v))
      | .ok _ =>
        let links := s.entryPath s.act.core e
        let (id, s) := s.newId
        let t := s.me
        let x : Stream :=
          { id := id, core := s.act.core, thr := s.act.thr.toNat, cont := s.cont, launch := t.launch, owner := s.core.owner,
            depth := t.depth, links := links, dstCore := core, dstOff := off, n := n, sent := 0, arrived := 0, words := [],
            credits := 16, broken := none, held := 0, waiting := false, closing := false,
            beyond := if links.any PathHop.leaves then some (e.desc.extractLsb' 16 11).toNat else none }
        .ok (({ s with streams := s.streams ++ [x] }.modCore1 (fun k => k.setChan ch (some id))).post (.setupFlit id)).fell)

/-- The routes of one owner that a link direction holds. -/
abbrev linkRoutes : Nat := 4

/-- Routes of an owner held on a link direction. -/
def State.routesHeld (s : State) (o : BitVec 4) (p : PortId) : Nat :=
  (s.streams.filter (fun x => x.owner = o && (x.links.take x.held).any (fun y => y.port == p))).length

/-- Whether a hop is a link direction all of whose places are held by routes of an owner (R281). -/
def State.routesFull (s : State) (o : BitVec 4) (h : PathHop) : Bool :=
  match h.port with
  | .router _ _ _ => linkRoutes ≤ s.routesHeld o h.port
  | .switch _ | .fabric _ => false

/-- Why the flits of a stream are refused at hop n of its route: the owner holds no slot of its own there (R282), or the port is down. -/
def State.linkBad (s : State) (x : Stream) (n : Nat) : Option Word :=
  (x.links[n]?).bind (s.hopRefuses (s.ownsSlot x.owner) 11)

/-- Why the flits of a stream are refused on their way (R273, R282), or by the package where they arrive, because the module that they
come from is refused for their gang (R45). -/
def State.streamBad (s : State) (x : Stream) : Option Word :=
  match (List.range x.links.length).findSome? (s.linkBad x) with
  | some v => some v
  | none =>
    let gang := (s.launchOf x.launch).map (fun l => l.gang.gangId)
    if s.refused.any (fun r => r.1 = s.module.toNat && gang = some r.2) then (x.links.find? (fun h => h.word = 2)).map (PathHop.refusal · 12)
    else none

/-- SETUP_FLIT: it reserves the next hop of the route, or waits while four routes of the owner hold it; one that is refused there breaks the
channel. -/
def execSetupFlit (stream : Nat) (s : State) : Outcome :=
  match s.streams.find? (fun x => x.id = stream) with
  | none => .next s
  | some x =>
    match x.links[x.held]? with
    | none => .next s
    | some l =>
      if x.broken.isSome then .next s
      else if let some v := s.linkBad x x.held then .next (s.breakStream stream v)
      else if s.routesFull x.owner l then .next (s.post (.setupFlit stream))
      else .next ((s.modStream stream (fun x => { x with held := x.held + 1 })).post (.setupFlit stream))

/-- Sends words on a channel that has credits for them (R283); they follow the thread's earlier accesses, at scope S where the route
crosses the fabric (R285). -/
def State.sendWords (s : State) (x : Stream) (ws : List Word) : Ex State := do
  match x.broken with
  | some v => raise (flt .routeDead (v.setWidth 64))
  | none => do
    if x.credits < ws.length then .error (.hold none)
    let s ← s.release (if x.beyond.isSome then .s else .p)
    let s := s.modStream x.id (fun y => { y with words := y.words ++ ws, sent := y.sent + ws.length, credits := y.credits - ws.length })
    let s := s.modCore1 (fun k => k.count x.launch ws.length 0)
    .ok (ws.foldl (fun s _ => s.post (.streamWordArrival x.id)) s)

/-- SSEND. -/
def execSsend (ch : BitVec 2) (a : R) (s : State) : Outcome :=
  settle s (do
    s.routeAllowed
    let x ← s.myStream ch
    let v ← s.me.rdStored a
    let s ← s.sendWords x [v]
    .ok s.fell)

/-- SSENDP: an argument-window pointer fails step 2 of R182, which needs a pool address. -/
def execSsendp (ch : BitVec 2) (p : P) (post : Bool) (s : State) : Outcome :=
  settle s (do
    s.routeAllowed
    let x ← s.myStream ch
    let ptr := s.me.rdP p
    let off := ptrOffset ptr
    if ptrAw ptr then
      let va := ptrAddr ptr 0
      faultIf (va.toNat % 8 ≠ 0) (fltAt .misaligned va 0)
      raise (fltAt .pageRights va 0x20)
    s.poolSpan ptr off 64 8 anyWindow [1, 3] false
    s.soundPool s.act.core off 64
    let s ← s.sendWords x ((List.range 8).map (fun i => s.core.word (off + 8 * i)))
    .ok (s.modMe (fun t => t.bump p post)).fell)

/-- Sends the closing marker of a stream behind its words; its channel number is free. -/
def State.closeStream (s : State) (id : Nat) : State :=
  let s := s.mapCores (fun _ k => { k with chans := k.chans.map (fun c => if c = some id then none else c) })
  (s.modStream id (fun x => { x with closing := true })).post (.closingMarker id)

/-- SCLOSE. -/
def execSclose (d : R) (ch : BitVec 2) (s : State) : Outcome :=
  settle s (do
    s.routeAllowed
    let x ← s.myStream ch
    let t ← s.me.wrG d (bit x.broken.isSome)
    .ok ((s.setMe t).closeStream x.id).fell)

/-- CLOSING_MARKER: the route is released once the last word has passed. -/
def execClosingMarker (stream : Nat) (s : State) : Outcome :=
  match s.streams.find? (fun x => x.id = stream) with
  | none => .next s
  | some x =>
    if x.words.isEmpty && (x.broken.isSome || x.links.length ≤ x.held) then
      .next { s with streams := s.streams.filter (fun y => y.id != stream) }
    else .next (s.post (.closingMarker stream))

/-- The first word of a stream leaves it; its credit returns. -/
def Stream.pop (x : Stream) : Stream :=
  { x with words := x.words.drop 1, arrived := x.arrived + 1, credits := x.credits + 1, waiting := false }

/-- STREAM_WORD_ARRIVAL (R283, R394, R405): it waits at a full word, and queues at the port of a halted core; a core that is not the
owner's any more, or is being scrubbed, discards it. A word that has not arrived may be refused on its way (R282). -/
def execStreamWordArrival (stream : Nat) (s : State) : Outcome :=
  match s.streams.find? (fun x => x.id = stream) with
  | none => .next s
  | some x =>
    match x.words with
    | [] => .next s
    | v :: _ =>
      let off := x.dstOff + 8 * (x.arrived % x.n)
      if x.held < x.links.length then .next (if x.broken.isSome then s else s.post (.streamWordArrival stream))
      else if let (true, some w) := (x.broken.isNone && !x.waiting, s.streamBad x) then
        .next ((s.breakStream stream w).post (.streamWordArrival stream))
      else
        match s.portTurn x.dstCore (.word stream) with
        | none => .next (s.queueAt x.dstCore (.word stream) (.streamWordArrival stream))
        | some s =>
          let k := s.getCore x.dstCore
          if !(k.valid && k.owner = x.owner && k.scrub.isNone) then
            .next ((s.modStream stream Stream.pop).modCore x.dstCore (fun k => k.count x.launch 0 1))
          else if k.full.contains off || k.marks.contains off then
            .next ((s.modStream stream (fun x => { x with waiting := true })).post (.streamWordArrival stream))
          else
            let s := (s.modStream stream Stream.pop).modCore x.dstCore (fun k =>
              (k.putAt off (placed 0 8 v.toNat)).count x.launch 0 1)
            .next ((s.feSet x.dstCore off true).serve x.dstCore off)

/-! ### Posted messages (R185, R273, R353) -/

/-- The target of a command's writes to another pool. -/
def CmdOp.target : CmdOp → Option Nat
  | .cpypp dst _ _ _ => some dst
  | .cred dst _ _ _ _ _ => some dst
  | _ => none

/-- A message that is returned to its sender (R401), with its sender's fault; the refusal of a packet goes into the fault record too (R229,
R273). -/
def State.refuseMsg (s : State) (m : Msg) (f : Flt) : State :=
  let s := { s with msgs := s.msgs.erase m }.modCore m.src (fun k => k.count m.launch 0 1)
  let s := if f.cause = .handleStore || f.cause = .integrity then s else s.modCore m.src (fun k => { k with
    frec := match k.frec with
      | none => some ⟨f.cause, 3, 0, (f.info.extractLsb' 0 28).setWidth 32, 0, false⟩
      | some r => some { r with more := true } })
  s.faultTo m.src m.cont m.launch f m.depth m.dom false

/-- REMOTE_ACCESS: a message that has been returned faults at its sender. Of the others, the oldest between the two cores that has not
come to the port arrives, and is performed or queues there (R353, R394). -/
def execRemoteAccess (msg : Nat) (s : State) : Outcome :=
  match s.msgs.find? (fun m => m.id = msg) with
  | none => .next s
  | some m =>
    match m.refused with
    | some f => .next (s.refuseMsg m f)
    | none =>
      let port := (s.getCore m.dst).port
      let next :=
        if port.contains (.msg msg) then m
        else (s.msgs.find? (fun x => x.refused.isNone && x.src = m.src && x.dst = m.dst && !port.contains (.msg x.id))).getD m
      let s := if next.id = msg then s else s.post (.remoteAccess msg)
      match s.portTurn m.dst (.msg next.id) with
      | none => .next (s.queueAt m.dst (.msg next.id) (.remoteAccess next.id))
      | some s => .next ({ s with msgs := s.msgs.erase next }.applyMsg next)

/-- REFUSED_PACKET at a hop of the packet's route, counted through all its words, for a reason (R272, R273): no packet between two cores of
one router passes a link. -/
def execRefusedPacket (pkt : Nat) (hop : BitVec 4) (reason : BitVec 8) (s : State) : Outcome :=
  let at_ := fun (path : List PathHop) => (path[hop.toNat]?).map (PathHop.refusal · reason.toNat)
  match s.msgs.find? (fun m => m.id = pkt && m.refused.isNone) with
  | some m =>
    match at_ m.path with
    | some v => .next (s.refuseMsg m (netFault v))
    | none => .next s
  | none =>
    match s.streams.find? (fun x => x.id = pkt) with
    | some x =>
      match at_ x.links with
      | some v => .next (s.breakStream pkt v)
      | none => .next s
    | none =>
      match s.cores.find? (fun e => e.2.cmds.any (fun x => x.id = pkt)) with
      | none => .next s
      | some e =>
        match e.2.cmds.find? (fun x => x.id = pkt && !x.done && (x.running || x.f.thr = 0)) with
        | none => .next s
        | some x =>
          match x.op.target.bind (fun dst => at_ (s.pathTo e.1 dst)) with
          | some v => .next (s.refuseCmd e.1 x v)
          | none => .next s

end Sys2Proof.Machine
end

