-- ==== Sys2Proof/Machine/Handle.lean ====
section
/-! DEFINITION. Exclusive tiles, handles and the Trellis (spec/16_synchronised_handles.md R329-R349). -/

namespace Sys2Proof.Machine

/-! ### Handles (R330, R333, R334) -/

/-- The value of a handle. -/
def handleValue (n : BitVec 16) (gen : BitVec 8) : Word := n ++ gen ++ 0#40

/-- A fault of R333. -/
def handleFault (c : Cause) (reason : Nat) (reg : R) : Flt := flt c (BitVec.ofNat 64 reason ||| (reg.setWidth 64 <<< 8))

/-- The die whose Trellis a thread uses. -/
def State.die (s : State) : Nat := coreDie s.act.core

/-- Every form faults on a core without a Trellis port. -/
def State.trellisPort (s : State) : Ex Unit := faultIf (!s.isCompute s.act.core) (handleFault .handleLimit 3 0)

/-- The checks of a handle operand in state held: the entry's number and the entry. -/
def State.heldHandle (s : State) (a : R) : Ex (BitVec 16 × TEntry) := do
  let v ← s.me.rdG a
  faultIf (decide (s.me.tagOf a ≠ .handle)) (handleFault .handleMismatch 1 a)
  let n := handleEntry v
  let e := s.entry s.die n
  faultIf (decide (e.state = .free ∨ e.gen ≠ handleGen v)) (handleFault .handleMismatch 2 a)
  faultIf (decide (e.domain ≠ s.me.domid)) (flt .domainRights 0)
  faultIf (decide (e.state ≠ .held)) (handleFault .handleMismatch 3 a)
  .ok (n, e)

/-- A destination of a handle, unless it is a register that the form consumes. -/
def Thread.handleDest (t : Thread) (d : R) (used : List R) : Ex Unit := if used.contains d then .ok () else t.freeG d

/-- Marks a register moved-from. -/
def Thread.moveFrom (t : Thread) (n : R) : Thread := t.setG n 0 .movedFrom

/-! ### Entries (R331, R332) -/

/-- The entries that a Trellis may take. -/
def State.freeEntries (s : State) (die : Nat) : List Nat :=
  (List.range 65536).filter (fun n => decide ((s.entry die (BitVec.ofNat 16 n)).state = .free ∧ (s.entry die (BitVec.ofNat 16 n)).pending = []))

/-- A free entry of a die, other than one. -/
def State.takeEntry (s : State) (die : Nat) (other : Option Nat) : Ex (BitVec 16 × State) :=
  match pickFree s.free ((s.freeEntries die).filter (fun n => some n ≠ other)) with
  | some n => .ok (BitVec.ofNat 16 n, s.spent)
  | none => raise (handleFault .handleLimit 1 0)

/-- The codes of the states of an entry. -/
def HState.code : HState → BitVec 3
  | .free => 0 | .held => 1 | .split => 2 | .inWord => 3 | .lost => 4

/-- An entry whose sibling is lost. -/
def State.orphan (s : State) (die : Nat) (n : BitVec 16) : Bool :=
  let e := s.entry die n
  e.parent ≠ n && (s.entry die e.sibling).state = .lost

/-- The root of an entry. -/
def State.rootOf (s : State) (die : Nat) (n : BitVec 16) : Nat → BitVec 16
  | 0 => n
  | fuel + 1 =>
    let p := (s.entry die n).parent
    if p = n then n else s.rootOf die p fuel

/-! ### Regions -/

/-- The types of R77 that a tile can hold. -/
def tileType (code : BitVec 4) : Option VType :=
  [VType.i8, .i16, .i32, .i64, .n8, .n16, .n32, .n64, .fp32, .fp16, .bf16, .e4m3, .e5m2][code.toNat]?

/-- Bytes of an element of a tile. -/
def tileElem (code : BitVec 4) : Nat := match tileType code with
  | some t => t.width / 8
  | none => 1

/-- The region of an entry. -/
def State.regionOfEntry (s : State) (die : Nat) (n : BitVec 16) : Region :=
  let e := s.entry die n
  ⟨e.base, (s.entry die (s.rootOf die n 65536)).ext, e.org, e.ext, tileElem e.type⟩

/-- Bytes of a region. -/
def Region.bytes (r : Region) : Nat := r.count * r.size

/-- The rows of a region along axis 0: their addresses and bytes. -/
def Region.rows (r : Region) : List (Nat × Nat) :=
  (List.range (axisOf r.ext 1 * axisOf r.ext 2 * axisOf r.ext 3)).map (fun i =>
    (r.addr (i * axisOf r.ext 0), axisOf r.ext 0 * r.size))

/-- The translations of the pages of a region. -/
def State.regionPages (s : State) (write : Bool) : List (Nat × Nat) → Ex (List (Nat × Nat) × State)
  | [] => .ok ([], s)
  | (va, n) :: r => do
    let (x, s) ← s.globalSpan { write := write, size := 1, align := 1, ex := true } (BitVec.ofNat 64 va) n
    let (y, s) ← s.regionPages write r
    .ok (x ++ y, s)

/-! ### HALLOC and HFREE (R335-R337) -/

/-- Whether a descriptor obeys R335. -/
def tileOk (w : List Word) : Bool :=
  let w2 := w.getD 2 0
  let ext := w.getD 1 0
  let rank := (w2.extractLsb' 4 2).toNat + 1
  let size := tileElem (w2.extractLsb' 0 4) * axisOf ext 0 * axisOf ext 1 * axisOf ext 2 * axisOf ext 3
  (w.getD 0 0).toNat % 128 = 0 && w2.extractLsb' 6 58 = 0 && w.getD 3 0 = 0 && (tileType (w2.extractLsb' 0 4)).isSome &&
    (List.range 4).all (fun i => if i < rank then axisOf ext i ≠ 0 else axisOf ext i = 1) && size ≤ 2 ^ 32

/-- Whether a tile overlaps a live root on any die. -/
def State.overlaps (s : State) (base : Word) (n : Nat) : Bool :=
  s.trellis.any (fun x =>
    let e := x.2
    let size := tileElem e.type * axisOf e.ext 0 * axisOf e.ext 1 * axisOf e.ext 2 * axisOf e.ext 3
    e.state ≠ .free && e.parent = BitVec.ofNat 16 x.1 && base.toNat < e.base.toNat + size && e.base.toNat < base.toNat + n)

/-- HALLOC. -/
def execHalloc (d a : R) (s : State) : Outcome :=
  settle s (do
    s.trellisPort
    s.me.freeG d
    let va ← s.me.rdG a
    faultIf (va.toNat % 8 ≠ 0) (fltAt .misaligned va 0)
    let (w, s) ← s.readWords (fun _ => none) va 4
    faultIf (!tileOk w) (handleFault .handleLimit 4 a)
    let base := w.getD 0 0
    let ext := w.getD 1 0
    let type := (w.getD 2 0).extractLsb' 0 4
    let rank := (w.getD 2 0).extractLsb' 4 2
    let n := tileElem type * axisOf ext 0 * axisOf ext 1 * axisOf ext 2 * axisOf ext 3
    let (_, s) ← s.globalSpan { write := true, size := 1, align := 1, ex := true } base n
    faultIf (s.overlaps base n) (handleFault .handleLimit 2 a)
    let (e, s) ← s.takeEntry s.die none
    let gen := (s.entry s.die e).gen + 1
    let s := s.modEntry s.die e (fun _ => ⟨base, 0, ext, e, e, gen, s.me.domid, type, rank, 0, .held, [], none⟩)
    .ok (s.modMe (fun t => t.setG d (handleValue e gen) .handle)).fell)

/-- HFREE. -/
def execHfree (a : R) (s : State) : Outcome :=
  settle s (do
    s.trellisPort
    let (n, e) ← s.heldHandle a
    faultIf (!(e.parent = n || s.orphan s.die n)) (handleFault .handleMismatch 5 a)
    if e.pending ≠ [] then .error (.hold (some (.handle s.die [n])))
    else
      let s := if e.parent = n then s.freeEntryAt s.die n else s.lose s.die n 65536
      .ok (s.modMe (fun t => t.moveFrom a)).fell)

/-! ### HSPLIT and HJOIN (R339, R340) -/

/-- Replaces the part of an axis. -/
def setAxis (x : Word) (i v : Nat) : Word :=
  (x &&& ~~~(0xFFFF#64 <<< (16 * i))) ||| (BitVec.ofNat 64 (v % 65536) <<< (16 * i))

/-- HSPLIT. -/
def execHsplit (d a b : R) (s : State) : Outcome :=
  settle s (do
    s.trellisPort
    let (p, e) ← s.heldHandle a
    s.me.handleDest d [a]
    s.me.handleDest (d + 1) [a]
    let x ← s.me.rdG b
    let axis := (x.extractLsb' 16 2).toNat
    let at_ := (x.extractLsb' 0 16).toNat
    faultIf (x.extractLsb' 18 46 ≠ 0 || e.rank.toNat < axis || at_ = 0 || axisOf e.ext axis ≤ at_) (handleFault .handleMismatch 7 b)
    let (l, s) ← s.takeEntry s.die none
    let (u, s) ← s.takeEntry s.die (some l.toNat)
    let lgen := (s.entry s.die l).gen + 1
    let ugen := (s.entry s.die u).gen + 1
    let child : TEntry := { e with parent := p, axis := BitVec.ofNat 2 axis, state := .held, word := none }
    let s := s.modEntry s.die l (fun _ => { child with ext := setAxis e.ext axis at_, sibling := u, gen := lgen })
    let s := s.modEntry s.die u (fun _ => { child with
      org := setAxis e.org axis (axisOf e.org axis + at_), ext := setAxis e.ext axis (axisOf e.ext axis - at_), sibling := l, gen := ugen })
    let s := s.modEntry s.die p (fun e => { e with state := .split })
    .ok (s.modMe (fun t => ((t.moveFrom a).setG d (handleValue l lgen) .handle).setG (d + 1) (handleValue u ugen) .handle)).fell)

/-- HJOIN. -/
def execHjoin (d a b : R) (s : State) : Outcome :=
  settle s (do
    s.trellisPort
    let (na, ea) ← s.heldHandle a
    let (nb, eb) ← s.heldHandle b
    s.me.handleDest d [a, b]
    faultIf (na = nb || ea.parent = na || ea.parent ≠ eb.parent || ea.sibling ≠ nb || eb.sibling ≠ na)
      (handleFault .handleMismatch 4 b)
    if ea.pending ≠ [] ∨ eb.pending ≠ [] then .error (.hold (some (.handle s.die [na, nb])))
    else
      let s := (s.freeEntryAt s.die na).freeEntryAt s.die nb
      let s := s.modEntry s.die ea.parent (fun e => { e with state := .held })
      let v := handleValue ea.parent (s.entry s.die ea.parent).gen
      .ok (s.modMe (fun t => ((t.moveFrom a).moveFrom b).setG d v .handle)).fell)

/-! ### HCPY, HMOV and HINFO (R342-R344) -/

/-- The checks that both directions of HCPY make: the entry, its region, the pool offset, and the translations of its
pages. -/
def State.hcpyChecks (s : State) (a : R) (p : P) (out : Bool) : Ex ((BitVec 16 × TEntry × Region × Nat) × List (Nat × Nat) × State) := do
  s.trellisPort
  let (n, e) ← s.heldHandle a
  let r := s.regionOfEntry s.die n
  let ptr := s.me.rdP p
  s.poolSpan ptr (ptrOffset ptr) r.bytes 8 (fun _ => true) [1] (!out)
  let (x, s) ← s.regionPages out r.rows
  .ok ((n, e, r, ptrOffset ptr), x, s)

/-- HCPY.IN: a word of the pool is full once all its elements are there. -/
def execHcpyIn (a : R) (p : P) (post : Bool) (s : State) : Outcome :=
  settle s (do
    let ((n, e, r, o), x, s) ← s.hcpyChecks a p false
    if e.pending ≠ [] then .error (.hold (some (.handle s.die [n])))
    else
      match (spanWords o r.bytes).find? (fun w => s.core.marks.contains w) with
      | some w => raise (fltAt .handleStore (spanAddr (s.me.rdP p) w) (0x40 ||| p.setWidth 64))
      | none =>
        let c := s.act.core
        match runFill (fun s i => do
            let va := BitVec.ofNat 64 (r.addr i)
            let (v, s) ← s.engRead c s.core.owner s.me.domid (paUnder x (r.addr i)) r.size va 0
            s.engPool c (o + i * r.size) r.size v (o + i * r.size) 0) (fun i => (c, o + i * r.size, r.size)) (List.range r.count) s with
        | (s, none) => .ok (s.modMe (fun t => t.bump p post)).fell
        | (s, some (.fault cause va _)) => .error (.faultIn s (fltAt cause va 0))
        | (_, some (.moving va _)) => .error (.hold (some (.moving va)))
        | (_, some _) => .error (.hold none))

/-- HCPY.OUT. -/
def execHcpyOut (a : R) (p : P) (post : Bool) (s : State) : Outcome :=
  settle s (do
    s.trellisPort
    s.engReady .copy
    let ((n, _, r, o), x, s) ← s.hcpyChecks a p true
    let s := s.modEntry s.die n (fun e => { e with pending := e.pending ++ [s.nextId] })
    let s := s.submit .copy (.hcpyOut s.die n o r) ⟨.c, 0, 0, 0, 0⟩ x []
    .ok (s.modMe (fun t => t.bump p post)).fell)

/-- HMOV. -/
def execHmov (d a : R) (s : State) : Outcome :=
  settle s (do
    s.trellisPort
    let _ ← s.heldHandle a
    if d = a then .ok s.fell
    else do
      s.me.freeG d
      let v ← s.me.rdG a
      .ok (s.modMe (fun t => (t.setG d v .handle).moveFrom a)).fell)

/-- The word at 0x18 of an entry. -/
def TEntry.last (e : TEntry) : Word :=
  e.parent ++ e.sibling ++ e.gen ++ e.domain ++ e.type ++ e.rank ++ e.axis ++ 0#5 ++ e.state.code

/-- HINFO. -/
def execHinfo (d a : R) (sel : BitVec 2) (s : State) : Outcome :=
  settle s (do
    s.trellisPort
    let (_, e) ← s.heldHandle a
    let t ← s.me.wrG d (match sel.toNat with
      | 0 => e.last
      | 1 => e.org
      | 2 => e.ext
      | _ => e.base)
    .ok (s.setMe t).fell)

/-! ### PUTH and TAKEH (R345) -/

/-- PUTH. -/
def execPuth (a b : R) (s : State) : Outcome :=
  settle s (do
    match s.wordServed with
    | .done => .ok s.fell
    | .fault f => raise f
    | _ => do
      s.trellisPort
      let va ← s.me.rdG a
      let _ ← s.heldHandle b
      let v ← s.me.rdG b
      let ((c, off), s) ← s.feWord va true
      faultIf (decide (coreDie c ≠ s.die)) (handleFault .handleLimit 3 b)
      if s.queuedAt c off then .error (.hold (some (.word c off)))
      let s ← s.releaseWord c off
      let s ← s.feReach c true
      if (s.getCore c).full.contains off then s.feQueue c off (.puth v s.die)
      else if maxMarks ≤ (s.getCore c).marks.length then .error (.hold none)
      else .ok (((s.modMe (fun t => t.moveFrom b)).fell.putHandle c off v s.die).serve c off))

/-- TAKEH. -/
def execTakeh (d a : R) (s : State) : Outcome :=
  settle s (do
    match s.wordServed with
    | .handle v => .ok (s.modMe (fun t => t.setG d v .handle)).fell
    | .fault f => raise (withdrawnFault f d)
    | _ => do
      s.trellisPort
      let va ← s.me.rdG a
      s.me.freeG d
      let ((c, off), s) ← s.feWord va false
      faultIf (decide (coreDie c ≠ s.die)) (handleFault .handleLimit 3 d)
      if s.queuedAt c off then .error (.hold (some (.word c off)))
      s.acquireWord c off
      let s ← s.feReach c true
      let k := s.getCore c
      if k.full.contains off then do
        s.keep (faultIf (!k.marks.contains off) (handleFault .handleMismatch 6 d))
        s.keep (s.soundPool c off 8)
        let v := k.word off
        s.keep (faultIf (decide ((s.entry (coreDie c) (handleEntry v)).domain ≠ s.me.domid)) (flt .domainRights 0))
        .ok (((s.modMe (fun t => t.setG d v .handle)).fell.takeHandle c off v).serve c off)
      else s.feQueue c off .takeh)

end Sys2Proof.Machine
end

