-- ==== Sys2Proof/Machine/Gate.lean ====
section
/-! DEFINITION. Gates, domains, unwinding, revocation and kills (spec/10_gates.md R204-R224;
spec/16_synchronised_handles.md R348; spec/20_retired.md R405). -/

namespace Sys2Proof.Machine

/-! ### Measurements of gates (R206) -/

/-- The owners that a gate concerns: its callee domain's and those with a domain among its callers. -/
def State.gateOwners (s : State) (g : Gate) : List (BitVec 4) :=
  (((s.domain g.domain).owner) :: ((s.domains.filter (fun e => g.callers.getLsbD e.1 && e.2.state = .live)).map
    (fun e => e.2.owner))).eraseDups

/-- Replaces a gate-table entry. -/
def State.setGate (s : State) (n : BitVec 12) (g : Gate) : State := { s with gates := putKey n.toNat g s.gates }

/-- A transition of a gate: the entry, and the measurements of `g`'s owners. -/
def State.gateMove (s : State) (n : BitVec 12) (new g : Gate) : State :=
  (s.gateOwners g).foldl (fun s o => s.extendOwner o) (s.setGate n new)

/-! ### GOPEN, GCLOSE and GQUERY (R207-R209) -/

/-- A head location (R69). -/
def headOk (x : Word) : Bool := !x.getLsbD 0 && slotOf x ≠ 0

/-- A gate as its 64 bytes give it (R205). -/
def gateOf (w : List Word) : Gate :=
  let w2 := w.getD 2 0
  ⟨w.getD 0 0, w.getD 1 0, w2.extractLsb' 32 32, w2.extractLsb' 16 8, w2.extractLsb' 8 4, (w.getD 3 0).extractLsb' 0 39,
    w.getD 7 0 ++ w.getD 6 0 ++ w.getD 5 0 ++ w.getD 4 0, .opened⟩

/-- Whether a request obeys R208. -/
def requestOk (w : List Word) : Bool :=
  let w2 := w.getD 2 0
  w2.extractLsb' 24 8 = 0 && w2.extractLsb' 12 4 = 0 && w2.extractLsb' 0 8 = 0 && (w.getD 3 0).extractLsb' 39 25 = 0 &&
    (w2.extractLsb' 8 4).toNat ≤ 8 && headOk (w.getD 0 0) && (w.getD 1 0 = 0 || headOk (w.getD 1 0))

/-- The free entries of the gate table. -/
def State.freeGates (s : State) : List Nat :=
  (List.range 4096).filter (fun n => (s.gate (BitVec.ofNat 12 n)).state = .free)

/-- GOPEN. DESIGN CHOICE (log entry 72): HANDLE_STORE of gd comes after MISALIGNED and before the faults of reading the request, since R94 and
R208 do not order them. -/
def execGopen (d a : R) (s : State) : Outcome :=
  settle s (do
    s.needLevel .guest
    let x ← s.me.rdG a
    faultIf (x.toNat % 64 ≠ 0) (fltAt .misaligned x 0)
    s.me.freeG d
    let (w, s) ← s.readWords (fun _ => none) x 8
    let answer := fun (s : State) (v : Word) => (s.modMe (fun t => t.setG d v)).fell
    let g := gateOf w
    if !requestOk w then .ok (answer s 0x8000000000000003)
    else if (s.domain g.domain).state ≠ .live ∨ (s.domain g.domain).owner ≠ s.core.owner then .ok (answer s 0x8000000000000002)
    else
      match pickFree s.free s.freeGates with
      | none => .ok (answer s 0x8000000000000001)
      | some n => .ok (answer (s.spent.gateMove (BitVec.ofNat 12 n) g g) (BitVec.ofNat 64 n)))

/-- GCLOSE. -/
def execGclose (a : R) (s : State) : Outcome :=
  settle s (do
    s.needLevel .guest
    let x ← s.me.rdG a
    let n := x.extractLsb' 0 12
    let g := s.gate n
    faultIf (decide (4096 ≤ x.toNat ∨ g.state = .free ∨ (s.domain g.domain).owner ≠ s.core.owner)) (flt .gateInvalid x)
    .ok (if g.state = .opened then s.gateMove n { g with state := .closed } g else s).fell)

/-- The code of a gate's state. -/
def GateState.code : GateState → BitVec 2
  | .free => 0 | .opened => 1 | .closed => 2 | .revoked => 3

/-- GQUERY. -/
def execGquery (d a : R) (s : State) : Outcome :=
  settle s (do
    let x ← s.me.rdG a
    let g := s.gate (x.extractLsb' 0 12)
    let v : Word :=
      if 4096 ≤ x.toNat then 0
      else g.budget ++ 0#25 ++ g.nargs ++ BitVec.ofBool (g.state = .opened && g.callers.getLsbD s.me.domid.toNat) ++ g.state.code
    let t ← s.me.wrG d v
    .ok (s.setMe t).fell)

/-! ### GCALL (R210-R213) -/

/-- The general registers whose values a change of domain hides: 0 with tag zero, but those of a test. -/
def hideRegs (g : GFile) (keep : Nat → Bool) : GFile :=
  Vector.ofFn (fun n : Fin 32 => if keep n.val then g[n] else ⟨0, .zero⟩)

/-- The thread that stands at the start of other code of the continuation: registers hidden, per-thread registers at their start
values, watch slots disarmed, the fetch buffer empty. -/
def Thread.afresh (t : Thread) (keep : Nat → Bool) (pc : Word) : Thread :=
  { t with
    g := hideRegs t.g keep
    v := Vector.replicate 32 0
    p := Vector.replicate 8 0
    lc := Vector.replicate 3 zeroLoop
    sys := startSys
    shadow := Vector.replicate 3 zeroLoop
    watch := Vector.replicate 2 none
    fetch := []
    wait := none
    pc := pc }

/-- The frame that a call pushes. -/
def Thread.frameFor (t : Thread) (gate : BitVec 12) (e : Gate) (base len ret : Word) : Frame :=
  ⟨ret, t.domid, gate, base, len, if e.budget = 0 then none else some e.budget.toNat, t.g, t.v, t.p, t.lc, t.sys, e.nargs.toNat, false, true⟩

/-- The thread after a call. -/
def Thread.called (t : Thread) (gate : BitVec 12) (e : Gate) (base len ret : Word) : Thread :=
  { t.afresh (fun n => 16 ≤ n && n < 16 + e.nargs.toNat) e.entry with
    frames := t.frameFor gate e base len ret :: t.frames
    domid := e.domain }

/-- The first argument register that cannot cross a gate. -/
def Thread.argBad (t : Thread) (n : Nat) : Option Flt :=
  ((List.range n).map (fun i => (i + 16, t.tagOf (BitVec.ofNat 5 (i + 16))))).findSome? (fun e =>
    match e.2 with
    | .handle => some (flt .handleLimit (BitVec.ofNat 64 e.1))
    | .movedFrom => some (flt .handleMoved (BitVec.ofNat 64 e.1))
    | _ => none)

/-- The owners of the domains on a thread's stack. -/
def State.stackOwners (s : State) (t : Thread) : List (BitVec 4) :=
  ((t.domid :: t.frames.map Frame.caller).map (fun d => (s.domain d).owner)).eraseDups

/-- The trace records of a gate crossing, one for each owner on the stack (R397, R399). -/
def State.traceCrossing (s : State) (owners : List (BitVec 4)) (gate : BitVec 12) (call : Bool) : State :=
  if s.core.dbg.traceOn && s.me.trace.getLsbD 1 then
    owners.foldl (fun s o => s.modCore1 (fun k =>
      k.emit ⟨s.ns, 2, tidOf s.act.core s.act.thr, gate.setWidth 64 ||| (bit call <<< 63), BitVec.ofNat 64 s.me.depth, o⟩)) s
  else s

/-- GCALL. -/
def execGcall (gate : BitVec 12) (a b : R) (s : State) : Outcome :=
  settle s (do
    let t := s.me
    let e := s.gate gate
    let num := gate.setWidth 64
    faultIf (t.level != .user) (flt .gateInvalid (0xF000 ||| num))
    faultIf (t.depth == 8) (flt .gateDepth num)
    faultIf (e.state = .free || !e.callers.getLsbD t.domid.toNat) (flt .gateInvalid num)
    if e.state = .revoked then do
      let t ← t.wrG 1 1
      .ok (s.setMe t).fell
    else if e.state = .closed then do
      let t ← t.wrG 1 5
      .ok (s.setMe t).fell
    else do
      let (base, len) ← t.rd2 a b
      faultIf (decide (e.wmax.toNat < len.toNat ∨ (len ≠ 0 ∧ classOf base ≠ .global))) (flt .gateWindow num)
      match t.argBad e.nargs.toNat with
      | some f => raise f
      | none =>
        let s := s.setMe (t.called gate e base len s.act.next)
        .ok ((s.traceCrossing (s.stackOwners s.me) gate true).out .crossed))

/-! ### Leaving a frame (R214, R219, R221) -/

/-- An unwind whose frames have all returned no longer concerns the thread (R224). -/
def Thread.unconcerned (t : Thread) : Thread :=
  match t.unwind with
  | some u => if !u.kill && t.depth ≤ u.down then { t with unwind := none } else t
  | none => t

/-- Whether a held command fault's frame is gone. -/
def Held.gone (h : Held) (depth : Nat) : Bool :=
  match h.frame with
  | some (d, _) => depth < d
  | none => false

/-- Drops and counts the held command faults whose frames are gone. -/
def State.dropGone (s : State) (c : Nat) (i : BitVec 2) : State :=
  let t := s.getThread c i
  let gone := t.held.filter (fun h => h.gone t.depth)
  gone.foldl (fun s _ => s.countFault t.launch)
    (s.modThread c i (fun t => { t with held := t.held.filter (fun h => !h.gone t.depth) }))

/-- Replaces registers of a file from others. -/
def putRegs (g r : GFile) (which : Nat → Bool) : GFile := Vector.ofFn (fun n : Fin 32 => if which n.val then r[n] else g[n])

/-- g16 to g23. -/
def resultReg (n : Nat) : Bool := 16 ≤ n && n < 24

/-- GRET. A frame that fails its check is not restored (R213). -/
def execGret (s : State) : Outcome :=
  settle s (do
    let t := s.me
    let depth := BitVec.ofNat 64 t.depth
    faultIf (t.level != .user) (flt .gateInvalid (0xF000 ||| depth))
    match t.frames with
    | [] => raise (flt .gateInvalid depth)
    | f :: _ => do
      faultIf (t.handleMask ≠ 0) (flt .handleLimit t.handleMask)
      match s.openChannel t.depth with
      | some n => raise (flt .streamState (BitVec.ofNat 64 n))
      | none =>
        if t.topBroken then .ok ((s.breakSeal s.act.core s.act.thr).out .retired)
        else
          let owners := s.stackOwners t
          let t' := t.popped s.fresh
          let s := s.setMe { t'.unconcerned with g := (putRegs t'.g t.g resultReg).set 1 zeroG }
          let s := (s.dropGone s.act.core s.act.thr).traceCrossing owners f.gate false
          .ok (s.finishRevocations.out .crossed))

/-! ### Unwinding (R219, R220) -/

/-- Closes the streams that a continuation opened at a depth or deeper. -/
def State.closeStreams (s : State) (cont depth : Nat) : State :=
  (s.streams.filter (fun x => x.cont = cont && depth ≤ x.depth && !x.closing)).foldl (fun s x => s.closeStream x.id) s

/-- Discards the top frame: the registers above it are gone, with what they held, and so are those that a frame saved which fails its
check (R348). -/
def State.popFrame (s : State) (c : Nat) (i : BitVec 2) : State :=
  let t := s.getThread c i
  let s := s.reclaimRegs (coreDie c) t.g
  let s := match t.frames with
    | f :: _ => if f.intact then s else s.reclaimRegs (coreDie c) f.g
    | [] => s
  let s := s.closeStreams t.cont t.depth
  let s := { s with fresh := if t.topBroken then s.fresh + scrambleUse else s.fresh }.modThread c i (fun t => t.popped s.fresh)
  s.dropGone c i

/-- Whether the top frame's unwind handler runs. -/
def State.handles (s : State) (t : Thread) : Bool :=
  match t.frames with
  | f :: _ => (s.domain t.domid).state = .live && (s.gate f.gate).unwind ≠ 0 && !f.gaveUp
  | [] => false

/-- Starts the top frame's unwind handler (R220); the frame is marked, so that it runs once. -/
def State.startHandler (s : State) (c : Nat) (i : BitVec 2) (u : Unwind) : State :=
  let t := s.getThread c i
  let s := s.reclaimRegs (coreDie c) t.g
  match t.frames with
  | [] => s
  | f :: _ =>
    let t := (t.afresh (fun _ => false) (s.gate f.gate).unwind).giveUpTop
    let cause : Word := if u.why = .killed then 0x1B else 0x1A
    s.setThread c i { t with
      g := ((t.g.set 1 ⟨cause, .plain⟩).set 2 ⟨f.gate.setWidth 64, .plain⟩).set 4 ⟨u.status, .plain⟩
      level := .guest
      boundary := false
      mask := none
      unwind := some { u with handler := some Config.handlerBudget } }

/-- The end of a killed continuation (R222, R405): it leaves its group, its streams and handles go, and the thread
is scrubbed as in step 3 of R51. -/
def State.endKilled (s : State) (c : Nat) (i : BitVec 2) : State :=
  let t := s.getThread c i
  let s := s.leaveAll (t.run.bind Cont.group)
  let s := s.closeStreams t.cont 0
  let s := s.reclaimRegs (coreDie c) t.g
  (((s.countHeld c i).vacate c i).setThread c i zeroThread).finishRevocations

/-- The end of an unwind: the thread continues at the return location with its status. DESIGN CHOICE (log entry 46): handles that the frame's
saved g1 and g16 to g23 held are overwritten by step 4 of R219 without a reclaim. -/
def State.endUnwind (s : State) (c : Nat) (i : BitVec 2) (u : Unwind) : State :=
  if u.kill then s.endKilled c i
  else
    let s := s.modThread c i (fun t => { t with
      unwind := none
      g := (putRegs t.g (Vector.replicate 32 ⟨0, .zero⟩) resultReg).set 1 ⟨u.status, .plain⟩
      boundary := false
      mask := none })
    (if (s.getThread c i).held.isEmpty then s else s.post (.asyncTrapDelivery c i.toNat)).finishRevocations

/-- Discards frames down to the target, stopping at each handler; a frame that fails its check takes every frame with it (R213). -/
def unwindLoop : Nat → Nat → BitVec 2 → Unwind → State → State
  | 0, _, _, _, s => s
  | fuel + 1, c, i, u, s =>
    let t := s.getThread c i
    if t.depth ≤ u.down then s.endUnwind c i u
    else if s.handles t then s.startHandler c i u
    else if t.topBroken then
      let s := s.breakSeal c i
      unwindLoop fuel c i (((s.getThread c i).unwind).getD u) (s.popFrame c i)
    else unwindLoop fuel c i u (s.popFrame c i)

/-- Whether a thread stands where an unwind that is not due may begin: at a safe point (R75, R218). WFI is not a waiting instruction of
R63. -/
def Thread.atSafePoint (t : Thread) : Bool :=
  t.boundary || (match t.wait with
    | some w => w.kind.parks || w.kind = .parked
    | none => false)

/-- Whether a thread is in the middle of an instruction that completes first (R373, R388). -/
def Thread.inProgress (t : Thread) : Bool :=
  match t.wait.map WaitRec.kind with
  | some .lodge => true
  | some .host => true
  | some .fence => true
  | _ => false

/-- UNWIND: begins or continues an unwind that may proceed; a debug stop comes before it (R380), and it waits while the die's clock is held
(R412). -/
def execUnwind (core thr : Nat) (s : State) : Outcome :=
  let i := BitVec.ofNat 2 thr
  let t := s.getThread core i
  match t.unwind with
  | none => .next s
  | some u =>
    let run := decide (u.handler.isSome) && (s.domain t.domid).state = .live
    if t.run.isNone || run || !s.clocked core || (s.getCore core).dbg.halted || (s.getCore core).dbg.request.isSome || t.inProgress then .next s
    else if !(u.due || u.handler.isSome || t.atSafePoint) then .next s
    else
      let u := { u with handler := none, notice := none, due := true }
      let s := (s.reclaimServed (coreDie core) t).withdraw core ((t.run.map Cont.id).getD 0)
      let s := s.modThread core i (fun t => { t with unwind := some u, late := [] })
      .next (unwindLoop (t.depth + 1) core i u s)

/-- UNWIND_HANDLER_EXPIRY (R220): the handler is abandoned, and the expiry counted. -/
def execUnwindHandlerExpiry (core thr : Nat) (s : State) : Outcome :=
  let i := BitVec.ofNat 2 thr
  let t := s.getThread core i
  match t.unwind with
  | some u =>
    if u.handler = some 0 then
      .next (((s.modThread core i (fun t => { t with unwind := some { u with handler := none } })).countFault t.launch).post
        (.unwind core thr))
    else .next s
  | none => .next s

/-- BUDGET_EXPIRY (R215): a frame whose counter has reached zero unwinds with status 4; frames are numbered by depth. -/
def execBudgetExpiry (core thr : Nat) (frame : Nat) (s : State) : Outcome :=
  let i := BitVec.ofNat 2 thr
  let t := s.getThread core i
  match if frame = 0 ∨ t.depth < frame then none else t.frames[t.depth - frame]? with
  | some f =>
    if f.left = some 0 && t.run.isSome then .next (s.askUnwind core i ⟨frame - 1, .expired, 4, false, none, none, true⟩)
    else .next s
  | none => .next s

/-! ### GDONE and DSTAT (R216, R217) -/

/-- Whether a thread runs an unwind handler. -/
def Thread.inHandler (t : Thread) : Bool :=
  match t.unwind with
  | some u => u.handler.isSome
  | none => false

/-- GDONE #0. -/
def execGdoneUnwind (s : State) : Outcome :=
  settle s (do
    s.needLevel .guest
    faultIf (!s.me.inHandler) (flt .gateInvalid 0)
    let s := s.modMe (fun t => { t with unwind := t.unwind.map (fun u => { u with handler := none }) })
    .ok ((s.post (.unwind s.act.core s.act.thr.toNat)).out .retired))

/-- GDONE #1. -/
def execGdoneGiveUp (s : State) : Outcome :=
  settle s (do
    s.needLevel .guest
    faultIf (!(s.me.active && decide (s.me.depth ≠ 0) && !s.me.inHandler)) (flt .gateInvalid 1)
    .ok ((s.giveUp s.act.core s.act.thr).out .retired))

/-- What DSTAT writes. -/
def State.dstat (s : State) (sel : BitVec 2) : Word :=
  match s.me.frames with
  | [] => 0
  | f :: _ =>
    match sel.toNat with
    | 0 => 0#52 ++ (s.domain f.caller).owner ++ f.caller
    | 1 => f.glen
    | 2 => match f.left with
      | some n => BitVec.ofNat 64 n
      | none => 0xFFFFFFFF
    | _ => f.gate.setWidth 64

/-- DSTAT. -/
def execDstat (d : R) (sel : BitVec 2) (s : State) : Outcome :=
  settle s (do
    let t ← s.me.wrG d (s.dstat sel)
    .ok (s.setMe t).fell)

/-! ### Revocation and kills (R218, R222) -/

/-- The unwind that the revocation of a domain asks of a thread: to the lowest frame that entered it, or a kill when it
is the base domain. -/
def Thread.revocation (t : Thread) (dom : BitVec 8) (now : Nat) : Option Unwind :=
  if t.run.isNone then none
  else
    match (List.range (t.depth + 1)).find? (fun d => t.domAt d = some dom) with
    | none => none
    | some 0 => some ⟨0, .revoked, 1, true, none, some now, false⟩
    | some (d + 1) => some ⟨d, .revoked, 1, false, none, some now, false⟩

/-- Asks a parked continuation to unwind: it becomes resumable at once. -/
def Parked.askUnwind (p : Parked) (u : Unwind) (now : Nat) : Parked :=
  { p with
    th := { p.th with unwind := some (Unwind.merge p.th.unwind u) }
    resumable := true
    stamp := if p.resumable then p.stamp else now }

/-- Notifies the cores of a revocation. -/
def State.notifyRevoked (s : State) (dom : BitVec 8) : State :=
  let s := s.mapCores (fun _ k => { k with parked := k.parked.map (fun p => match p.th.revocation dom s.cycle with
    | some u => p.askUnwind u s.cycle
    | none => p) })
  s.coreNums.foldl (fun s c => (s.getCore c).indexed.foldl (fun s e => match e.2.revocation dom s.cycle with
    | some u => s.askUnwind c e.1 u
    | none => s) s) s

/-- Marks every gate into a domain as revoked. -/
def State.revokeGates (s : State) (dom : BitVec 8) : State :=
  (s.gates.filter (fun e => e.2.domain = dom && (e.2.state = .opened || e.2.state = .closed))).foldl
    (fun s e => s.gateMove (BitVec.ofNat 12 e.1) { e.2 with state := .revoked } e.2) s

/-- Revokes a live domain (R218, R230, R243, R405); its owner has its code pages and its calls no more (R43). -/
def State.revoke (s : State) (dom : BitVec 8) : State :=
  if (s.domain dom).state ≠ .live then s
  else
    let s := (s.revokeGates dom).modDomain dom (fun e => { e with state := .revoked })
    let s := s.dropMatrices.extendOwner (s.domain dom).owner
    (s.notifyRevoked dom).post (.shootdown dom)

/-- REVOKE_DOMAIN. -/
def execRevokeDomain (dom : BitVec 8) (s : State) : Outcome := .next (s.revoke dom)

/-- A kill of a continuation, wherever it is. -/
def State.kill (s : State) (cont : Nat) (u : Unwind) : State :=
  let s := s.mapCores (fun _ k => k.modParked cont (fun p => { p.askUnwind u s.cycle with frozen := false }))
  match s.cores.find? (fun e => (e.2.runner cont).isSome) with
  | some e =>
    match e.2.runner cont with
    | some i => s.askUnwind e.1 i u
    | none => s
  | none => s

/-- KILL, by the hypervisor. -/
def execKill (cont : Nat) (s : State) : Outcome := .next (s.kill cont ⟨0, .killed, 6, true, none, some s.cycle, true⟩)

/-- Whether a domain-stack frame names a gate. -/
def State.gateNamed (s : State) (g : BitVec 12) : Bool :=
  s.cores.any (fun e => e.2.threads.any (fun t => t.frames.any (fun f => f.gate = g)) ||
    e.2.parked.any (fun p => p.th.frames.any (fun f => f.gate = g)))

/-- GATE_FREE (R206). -/
def execGateFree (gate : BitVec 12) (s : State) : Outcome :=
  let g := s.gate gate
  if (g.state = .closed || g.state = .revoked) && !s.gateNamed gate then .next (s.gateMove gate freeGate g) else .next s

/-- DOMAIN_CREATE (R204): a number is used again once its revocation is complete. Its owner's code pages and the gates that it may call
change (R43). -/
def execDomainCreate (dom : BitVec 8) (owner : BitVec 4) (root : Word) (s : State) : Outcome :=
  if (s.domain dom).state = .free || s.goneDomain dom then
    let s := (s.rekey dom 0).clearTiles dom
    .next ({ s with domains := putKey dom.toNat ⟨owner, root, 0, 0, .live⟩ s.domains }.extendOwner owner)
  else .next s

/-- SHOOTDOWN (R180): it completes once no command holds a translation of the domain. DESIGN CHOICE (log entry 73): the completed
shootdown of a live domain counts as a change of its owner's code pages (R43). -/
def execShootdown (dom : BitVec 8) (s : State) : Outcome :=
  if s.translating dom then .next (s.post (.shootdown dom))
  else
    let s := { s with tlb := s.tlb.filter (fun e => e.dom != dom) }
    .next (if (s.domain dom).state = .live then s.extendOwner (s.domain dom).owner else s).finishRevocations

end Sys2Proof.Machine
end

