-- ==== Sys2Proof/Machine/Trap.lean ====
section
/-! DEFINITION. What is taken at a thread's boundary: held causes, the watchdog, forced saves and pre-emption
(spec/19_interrupted.md R374-R390; spec/10_gates.md R218). -/

namespace Sys2Proof.Machine

/-! ### Held causes (R378, R380) -/

/-- The rank of a held cause at a boundary. -/
def Held.rank (h : Held) : Nat :=
  match h.flt.cause with
  | .envAlarm => 0
  | .integrity => 1
  | .watchdog => 2
  | .gangMemberLost => 4
  | _ => 3

/-- The held cause that comes first; one of kind S only at a safe point. -/
def Thread.nextHeld (t : Thread) : Option Held :=
  leastBy Held.rank (if t.atSafePoint then t.held else t.held.filter (fun h => h.flt.cause ≠ .gangMemberLost))

/-- Whether a waiting instruction of a thread has been served, so that it completes first (R310). -/
def Thread.served (t : Thread) : Bool :=
  match t.wait with
  | some w => w.served ≠ .no
  | none => false

/-- Whether an unwind stands before the held causes at this boundary (R220, R380). -/
def Thread.unwinds (t : Thread) : Bool :=
  match t.unwind with
  | some u => u.due || u.handler.isSome || t.atSafePoint
  | none => false

/-- Whether an unwind goes on before anything else at this boundary: its handler, in which a thread may park and be pre-empted (R223),
runs only while the handler's domain is live. -/
def State.unwindNext (s : State) (t : Thread) : Bool :=
  match t.unwind with
  | some u => if u.handler.isSome then (s.domain t.domid).state ≠ .live else u.due || t.atSafePoint
  | none => false

/-- Whether a thread of a core stands at a boundary at which something may be taken: it runs, completes no instruction
first, and the core's clock runs and it is neither halted nor about to be. -/
def State.atBoundary (s : State) (c : Nat) (t : Thread) : Bool :=
  t.run.isSome && !t.inProgress && !t.served && !(s.getCore c).dbg.halted && (s.getCore c).dbg.request.isNone && s.clocked c

/-- Whether a held cause of a thread is delivered at this boundary. -/
def State.takesHeld (s : State) (c : Nat) (t : Thread) : Bool :=
  s.atBoundary c t && !t.unwinds && !t.active && t.nextHeld.isSome

/-- ASYNC_TRAP_DELIVERY: the first held cause is delivered; the wait of a waiting instruction is withdrawn. -/
def execAsyncTrapDelivery (core thr : Nat) (s : State) : Outcome :=
  let i := BitVec.ofNat 2 thr
  let t := s.getThread core i
  if !s.takesHeld core t then .next s
  else
    match t.nextHeld with
    | none => .next s
    | some h =>
      let s := (s.withdraw core ((t.run.map Cont.id).getD 0)).modThread core i (fun t => { t with held := t.held.erase h })
      .next (s.deliver core i h.flt true t.pc)

/-! ### The watchdog (R383-R385) -/

/-- The watchdog of a thread has run out: it is armed no more, and WATCHDOG is held; at a depth of at least one every frame unwinds
first (R385). -/
def Thread.expire (t : Thread) : Thread :=
  { t.rouse with
    wdog := 0
    held := t.held ++ [⟨flt .watchdog 0, none, false⟩]
    unwind := if t.depth = 0 then t.unwind else some (Unwind.merge t.unwind ⟨0, .expired, 4, false, none, none, true⟩) }

/-- WATCHDOG: of a thread whose watchdog is armed with nothing remaining. -/
def execWatchdog (core thr : Nat) (s : State) : Outcome :=
  let i := BitVec.ofNat 2 thr
  let t := s.getThread core i
  if t.run.isNone || t.wdog ≠ 0x100000000 then .next s
  else .next (((s.setThread core i t.expire).post (.unwind core thr)).post (.asyncTrapDelivery core thr))

/-! ### Forced saves (R218) -/

/-- Whether a revocation or kill has been pending for 1,024 cycles (R218, R393). -/
def Unwind.pressed (u : Unwind) (now : Nat) : Bool :=
  match u.notice with
  | some n => n + Config.forcedSaveCycles ≤ now
  | none => false

/-- FORCED_SAVE: a thread that has reached no safe point in time unwinds at its next boundary. -/
def execForcedSave (core thr : Nat) (s : State) : Outcome :=
  let i := BitVec.ofNat 2 thr
  let t := s.getThread core i
  match t.unwind with
  | some u =>
    if u.due || u.handler.isSome || t.run.isNone || !u.pressed s.cycle then .next s
    else .next ((s.modThread core i (fun t => { t with unwind := some { u with due := true } })).post (.unwind core thr))
  | none => .next s

/-! ### Pre-emption (R386-R389) -/

/-- A request to pre-empt a thread. -/
def State.askPreempt (s : State) (c : Nat) (i : BitVec 2) : State :=
  s.modThread c i (fun t => if t.run.isSome && t.preempt.isNone then { t with preempt := some 0 } else t)

/-- PREEMPTION_REQUEST. -/
def execPreemptionRequest (core thr : Nat) (s : State) : Outcome := .next (s.askPreempt core (BitVec.ofNat 2 thr))

/-- The priority that a thread runs at. -/
def Thread.prio (t : Thread) : Nat := (t.run.map Cont.prio).getD 0

/-- Whether a record makes its core ask for pre-emption: it has waited long enough, and outranks all that runs there. An idle thread may
stand beside those that run, where the record waits for other boundaries. -/
def State.pressing (s : State) (c : Nat) (r : Record) : Bool :=
  let k := s.getCore c
  r.enq + Config.recordWaitCycles ≤ s.cycle && r.owner = k.owner && k.threads.any (fun t => t.run.isSome) &&
    k.threads.all (fun t => t.run.isNone || t.prio < r.prio)

/-- The thread of a core that the core's own request names: it runs a continuation of the lowest priority, the longest running of those. -/
def Core.lowest (k : Core) : Option (BitVec 2 × Thread) :=
  let running := k.indexed.filter (fun e => e.2.run.isSome)
  let low := running.foldl (fun n e => min n e.2.prio) 3
  leastBy (fun e : BitVec 2 × Thread => (e.2.run.map Cont.start).getD 0) (running.filter (fun e => e.2.prio = low))

/-- Whether a core asks for the pre-emption of a thread that no request names yet. -/
def State.asksOwn (s : State) (c : Nat) : Bool :=
  (s.getCore c).queue.any (fun r => s.pressing c r) && (s.getCore c).lowest.any (fun e => e.2.preempt.isNone)

/-- CORE_PREEMPTION_REQUEST. -/
def execCorePreemptionRequest (core : Nat) (s : State) : Outcome :=
  match if (s.getCore core).queue.any (fun r => s.pressing core r) then (s.getCore core).lowest else none with
  | some e => .next (s.askPreempt core e.1)
  | none => .next s

/-- Whether nothing at a boundary comes before a pre-emption (R380). -/
def State.mayPreempt (s : State) (c : Nat) (t : Thread) : Bool :=
  s.atBoundary c t && !s.unwindNext t && !s.takesHeld c t && t.preempt.isSome && (s.getCore c).saveRoom

/-- SAFE_POINT_PREEMPTION: at a boundary with sp = 1 under its live mask, or in a waiting instruction with everything
live. -/
def execSafePointPreemption (core thr : Nat) (s : State) : Outcome :=
  let i := BitVec.ofNat 2 thr
  let t := s.getThread core i
  if s.mayPreempt core t && t.atSafePoint then .next (s.save core i (if t.inWait then none else t.mask) true) else .next s

/-- Whether the time that a request gave is over. -/
def Thread.overdue (t : Thread) : Bool :=
  match t.preempt with
  | some n => t.spbudget.toNat ≤ n
  | none => false

/-- HARD_PREEMPTION. -/
def execHardPreemption (core thr : Nat) (s : State) : Outcome :=
  let i := BitVec.ofNat 2 thr
  let t := s.getThread core i
  if s.mayPreempt core t && t.overdue then .next (s.save core i none true) else .next s

end Sys2Proof.Machine
end

