-- ==== Sys2Proof/Machine/Debug.lean ====
section
/-! DEFINITION. The debug module, BRK, TRACE and TSR (spec/19_interrupted.md R391-R400). -/

namespace Sys2Proof.Machine

/-- Changes the debug module of a core. -/
def State.modDbg (s : State) (c : Nat) (f : Debug → Debug) : State := s.modCore c (fun k => { k with dbg := f k.dbg })

/-- Records the outcome of an access in DBGSTAT (R392). -/
def State.dbgError (s : State) (c : Nat) (e : BitVec 4) : State := s.modDbg c (fun d => { d with error := e })

/-- Whether a requester has a level (R391). -/
def reqHas (r : Requester) (l : Level) : Bool := l.code.toNat ≤ r.level.toNat

/-- DBGCTL as it reads (R392). -/
def Debug.ctl (d : Debug) : Word :=
  0#55 ++ BitVec.ofBool d.traceOn ++ BitVec.ofBool d.step ++ d.stepThr ++ BitVec.ofBool d.brkHalt ++ 0#2 ++ BitVec.ofBool d.halted ++
    BitVec.ofBool d.attached

/-- DBGSTAT as it reads (R392). -/
def Debug.stat (d : Debug) : Word := 0#48 ++ d.error ++ d.thread ++ d.hit ++ d.reason

/-! ### BRK, TRACE and TSR (R399) -/

/-- BRK. -/
def execBrk (code : BitVec 11) (s : State) : Outcome :=
  let d := s.core.dbg
  if d.attached && d.brkHalt then
    .next ((s.modDbg s.act.core (fun d => { d with request := some 3, thread := s.act.thr })).post (.debugStop s.act.core)).fell
  else .next (s.trapAfter (flt .breakpoint (code.setWidth 64 ||| 0x800)))

/-- TRACE. -/
def execTrace (d : R) (tag : BitVec 11) (s : State) : Outcome :=
  settle s (do
    let x ← s.me.rdG d
    .ok (s.traceAs s.act.core s.act.thr none 6 (tag.setWidth 64) x).fell)

/-- The trace mask that a level may set (R397). -/
def traceMask (m : BitVec 5) (l : Level) : BitVec 5 := if l = .user then m &&& 0x1B else m

/-- TSR. -/
def execTsr (d : R) (mask : BitVec 5) (s : State) : Outcome :=
  settle s (do
    let t ← s.me.wrG d (s.me.trace.setWidth 64)
    .ok (s.setMe { t with trace := traceMask mask t.level }).fell)

/-! ### Debug stops (R392, R393) -/

/-- Requests a stop of a core to which a debugger is attached. -/
def State.askStop (s : State) (c : Nat) : State :=
  if (s.getCore c).dbg.attached && !(s.getCore c).dbg.halted then
    (s.modDbg c (fun d => { d with request := some 1 })).post (.debugStop c)
  else s

/-- Ends a debug stop: with step, one thread issues one instruction. What has queued at the core's port drains, and its commands go on
(R393, R394). -/
def State.resumeCore (s : State) (c : Nat) : State :=
  if !(s.getCore c).dbg.halted then s
  else
    let s := s.modCore c (fun k => { k.mapThreads (fun t => { t with exempt := true }) with
      dbg := { k.dbg with halted := false, request := none, stepping := k.dbg.step && k.dbg.attached } })
    [EngineId.matrix, .copy, .grotto, .group].foldl (fun s e => s.post (.commandStart c e)) ((s.portKick c).semServeAll c)

/-- DEBUG_HALT. -/
def execDebugHalt (core : Nat) (req : Requester) (s : State) : Outcome :=
  if !s.isCompute core then .next s
  else if !reqHas req .hyper then .next (s.dbgError core 2)
  else .next ((s.dbgError core 0).askStop core)

/-- DEBUG_RESUME. -/
def execDebugResume (core : Nat) (req : Requester) (s : State) : Outcome :=
  if !s.isCompute core then .next s
  else if !reqHas req .hyper then .next (s.dbgError core 2)
  else .next ((s.dbgError core 0).resumeCore core)

/-- DEBUG_STOP: it takes effect once every thread of the core stands at an instruction boundary, and ends a WFI (R140). -/
def execDebugStop (core : Nat) (s : State) : Outcome :=
  let k := s.getCore core
  match k.dbg.request with
  | none => .next s
  | some r =>
    if k.threads.any Thread.inProgress then .next (s.post (.debugStop core))
    else .next (s.modCore core (fun k => { k.mapThreads Thread.queueEvent with
      dbg := { k.dbg with halted := true, request := none, reason := r, stepping := false } }))

/-- Whether a revocation or kill has waited long enough on a halted core. -/
def State.stopOver (s : State) (c : Nat) : Bool :=
  (s.getCore c).dbg.halted && (s.getCore c).threads.any (fun t => match t.unwind with
    | some u => u.pressed s.cycle
    | none => false)

/-- DEBUG_STOP_REVOCATION. -/
def execDebugStopRevocation (core : Nat) (s : State) : Outcome :=
  if s.stopOver core then .next ((s.resumeCore core).modDbg core (fun d => { d with reason := 6, stepping := false })) else .next s

/-! ### DBGDATA (R391, R395) -/

/-- The state class of DBGSEL. -/
def dbgClass (sel : BitVec 16) : DbgClass :=
  [DbgClass.g, .v, .p, .lc, .pc, .sys, .tags].getD (sel.extractLsb' 11 3).toNat .none

/-- Replaces part n of a vector register. -/
def putPart (v : VReg) (n : Nat) (x : Word) : VReg :=
  (v &&& ~~~((0xFFFFFFFFFFFFFFFF : BitVec 512) <<< (64 * n))) ||| (x.setWidth 512 <<< (64 * n))

/-- Part n of a loop's state (R132): its count, start, end, active bit and age. -/
def Loop.part (l : Loop) (n : Nat) : Word :=
  match n with
  | 0 => l.count
  | 1 => l.start
  | 2 => l.stop
  | 3 => bit l.active
  | 4 => BitVec.ofNat 64 l.age
  | _ => 0

/-- Replaces part n of a loop's state. -/
def Loop.setPart (l : Loop) (n : Nat) (x : Word) : Loop :=
  match n with
  | 0 => { l with count := x }
  | 1 => { l with start := x }
  | 2 => { l with stop := x }
  | 3 => { l with active := x.getLsbD 0 }
  | 4 => { l with age := x.toNat }
  | _ => l

/-- The loop that an index of class lc names, [1:0], and the part of its state, [4:2]. DESIGN CHOICE (log entry 42): spec/ gives the
class no layout of its index. -/
def loopIndex (ix : BitVec 11) : Nat × Nat := (ix.toNat % 4, ix.toNat / 4)

/-- A write of a general, vector or pointer register by a debugger; an index that names nothing writes nothing. -/
def Thread.dbgPut (t : Thread) (sel : BitVec 16) (x : Word) : Thread :=
  let ix := sel.extractLsb' 0 11
  match dbgClass sel with
  | .g => if ix.toNat < 32 then t.setG (ix.extractLsb' 0 5) x else t
  | .v => if ix.toNat < 256 then t.wrV (ix.extractLsb' 3 5) (putPart (t.rdV (ix.extractLsb' 3 5)) (ix.toNat % 8) x) else t
  | .p => if ix.toNat < 8 then t.wrP (ix.extractLsb' 0 3) x else t
  | .lc | .pc | .sys | .tags | .none => t

/-- The thread with a debugger's outstanding writes in their registers (R395). -/
def Thread.landed (t : Thread) : Thread := t.late.foldl (fun t e => t.dbgPut e.1 e.2) { t with late := [] }

/-- A debugger's write of a register: while an instruction of the thread is outstanding, it stands over what that returns (R395). -/
def Thread.dbgSet (t : Thread) (sel : BitVec 16) (x : Word) : Thread :=
  if t.wait.isSome then { t with late := t.late ++ [(sel, x)] } else t.dbgPut sel x

/-- What an instruction has returned to registers that a debugger has written meanwhile is discarded, once it is outstanding no more: a
handle among it is reclaimed (R348, R395). -/
def State.landLate (s : State) (c : Nat) (i : BitVec 2) : State :=
  let t := s.getThread c i
  if t.wait.isSome || t.late.isEmpty then s
  else
    let lost := (t.late.filter (fun e => dbgClass e.1 = .g)).map (fun e => t.greg (e.1.extractLsb' 0 5))
    (lost.foldl (fun s r => if r.tag = .handle then s.reclaim (coreDie c) r.val else s) s).modThread c i Thread.landed

/-- A write of a thread's state for a requester at a level; an index that names nothing writes nothing. DESIGN CHOICE (log entry 42): a
guest-level requester may write a system register whose SWR needs a higher level (SPBUDGET), since R391 and R397 give DBGDATA one least
level. -/
def State.dbgWrite (s : State) (c : Nat) (i : BitVec 2) (l : Level) (sel : BitVec 16) (x : Word) : State :=
  let ix := sel.extractLsb' 0 11
  match dbgClass sel with
  | .g | .v | .p => s.modThread c i (fun t => t.dbgSet sel x)
  | .lc =>
    let (n, part) := loopIndex ix
    s.modThread c i (fun t => { t with lc := t.lc.mapFinIdx (fun j l _ => if j = n then l.setPart part x else l) })
  | .pc =>
    let t := s.getThread c i
    (if x = t.pc || t.wait.isNone then s else s.withdraw c t.cont).modThread c i (fun t => { t with pc := x, fetch := [] })
  | .sys =>
    match SysReg.ofCode ix with
    | none => s
    | some .tvec => s.modDomain (s.getThread c i).domid (fun e => { e with tvec := x })
    | some r =>
      match { s with act := { s.act with core := c, thr := i } }.setSregAt l r x with
      | .ok s' => { s' with act := s.act }
      | .error _ => s
  | .tags | .none => s

/-- The code of a tag (R93). -/
def Tag.code : Tag → BitVec 2
  | .plain => 0
  | .handle => 1
  | .movedFrom => 2
  | .zero => 3

/-- What a thread's state reads as (R395); an index that names nothing reads 0. -/
def State.dbgRead (s : State) (c : Nat) (i : BitVec 2) (sel : BitVec 16) : Word :=
  let ix := sel.extractLsb' 0 11
  let t := (s.getThread c i).landed
  match dbgClass sel with
  | .g => if ix.toNat < 32 then (t.greg (ix.extractLsb' 0 5)).val else 0
  | .v => if ix.toNat < 256 then (t.rdV (ix.extractLsb' 3 5)).extractLsb' (64 * (ix.toNat % 8)) 64 else 0
  | .p => if ix.toNat < 8 then t.rdP (ix.extractLsb' 0 3) else 0
  | .lc => ((t.lc[(loopIndex ix).1]?).map (fun l => l.part (loopIndex ix).2)).getD 0
  | .pc => t.pc
  | .sys => ((SysReg.ofCode ix).map ({ s with act := { s.act with core := c, thr := i } }).sreg).getD 0
  | .tags => if ix.toNat < 32 then (t.tagOf (ix.extractLsb' 0 5)).code.setWidth 64 else 0
  | .none => 0

/-- What DBGDATA answers a requester (R395): 0 for the state of a thread whose domain is not its owner's. -/
def State.dbgAnswer (s : State) (c : Nat) (i : BitVec 2) (req : Requester) (sel : BitVec 16) : Word :=
  if req.owner = some (s.domain (s.getThread c i).domid).owner then s.dbgRead c i sel else 0

/-- DBGDATA. -/
def execDbgData (core : Nat) (req : Requester) (write : Option Word) (s : State) : Outcome :=
  let d := (s.getCore core).dbg
  let i := d.sel.extractLsb' 14 2
  let t := s.getThread core i
  if !s.isCompute core then .next s
  else if !reqHas req .guest then .next (s.dbgError core 2)
  else if !d.halted then .next (s.dbgError core 1)
  else
    match write with
    | none => .next ((s.dbgError core 0).modDbg core (fun e => { e with data := s.dbgAnswer core i req d.sel }))
    | some x =>
      if req.owner ≠ some (s.domain t.domid).owner then .next (s.dbgError core 4)
      else if dbgClass d.sel = .g && (t.tagOf (d.sel.extractLsb' 0 5) = .handle) && (d.sel.extractLsb' 0 11).toNat < 32 then
        .next (s.dbgError core 3)
      else .next ((s.dbgError core 0).dbgWrite core i (Level.ofCode req.level) d.sel x)

/-! ### REGISTER_WRITE (R291, R392, R396) -/

/-- A write of DBGCTL. -/
def State.dbgctl (s : State) (c : Nat) (v : Word) : State :=
  let s := s.modDbg c (fun d => { d with
    traceOn := v.getLsbD 8, step := v.getLsbD 7, stepThr := v.extractLsb' 5 2, brkHalt := v.getLsbD 4, attached := v.getLsbD 0 })
  let s := if v.getLsbD 3 then s.resumeCore c else s
  if v.getLsbD 2 then s.askStop c else s

/-- The level that a match register's value needs (R397). -/
def matchLevel (v : Word) : Level := if v.getLsbD 61 then .guest else .hyper

/-- REGISTER_WRITE. MIGCTL is the host driver's; XFENCE is read only (R30). -/
def execRegisterWrite (target : RegTarget) (req : Requester) (v : Word) (s : State) : Outcome :=
  match target with
  | .migctl => .next { s with migctl := v &&& 0xFFFFFF03 }
  | .xfence => .next s
  | .dbgctl c =>
    if !s.isCompute c then .next s
    else if !reqHas req .hyper then .next (s.dbgError c 2)
    else .next ((s.dbgError c 0).dbgctl c v)
  | .dbgsel c =>
    if !s.isCompute c then .next s
    else if !reqHas req .guest then .next (s.dbgError c 2)
    else .next ((s.dbgError c 0).modDbg c (fun d => { d with sel := v.extractLsb' 0 16 }))
  | .dbgm c n =>
    if !s.isCompute c then .next s
    else if !reqHas req (matchLevel v) then .next (s.dbgError c 2)
    else .next ((s.dbgError c 0).modDbg c (fun d => { d with m := d.m.set n.toNat ⟨v, req.owner⟩ n.isLt }))

/-! ### Execute matches (R396) -/

/-- The first match register that applies to a head that is about to issue: its number, and whether it traps. -/
def State.execMatch (s : State) (c : Nat) (i : BitVec 2) (pc : Word) : Option (Nat × Bool) :=
  let k := s.getCore c
  let t := k.thread i
  if t.exempt then none
  else
    (k.dbg.m.toList.zipIdx.find? (fun e =>
      let v := e.1.val
      v.extractLsb' 62 2 = 1 && v.getLsbD (57 + i.toNat) && e.1.owner = some (s.domain t.domid).owner &&
        v.extractLsb' 0 57 = pc.extractLsb' 0 57)).map (fun e => (e.2, e.1.val.getLsbD 61))

/-- What an execute match does: a precise BREAKPOINT, or a halt with the pc at the head. -/
def State.matched (s : State) (c : Nat) (i : BitVec 2) (m : Nat × Bool) : State :=
  if m.2 then s.deliver c i (flt .breakpoint (BitVec.ofNat 64 (m.1 * 4096))) false (s.getThread c i).pc
  else
    (s.modDbg c (fun d => { d with request := some 4, hit := BitVec.ofNat 2 m.1, thread := i })).post (.debugStop c)

end Sys2Proof.Machine
end

