-- ==== Sys2Proof/Machine/Launch.lean ====
section
/-! DEFINITION. Launches: the checks of a header, acceptance, the completion record, the creation of records, host queues,
gangs and the quiescence sweep (spec/01_described_work.md R13-R22; spec/02_launched.md R29-R42; spec/03_placed.md R53-R57;
spec/20_retired.md R401-R404). -/

namespace Sys2Proof.Machine

/-! ### The checks of a header (R14, R18, R20) -/

/-- Check 3. -/
def fieldsOk (h : List Word) : Bool :=
  let n := hdrFields h
  1 ≤ n && n ≤ 6 && ((List.range 6).map (hdrWidth h)).foldl (· + ·) 0 ≤ 64 && (List.range 6).all (fun i =>
    if i < n then 1 ≤ hdrWidth h i && hdrWidth h i ≤ 32 && 1 ≤ hdrExtent h i && hdrExtent h i ≤ 2 ^ hdrWidth h i
    else hdrWidth h i = 0 && hdrExtent h i = 1)

/-- The fields that differ among the members of a group. -/
def groupFields (h : List Word) : List Nat := (List.range 8).filter (hdrGroup h)

/-- Check 5. -/
def groupOk (h : List Word) (cores : Nat) : Bool :=
  match groupFields h with
  | [] => hdrMembers h = 0 && hdrTimer h = 0
  | l => hdrMembers h = l.foldl (fun n i => n * hdrExtent h i) 1 && 2 ≤ hdrMembers h && hdrMembers h ≤ 64 && hdrMembers h ≤ cores

/-- Check 9. -/
def boundsOk (h : List Word) : Bool :=
  let (a, b, c) := hdrPb h
  2 ≤ a.toNat && a.toNat + 4 ≤ b.toNat && b.toNat ≤ c.toNat && c.toNat ≤ b.toNat + 32 && c.toNat ≤ 47

/-- The first check of R20 that fails; `o` is the owner of the submitting queue, and a group is bounded by the cores of the launch's owner
(R13, R18). -/
def State.headerCheck (s : State) (o : BitVec 4) (h : List Word) : Option Nat :=
  let w := fun i => h.getD i 0
  let high := fun (f : Nat → Bool) => (List.range 8).any (fun i => f i && hdrFields h ≤ i)
  if w 13 = 0 ∨ (w 13).toNat % 32 ≠ 0 then some 1
  else if (w 4).extractLsb' 39 25 ≠ 0 ∨ (w 8).extractLsb' 44 20 ≠ 0 ∨ (w 8).extractLsb' 22 10 ≠ 0 ∨ (w 12).extractLsb' 48 16 ≠ 0 ∨
      w 15 ≠ 0 then some 2
  else if !fieldsOk h then some 3
  else if high (hdrPlace h) || high (hdrGroup h) || decide (2 < ((List.range 8).filter (hdrPlace h)).length) then some 4
  else if !groupOk h (s.locked (hdrOwner h)).length then some 5
  else if hdrFlag h 21 && (List.range 8).any (hdrPlace h) then some 6
  else if hdrFlag h 19 && hdrFlag h 20 then some 7
  else if hdrFlag h 18 != (w 14 != 0) || (w 14).toNat % 8 != 0 then some 8
  else if !boundsOk h then some 9
  else if hdrOwner h ≠ o ∨ (s.domain (hdrDomain h)).state ≠ .live ∨ (s.domain (hdrDomain h)).owner ≠ o then some 10
  else if !headOk (w 1) then some 11
  else none

/-! ### The completion record (R22) -/

/-- Writes words to memory, 8 bytes each. -/
def State.pokeWords (s : State) (pa : Nat) : List Word → State
  | [] => s
  | w :: r => (s.poke pa 8 w.toNat).pokeWords (pa + 8) r

/-- Where an access of the Lodge, a dispatcher or a Kiosk core falls, with a domain's rights at user level: it fails as R182 says, and
stalls on a page in motion (R292). -/
def State.agentPlace (s : State) (a : Acc) (dom : BitVec 8) (va : Word) : Ex (Nat × State) :=
  if va.toNat % a.align ≠ 0 then a.fault .misaligned va 0
  else if classOf va ≠ .global then a.fault .pageNotPresent va 1
  else
    match s.checkPa a dom .user va va with
    | .error e => .error e
    | .ok ((pa, _), s) =>
      if paSpace pa = 3 && s.hostDown then raise (flt .hostLinkDown 0)
      else if s.inMotion (cellOf pa) then .error (.hold (some (.moving va)))
      else .ok (pa, s)

/-- Whether an access stalls. -/
def mustWait {α : Type} : Ex α → Bool
  | .error (.hold _) => true
  | _ => false

/-- Where a completion record is written; it is lost where this faults. -/
def State.recordPlace (s : State) (o : BitVec 4) (h : List Word) : Ex (Nat × State) :=
  let d := s.domain (hdrDomain h)
  if d.state ≠ .live ∨ d.owner ≠ o then raise (flt .domainRights 0)
  else s.agentPlace { write := true, size := 32, align := 32 } (hdrDomain h) (h.getD 13 0)

/-- The word at an offset of a host queue's control block (R32). -/
def HostQueue.word (q : HostQueue) (off : Nat) : Word :=
  match off with
  | 0x00 => q.ring
  | 0x08 => 0#28 ++ q.owner ++ q.entries
  | 0x10 => q.tail
  | 0x80 => q.head
  | 0x88 => q.errIdx ++ q.errCode
  | _ => 0

/-- The control block of a queue, 32 words from offset 0 on; one that the hypervisor has not created reads 0 (R32). -/
def State.queueBlock (s : State) (n : Nat) : List Word :=
  (List.range 32).map (fun i => ((s.hostq.find? (fun q => q.number = n)).map (fun q => q.word (8 * i))).getD 0)

/-- Reports an entry of a queue, by its producer count (R32). -/
def HostQueue.report (q : HostQueue) (code : BitVec 8) (index : Word) : HostQueue := { q with errCode := code, errIdx := index.setWidth 56 }

/-- Changes a host queue. -/
def State.modQueue (s : State) (q : Nat) (f : HostQueue → HostQueue) : State :=
  { s with hostq := s.hostq.map (fun x => if x.number = q then f x else x) }

/-- Writes the completion record of a launch, or reports its loss in its host queue; one whose place lies in a page in motion waits for the
end of the move (R292). -/
def State.writeRecord (s : State) (o : BitVec 4) (src : LaunchSrc) (producer : Nat) (h : List Word) (status check : BitVec 8)
    (run faults : Nat) : State :=
  match s.recordPlace o h with
  | .ok (pa, s) => s.pokeWords pa [h.getD 0 0, 0#48 ++ check ++ status, BitVec.ofNat 64 run, BitVec.ofNat 64 faults]
  | .error (.hold _) => { s with late := s.late ++ [⟨o, src, producer, h, status, check, run, faults⟩] }
  | .error _ =>
    match src with
    | .host q => s.modQueue q (fun x => x.report 4 (BitVec.ofNat 64 producer))
    | .device _ _ => s

/-- Writes the completion records that have waited for a move; one that meets another page in motion waits on. -/
def State.writeLate (s : State) : State :=
  s.late.foldl (fun s r => s.writeRecord r.owner r.src r.producer r.header r.status r.check r.run r.faults) { s with late := [] }

/-! ### Modes of owners (R53) -/

/-- Recomputes the mode of an owner. -/
def State.remode (s : State) (o : BitVec 4) : State :=
  let live := s.launches.filter (fun l => l.owner = o)
  s.modOwner o (fun r => { r with
    mode := if live.any (fun l => hdrFlag l.header 19) then .strict
      else if live.any (fun l => hdrFlag l.header 20) then .lending
      else r.defMode })

/-! ### Gang descriptors (R39) -/

/-- Reads words at a virtual address with a domain's rights at user level. -/
def State.domainWords (s : State) (dom : BitVec 8) (va : Word) : Nat → Ex (List Word × State)
  | 0 => .ok ([], s)
  | n + 1 => do
    let (pa, s) ← s.agentPlace { size := 8, align := 8 } dom va
    match s.lineRead pa 8 va 0 with
    | .ok (x, s) => do
      let (r, s) ← s.domainWords dom (va + 8) n
      .ok (BitVec.ofNat 64 x :: r, s)
    | .error _ => raise (flt .integrity 0)

/-- The words of a gang descriptor and of its member table. -/
def State.gangWords (s : State) (h : List Word) : Ex (List Word × List Word × State) := do
  let (w, s) ← s.domainWords (hdrDomain h) (h.getD 14 0) 4
  let (t, s) ← s.domainWords (hdrDomain h) (w.getD 2 0) ((w.getD 1 0).extractLsb' 0 16).toNat
  .ok (w, t, s)

/-- The gang of a launch, from its descriptor; none when the descriptor makes the member refuse prepare. DESIGN CHOICE (log entry 25): the
descriptor and the member table are read at virtual addresses of the header's domain with user rights, and one that cannot be read makes
the member refuse too. -/
def State.readGang (s : State) (l : Launch) : Option (Gang × State) :=
  match s.gangWords l.header with
  | .error _ => none
  | .ok (w, t, s) =>
    let w1 := w.getD 1 0
    let n := (w1.extractLsb' 0 16).toNat
    let self := (w1.extractLsb' 16 16).toNat
    let mods := t.map (fun x => x.toNat % 2 ^ 11)
    if w1.extractLsb' 32 32 ≠ 0 ∨ w.getD 3 0 ≠ 0 ∨ n < 2 ∨ 1536 < n ∨ n ≤ self ∨ t.any (fun x => x.extractLsb' 11 53 != 0) ∨
        mods.eraseDups.length ≠ n ∨ mods.getD self 2048 ≠ s.module.toNat then none
    else some ({ noGang with gangId := w.getD 0 0, self := self, table := mods, sentAt := s.ns }, s)

/-- Whether a gang's descriptor lies in a page in motion, so that its launch waits (R292). -/
def State.gangStalls (s : State) (h : List Word) : Bool := hdrFlag h 18 && mustWait (s.gangWords h)

/-! ### Acceptance (R20, R34) -/

/-- Accepts or refuses a header that passed check 1 of its queue. A gang's launch is held until its commit (R40), and
member 0 sends prepare. DESIGN CHOICE (log entry 25): a descriptor that makes the member refuse is refused at once, whoever would have sent
prepare. -/
def State.accept (s : State) (o : BitVec 4) (src : LaunchSrc) (producer die : Nat) (h : List Word) : State :=
  match s.headerCheck o h with
  | some 1 => s
  | some k => s.writeRecord o src producer h (if k = 10 then 2 else 1) (BitVec.ofNat 8 k) 0 0
  | none =>
    let (id, s) := s.newId
    let l : Launch :=
      { serial := id, header := h, owner := o, src := src, producer := producer, die := die, created := [], run := 0, faults := 0,
        dealt := none, sent := Vector.replicate 4 0, seen := [], sums := none, status := 0, gang := noGang }
    let s := { s with launches := s.launches ++ [l] }.remode o
    if !hdrFlag h 18 then s
    else
      match s.readGang l with
      | none => s.post (.prepare die id)
      | some (g, s) => if g.self = 0 then s.post (.prepare die id) else s

/-- n words of device memory from a physical address on, as a coherent agent reads them. -/
def State.peek (s : State) (pa : Nat) : Nat → List Word × State
  | 0 => ([], s)
  | n + 1 =>
    let s := s.recall (lineOf (cellOf pa))
    let w := BitVec.ofNat 64 (s.bytesAt (cellOf pa) 8)
    let (r, s) := s.peek (pa + 8) n
    (w :: r, s)

/-- Where the next entry of a host queue lies. -/
def HostQueue.entryAt (q : HostQueue) : Nat := q.ring.toNat + q.head.toNat % q.entries.toNat * 128

/-- The header of an entry of a host queue. -/
def State.entryHeader (s : State) (q : HostQueue) : List Word × State := s.peek q.entryAt 16

/-- Whether the next entry of a host queue lies in a page in motion, or the descriptor that its header names does (R292). -/
def State.entryStalls (s : State) (q : HostQueue) : Bool := s.inMotion (cellOf q.entryAt) || s.gangStalls (s.entryHeader q).1

/-- A Kiosk core takes the next entry of a queue. DESIGN CHOICE (log entry 71): the launch is accepted by the dispatcher of the die of the
owner's lowest-numbered core, or of die 0 where the owner has none. -/
def State.takeEntryOf (s : State) (q : HostQueue) : State :=
  let waiting := (q.tail - q.head).toNat
  if q.stopped || (s.ownerRec q.owner).frozen.isSome || !s.ctlUp || waiting = 0 then s
  else if q.entries.toNat < waiting then s.modQueue q.number (fun x => { x.report 2 x.head with stopped := true })
  else if s.entryStalls q then s.post (.launchAccept (.host q.number))
  else
    let (h, s) := s.entryHeader q
    let src := LaunchSrc.host q.number
    let s := if s.headerCheck q.owner h = some 1 then s.modQueue q.number (fun x => x.report 1 x.head)
      else s.accept q.owner src q.head.toNat (((s.locked q.owner).head?.map coreDie).getD 0) h
    let s := s.modQueue q.number (fun x => { x with head := x.head + 1 })
    if 1 < waiting then s.post (.launchAccept src) else s

/-- LAUNCH_ACCEPT. -/
def execLaunchAccept (src : LaunchSrc) (s : State) : Outcome :=
  match src with
  | .host q =>
    match s.hostq.find? (fun x => x.number = q) with
    | some x => .next (s.takeEntryOf x)
    | none => .next s
  | .device die o =>
    match s.devq.find? (fun e => e.die = die && e.owner = o) with
    | some e =>
      if s.gangStalls e.header then .next (s.post (.launchAccept src))
      else .next ({ s with devq := s.devq.erase e }.accept o src 0 die e.header)
    | none => .next s

/-- QUEUE_TAIL_WRITE (R33). -/
def execQueueTailWrite (queue : Nat) (tail : Word) (s : State) : Outcome :=
  if !s.ctlUp || s.hostq.all (fun q => q.number != queue) then .next s
  else .next ((s.modQueue queue (fun q => { q with tail := tail })).post (.launchAccept (.host queue)))

/-! ### Placement of work items (R56, R57) -/

/-- The die and router of a line of memory (R56). -/
def homeRouter (pa : Nat) : Option (Nat × Nat) :=
  let cell := cellOf pa
  if paSpace cell ≠ 1 then none
  else
    let sr := sliceOf pa / 2
    some (cellStack cell / 3, if sr < 8 then sr else 8 + sr % 8)

/-- The core that a work item goes to, with the core that the dealing has reached; none while the translation of its address stalls. -/
def State.targetOf (s : State) (l : Launch) (n : Nat) : (Option Nat × Option Nat) × State :=
  let h := l.header
  let hash := (s.hashTarget l.owner (hdrWorkId h n), l.dealt)
  if (List.range 8).any (hdrPlace h) then
    let va := hdrTile h n
    if classOf va ≠ .global then (hash, s)
    else
      match s.checkPa { size := 1, align := 1 } (hdrDomain h) .user va va with
      | .ok ((pa, _), s) =>
        match homeRouter pa with
        | some (die, key) => ((s.nearRouter l.owner die key, l.dealt), s)
        | none => (hash, s)
      | .error (.hold _) => ((none, l.dealt), s)
      | .error _ => (hash, s)
  else if hdrFlag h 21 then
    let cores := s.locked l.owner
    let next := match l.dealt with
      | some d => match cores.find? (fun c => decide (d < c)) with
        | some c => some c
        | none => cores.head?
      | none => cores.head?
    match next with
    | some c => ((s.nearRouter l.owner (coreDie c) (coreRouter c), some c), s)
    | none => ((none, l.dealt), s)
  else (hash, s)

/-- Records created from launches that a core's queue holds. -/
def Core.supply (k : Core) : Nat := (k.records.filter (fun r => r.made)).length

/-- Whether a dispatcher may create one more record for a core. -/
def State.supplies (s : State) (c : Nat) : Bool := decide ((s.getCore c).supply < 16) && !(s.getCore c).queueFull

/-- The record of a work item. -/
def Launch.record (l : Launch) (id n target : Nat) (g : Option GRef) : Record :=
  { id := id, code := l.word 1, frame := hdrFrame l.header n, join := 0, workId := hdrWorkId l.header n, launch := l.serial,
    owner := l.owner, prio := hdrPrio l.header, group := g, target := target, enq := 0, promo := 0, waited := 0, heldBack := false,
    made := true }

/-- The dispatcher of the die that accepted a launch creates a record: it has sent it, and the core takes it (R401). -/
def State.create (s : State) (l : Launch) (n c : Nat) (g : Option GRef) : State :=
  let (id, s) := s.newId
  (s.modLaunch l.serial (fun l => { l.sendAt (BitVec.ofNat 2 (coreDie c)) with created := n :: l.created })).enqueue c (l.record id n c g)

/-- The members of the group of a work item: the items that agree with it outside the group's fields. -/
def groupItems (h : List Word) (n : Nat) : List Nat :=
  let weight := fun i => (List.range i).foldl (fun m j => m * hdrExtent h j) 1
  let base := (groupFields h).foldl (fun n i => n - hdrValue h n i * weight i) n
  (groupFields h).foldl (fun l i => (List.range (hdrExtent h i)).flatMap (fun v => l.map (fun x => x + v * weight i))) [base]

/-- The fewest routers that hold a number of cores, taken nearest first: each router is its list of cores. -/
def fewestRouters : Nat → Nat → List (List Nat) → List (List Nat)
  | _, 0, _ => []
  | _, _, [] => []
  | need, k + 1, r :: rest =>
    let best := (((rest.map List.length).mergeSort (fun a b => decide (b ≤ a))).take k).foldl (· + ·) 0
    if need ≤ r.length + best then r :: fewestRouters (need - r.length) k rest else fewestRouters need (k + 1) rest

/-- How many routers a number of cores needs. -/
def routersNeeded (need : Nat) (sizes : List Nat) : Nat :=
  ((List.range (sizes.length + 1)).find? (fun k =>
    decide (need ≤ ((sizes.mergeSort (fun a b => decide (b ≤ a))).take k).foldl (· + ·) 0))).getD 0

/-- The distinct cores for the members of a group, from the router of a core on (R57), in the order of the members' items. DESIGN CHOICE (log
entry 71): of two routers at the same distance the one of the lower number is taken first, and of the cores of a router those with the fewest
queued records, of equal ones the lowest number. -/
def State.groupCores (s : State) (o : BitVec 4) (first need : Nat) : List Nat :=
  let cores := s.locked o
  let routers := ((cores.map (fun c => c / 16)).eraseDups.mergeSort (fun a b =>
    decide (coreHops first (16 * a) < coreHops first (16 * b) ∨ (coreHops first (16 * a) = coreHops first (16 * b) ∧ a ≤ b)))).map
      (fun r => (cores.filter (fun c => c / 16 = r)).mergeSort (fun a b =>
        decide ((s.getCore a).queue.length < (s.getCore b).queue.length ∨ ((s.getCore a).queue.length = (s.getCore b).queue.length ∧ a ≤ b))))
  ((fewestRouters need (routersNeeded need (routers.map List.length)) routers).flatten).take need

/-- A member record of a new group. -/
def newMember (core : Nat) : Member :=
  { core := some core, enrolled := false, left := none, counter := 0, late := false, aged := false, part := false, skipped := false, asked := 0 }

/-- Creates the records of a group, once a slot is free and its cores have room (R251). -/
def State.createGroup (s : State) (l : Launch) (n : Nat) : State :=
  let items := groupItems l.header n
  match s.targetOf l (items.headD n) with
  | ((none, _), s) => s
  | ((some first, dealt), s) =>
    let cores := s.groupCores l.owner first items.length
    let die := coreDie (cores.headD first)
    let used := (s.groups.filter (fun g => g.die.toNat = die)).map (fun g => g.slot.toNat)
    if cores.length < items.length || !cores.all s.supplies then s
    else
      match pickFree s.free ((List.range 256).filter (fun x => !used.contains x)) with
      | none => s
      | some slot =>
        let gen := getKey (die * 256 + slot) 0 s.ggens + 1
        let d := BitVec.ofNat 2 die
        let sl := BitVec.ofNat 8 slot
        let g : Group := ⟨d, sl, gen, l.serial, hdrDomain l.header, items.length, hdrTimer l.header, 0, cores.map newMember, none, []⟩
        let s := ({ s.spent with groups := s.groups ++ [g], ggens := putKey (die * 256 + slot) gen s.ggens }).modLaunch l.serial
          (fun l => { l with dealt := dealt })
        ((items.zip cores).zipIdx).foldl (fun s x => s.create l x.1.1 x.1.2 (some ⟨d, sl, gen, x.2⟩)) s

/-- The work item that is created next when an item is proposed: the first from it on that has not been created. -/
def Launch.nextItem (l : Launch) (n : Nat) : Option Nat :=
  let total := hdrItems l.header
  ((List.range (min total (l.created.length + 1))).map (fun k => (n + k) % total)).find? (fun x => !l.created.contains x)

/-- Whether a launch's continuations may be created: no gang holds it, and its owner is not frozen. -/
def State.released (s : State) (l : Launch) : Bool :=
  (s.ownerRec l.owner).frozen.isNone &&
    (!hdrFlag l.header 18 || (match l.gang.phase with | .committed _ => true | _ => false))

/-- RECORD_CREATE: a dispatcher creates the record of a work item, or those of its group. -/
def execRecordCreate (launch : Nat) (n : Nat) (s : State) : Outcome :=
  match s.launchOf launch with
  | none => .next s
  | some l =>
    if !s.released l then .next s
    else
      match l.nextItem n with
      | none => .next s
      | some n =>
        if (groupFields l.header).isEmpty then
          match s.targetOf l n with
          | ((some c, dealt), s) =>
            if s.supplies c then .next ((s.modLaunch launch (fun l => { l with dealt := dealt })).create l n c none) else .next s
          | ((none, _), s) => .next s
        else .next (s.createGroup l n)

/-! ### Gangs (R39-R41) -/

/-- Deadlines of the gang protocol, in nanoseconds. -/
abbrev gangDeadline : Nat := 2000000

/-- Changes the gang of a launch. -/
def State.modGang (s : State) (launch : Nat) (f : Gang → Gang) : State := s.modLaunch launch (fun l => { l with gang := f l.gang })

/-- Whether a message of a gang from one of its other members is refused, because that member's module has rejoined with other digests
(R45). -/
def State.gangRefuses (s : State) (g : Gang) (member : Nat) : Bool :=
  decide (member ≠ g.self) && s.refused.contains (g.table.getD member 2048, g.gangId)

/-- A launch ends without having run (R40). -/
def State.abortLaunch (s : State) (l : Launch) : State :=
  let s := { s with launches := s.launches.filter (fun x => x.serial != l.serial) }
  (s.writeRecord l.owner l.src l.producer l.header 3 0 0 0).remode l.owner

/-- A gang launch that has neither committed nor aborted. -/
def Launch.pending (l : Launch) : Bool :=
  hdrFlag l.header 18 && (match l.gang.phase with
    | .none => true
    | .prepared _ => true
    | _ => false)

/-- PREPARE: the member reads its descriptor, holds its launch, and replies; one that refuses aborts. -/
def execPrepare (die : Nat) (header : Nat) (s : State) : Outcome :=
  match s.launches.find? (fun l => l.serial = header && l.die = die && l.pending) with
  | none => .next s
  | some l =>
    if l.gang.phase ≠ .none then .next s
    else if s.gangStalls l.header then .next (s.post (.prepare die header))
    else
      match s.readGang l with
      | none => .next (s.abortLaunch l)
      | some (g, s) =>
        if s.gangRefuses g 0 then .next s
        else .next ((s.modGang header (fun _ => { g with phase := .prepared s.ns })).post (.prepared header g.self))

/-- Whether a member's gang is in a phase, and since when. -/
def Gang.preparedAt (g : Gang) : Option Nat := match g.phase with
  | .prepared t => some t
  | _ => none

/-- When a member committed. -/
def Gang.committedAt (g : Gang) : Option Nat := match g.phase with
  | .committed t => some t
  | _ => none

/-- The digests that a member of this module replies with (R42): those of its indices 1 to 5 and of an owner's. -/
def State.ownDigests (s : State) (o : BitVec 4) : Nat :=
  [1, 2, 3, 4, 5, 0x10 + o.toNat].foldl (fun n i => n * 2 ^ 384 + (getKey i 0 s.meas).toNat) 0

/-- The digests of a member of a gang: this module's own; those that its prepared reply carried; or, where this module has received
none, what is not determined. -/
def State.digestsOf (s : State) (l : Launch) (j : Nat) : Nat :=
  if j = l.gang.self then s.ownDigests l.owner else getKey j (Config.freeNat (s.fresh + j)) l.gang.digests

/-- PREPARED, at member 0: one that arrives after the deadline is ignored; with every one, commit is sent. It carries the member's
digests. -/
def execPrepared (launch : Nat) (member : Nat) (s : State) : Outcome :=
  match s.launchOf launch with
  | none => .next s
  | some l =>
    if l.gang.self ≠ 0 ∨ l.gang.preparedAt.isNone ∨ l.gang.sentAt + gangDeadline ≤ s.ns ∨ l.gang.table.length ≤ member then .next s
    else if s.gangRefuses l.gang member then .next s
    else
      let all := (member :: l.gang.prepared).eraseDups
      let d := s.digestsOf l member
      let s := s.spent.modGang launch (fun g => { g with prepared := all, digests := putKey member d g.digests })
      .next (if all.length = l.gang.table.length then s.post (.commit launch) else s)

/-- PREPARE_TIMEOUT, at member 0. -/
def execPrepareTimeout (launch : Nat) (s : State) : Outcome :=
  match s.launchOf launch with
  | none => .next s
  | some l =>
    if l.gang.self = 0 && l.gang.preparedAt.isSome && l.gang.sentAt + gangDeadline ≤ s.ns &&
        decide (l.gang.prepared.length < l.gang.table.length) then .next (s.post (.abort launch))
    else .next s

/-- PREPARED_HOLD_TIMEOUT. -/
def execPreparedHoldTimeout (launch : Nat) (s : State) : Outcome :=
  match s.launchOf launch with
  | none => .next s
  | some l =>
    match l.gang.preparedAt with
    | some t => if t + gangDeadline ≤ s.ns then .next (s.abortLaunch l) else .next s
    | none => .next s

/-- COMMIT: the member releases its continuations; one that has waited for it past the deadline aborts. -/
def execCommit (launch : Nat) (s : State) : Outcome :=
  match s.launchOf launch with
  | none => .next s
  | some l =>
    match l.gang.preparedAt with
    | none => .next s
    | some t =>
      if s.gangRefuses l.gang 0 then .next s
      else if t + gangDeadline ≤ s.ns then .next (s.abortLaunch l)
      else .next (s.modGang launch (fun g => { g with phase := .committed s.ns, commits := (g.self :: g.commits).eraseDups }))

/-- COMMITTED: one that arrives after its deadline is ignored; one that overtakes the member's own commit counts. -/
def execCommitted (launch : Nat) (member : Nat) (s : State) : Outcome :=
  match s.launchOf launch with
  | none => .next s
  | some l =>
    if s.gangRefuses l.gang member then .next s
    else
    match l.gang.committedAt with
    | some t =>
      if t + gangDeadline ≤ s.ns ∨ l.gang.lost.contains member then .next s
      else .next (s.modGang launch (fun g => { g with commits := (member :: g.commits).eraseDups }))
    | none =>
      if l.gang.preparedAt.isNone then .next s
      else .next (s.modGang launch (fun g => { g with commits := (member :: g.commits).eraseDups }))

/-- COMMITTED_TIMEOUT: the member is declared lost. -/
def execCommittedTimeout (launch : Nat) (member : Nat) (s : State) : Outcome :=
  match s.launchOf launch with
  | none => .next s
  | some l =>
    match l.gang.committedAt with
    | some t =>
      if t + gangDeadline ≤ s.ns && decide (member < l.gang.table.length) && !l.gang.commits.contains member && !l.gang.lost.contains member then
        .next (s.post (.lost launch member))
      else .next s
    | none => .next s

/-- ABORT. -/
def execAbort (launch : Nat) (s : State) : Outcome :=
  match s.launchOf launch with
  | none => .next s
  | some l => if l.pending && !s.gangRefuses l.gang 0 then .next (s.abortLaunch l) else .next s

/-- Combines the partials of U copies over the collective records, so that a status 1 there ends the registration (R42, R324). -/
def State.dropEnded (s : State) : State :=
  s.collects.foldl (fun s x => s.recall (lineOf (cellOf (x.pa + 24)))) s

/-- The collective records of a gang that name a member take a status, once each (R42). -/
def State.markCollectives (s : State) (launch member : Nat) (status : Nat) : State :=
  let s := s.dropEnded
  let hit := s.collects.filter (fun x => x.launch = launch && x.names.contains member && !x.written)
  let s := hit.foldl (fun s x => s.poke (x.pa + 24) 8 (member % 2 ^ 11 * 2 ^ 32 + status)) s
  { s with collects := s.collects.map (fun x => if hit.contains x then { x with written := true } else x) }

/-- The streams of a launch whose routes end at a module, which may be this one, break (R42): with reason 12 where they arrive, or as at an
exit that is down (log entry 40). -/
def State.breakTo (s : State) (launch module reason : Nat) : State :=
  (s.streams.filter (fun x => x.launch = launch && x.beyond.getD s.module.toNat = module)).foldl (fun s x =>
    s.breakStream x.id (match x.links.find? (fun h => if reason = 12 then h.word = 2 else h.leaves) with
      | some h => h.verdict reason
      | none => verdict reason 0 0 0)) s

/-- LOST (R41): every continuation of the launch takes the trap at its next safe point. -/
def execLost (launch : Nat) (member : Nat) (s : State) : Outcome :=
  match s.launchOf launch with
  | none => .next s
  | some l =>
    if l.gang.lost.contains member ∨ l.gang.table.length ≤ member then .next s
    else
      let s := s.modLaunch launch (fun l => { l with status := 4, gang := { l.gang with lost := l.gang.lost ++ [member] } })
      let f := flt .gangMemberLost (BitVec.ofNat 64 member)
      let s := s.mapCores (fun _ k => { k with parked := k.parked.map (fun p =>
        if (p.th.run.map Cont.launch) = some launch then p.holdTrap ⟨f, none, false⟩ s.cycle else p) })
      let s := s.coreNums.foldl (fun s c => (s.getCore c).indexed.foldl (fun s e =>
        if (e.2.run.map Cont.launch) = some launch then s.hold c e.1 f else s) s) s
      .next ((s.markCollectives launch member 2).breakTo launch (l.gang.table.getD member 2048) 6)

/-! ### Quiescence (R402-R404) -/

/-- Whether a core is idle for a launch. -/
def State.idleFor (s : State) (c : Nat) (k : Core) (launch : Nat) : Bool :=
  k.threads.all (fun t => (t.run.map Cont.launch) != some launch) && k.parked.all (fun p => (p.th.run.map Cont.launch) != some launch) &&
    k.records.all (fun r => r.launch != launch) && k.cmds.all (fun x => x.launch != launch) &&
    s.streams.all (fun x => !(x.core = c && x.launch = launch && !x.closing))

/-- The number by which a sweep names the dispatcher of a die. -/
def dispatcher (die : Nat) : Nat := lodgeCore + 1 + die

/-- What a sweep reads at a moment of an agent: a core, or the dispatcher of a die. -/
def State.agentNow (s : State) (l : Launch) (a : Nat) : Sample :=
  if a ≤ lodgeCore then
    let k := s.getCore a
    let mine := k.counts.filter (fun x => x.launch = l.serial)
    ⟨a, (mine.map Count.sent).foldl (· + ·) 0, (mine.map Count.recv).foldl (· + ·) 0, s.idleFor a k l.serial⟩
  else
    let die := a - dispatcher 0
    ⟨a, l.sent.toList.getD die 0, 0,
      (die ≠ l.die || l.created.length = hdrItems l.header) && s.dieq.all (fun e => !(e.1 = die && e.2.launch = l.serial))⟩

/-- The agents that a sweep reads. -/
def State.agents (s : State) : List Nat := s.coreNums ++ (List.range 4).map dispatcher

/-- What a sweep finds for a launch: the sums of sent and received, when every agent was idle and the sums are equal. An agent that it
has not read yet is read now; which it has read earlier is not determined (log entry 44). -/
def State.sweep (s : State) (l : Launch) : Option (Word × Word) :=
  let read := s.agents.map (fun a => (l.seen.find? (fun x => x.core = a)).getD (s.agentNow l a))
  let sent := (read.map Sample.sent).foldl (· + ·) 0
  let recv := (read.map Sample.recv).foldl (· + ·) 0
  if read.all Sample.idle && sent = recv then some (sent, recv) else none

/-- A sweep that is under way may read one agent for each launch. -/
def State.maySample (s : State) : State :=
  if s.launches.isEmpty then s
  else
    let l := none :: s.agents.map some
    let a := ((pickFree s.free l).getD none)
    match a with
    | none => s.spent
    | some a => { s.spent with launches := s.launches.map (fun x =>
        if x.seen.any (fun y => y.core = a) then x else { x with seen := x.seen ++ [s.agentNow x a] }) }

/-- Performs the writes of a launch at the cores that held it: their U copies are combined (R404). -/
def State.settleWrites (s : State) (launch : Nat) : State :=
  (s.ucopies.filter (fun u => (s.getCore u.core).counts.any (fun x => x.launch = launch))).foldl (fun s u => s.recall u.line) s

/-- A launch ends: its writes are performed, its completion record is written, and nothing of it remains. -/
def State.endLaunch (s : State) (l : Launch) : State :=
  let s := (s.settleWrites l.serial).writeRecord l.owner l.src l.producer l.header l.status 0 l.run l.faults
  let s := { s with
    launches := s.launches.filter (fun x => x.serial != l.serial)
    groups := s.groups.filter (fun g => g.launch != l.serial)
    collects := s.collects.filter (fun x => x.launch != l.serial) }
  (s.mapCores (fun _ k => { k with counts := k.counts.filter (fun x => x.launch != l.serial) })).remode l.owner

/-- QUIESCENCE_SWEEP of the launches that a die accepted: two successive sweeps with equal sums end a launch. -/
def execQuiescenceSweep (die : Nat) (s : State) : Outcome :=
  .next ((s.launches.filter (fun l => l.die = die)).foldl (fun s l =>
    match s.sweep l with
    | none => s.modLaunch l.serial (fun l => { l with sums := none, seen := [] })
    | some x => if l.sums = some x then s.endLaunch l else s.modLaunch l.serial (fun l => { l with sums := some x, seen := [] })) s)

end Sys2Proof.Machine
end

