-- ==== Sys2Proof/Machine/Lodge.lean ====
section
/-! DEFINITION. The Lodge: owners, queues, scrubs, time slots, collective records, SPDM sessions, and what a hot reset does
(spec/02_launched.md R32, R42-R47; spec/03_placed.md R49-R52; spec/14_fed_host_tiers.md R303). -/

namespace Sys2Proof.Machine

/-! ### Owners and queues (R32, R44, R303) -/

/-- OWNER_CREATE: an owner that already exists is unchanged; one that is given no default of the safe-point budget has that of R24. -/
def execOwnerCreate (owner : BitVec 4) (cert : Nat) (spDefault : Option (BitVec 32)) (lending : Bool) (eventWord : Nat) (traceRing : Nat)
    (traceLen : Nat) (s : State) : Outcome :=
  if (s.ownerRec owner).created then .next s
  else
    let m : OwnerMode := if lending then .lending else .keeping
    .next (s.modOwner owner (fun _ => ⟨true, cert, spDefault.getD (BitVec.ofNat 32 Config.spDefault), m, m, eventWord, traceRing, traceLen, true, none⟩))

/-- A ring size: a power of two from 16 to 4,096. -/
def ringOk (entries : BitVec 32) : Bool := (List.range 9).any (fun k => entries.toNat == 2 ^ (k + 4))

/-- Whether a host queue can be created: at most 1,024, and at most 16 on a Kiosk core. -/
def State.queueOk (s : State) (queue : Nat) (owner : BitVec 4) (kiosk : Nat) (ring : Word) (entries : BitVec 32) : Bool :=
  queue < 1024 && isKiosk kiosk && ringOk entries && ring.toNat % 128 = 0 && (s.ownerRec owner).created &&
    decide ((s.hostq.filter (fun q => q.kiosk = kiosk && q.number != queue)).length < 16)

/-- QUEUE_CREATE: it also re-creates a stopped queue (R35). -/
def execQueueCreate (queue : Nat) (owner : BitVec 4) (kiosk : Nat) (ring : Word) (entries : BitVec 32) (s : State) : Outcome :=
  if s.queueOk queue owner kiosk ring entries then
    .next { s with hostq := s.hostq.filter (fun q => q.number != queue) ++ [⟨queue, ring, owner, kiosk, entries, 0, 0, 0, 0, false⟩] }
  else .next s

/-- Whether a storage queue can be created: its domain is a live one of its owner. -/
def State.storageOk (s : State) (owner : BitVec 4) (dom : BitVec 8) (kiosk : Nat) (entries : BitVec 32) : Bool :=
  isKiosk kiosk && entries != 0 && (s.domain dom).state = .live && (s.domain dom).owner = owner

/-- STORAGE_QUEUE_CREATE. -/
def execStorageQueueCreate (queue : Nat) (owner : BitVec 4) (dom : BitVec 8) (kiosk : Nat) (ns : Nat) (ring : Word)
    (entries : BitVec 32) (tailWord : Word) (s : State) : Outcome :=
  if s.storageOk owner dom kiosk entries then
    .next { s with storeqs := s.storeqs.filter (fun q => q.number != queue) ++ [⟨queue, owner, dom, kiosk, ns, ring, entries, tailWord, 0⟩] }
  else .next s

/-! ### Owner changes and scrubs (R50, R51) -/

/-- Discards the posted messages on their way to a core, which has received them (R185, R401). -/
def State.discardMsgs (s : State) (c : Nat) : State :=
  let gone := s.msgs.filter (fun m => m.dst = c && m.refused.isNone)
  gone.foldl (fun s m => s.modCore c (fun k => k.count m.launch 0 1)) { s with msgs := s.msgs.filter (fun m => !gone.contains m) }

/-- Begins a scrub: the core belongs to no owner, its L1 carve-out is cleaned and invalidated, and what is on its way to it is
discarded. -/
def State.startScrub (s : State) (c : Nat) (valid : Bool) (owner : BitVec 4) : State :=
  let old := s.getCore c
  let s := (s.dropCaches c).discardMsgs c
  let s := s.modCore c (fun k => { k with valid := false, scrub := some (valid, owner, s.cycle) })
  if old.valid then s.extendOwner old.owner else s

/-- Whether a stream channel that ends at a core is open: the core's owner does not change then (R286). -/
def State.streamsTo (s : State) (c : Nat) : Bool := s.streams.any (fun x => x.dstCore = c && !x.closing)

/-- OWNER_CHANGE: refused unless the core is idle and no open channel ends there; one that names the present value changes nothing. DESIGN
CHOICE (log entry 20): during a scrub the value that the scrub is to give counts as the present one, and another value starts the scrub
anew. -/
def execOwnerChange (core : Nat) (valid : Bool) (owner : BitVec 4) (s : State) : Outcome :=
  let k := s.getCore core
  let now := match k.scrub with
    | some (v, o, _) => (v, o)
    | none => (k.valid, k.owner)
  if !s.isCompute core || !s.idleCore core || s.streamsTo core || now = (valid, owner) then .next s
  else .next (s.startScrub core valid owner)

/-- Cycles of a scrub. -/
abbrev scrubCycles : Nat := 8192

/-- A core after a scrub, with its new value of OWNER; its debug module keeps all but its match registers. -/
def Core.scrubbed (k : Core) (valid : Bool) (owner : BitVec 4) : Core :=
  { resetCore with
    threads := Vector.replicate 4 zeroThread
    valid := valid
    owner := owner
    dbg := { k.dbg with m := Vector.replicate 4 ⟨0, none⟩ }
    port := k.port
    counts := k.counts }

/-- Makes lost each handle in a marked word of a core (R348). -/
def State.reclaimMarks (s : State) (c : Nat) : State :=
  (s.trellis.filter (fun e => e.2.state = .inWord && (e.2.word.map Prod.fst) = some c)).foldl
    (fun s e => s.lose (e.1 / 65536) (BitVec.ofNat 16 e.1) 65536) s

/-- SCRUB_END: steps 2 to 7 of R51 are done, and OWNER takes its new value. -/
def execScrubEnd (core : Nat) (s : State) : Outcome :=
  match (s.getCore core).scrub with
  | none => .next s
  | some (valid, owner, since) =>
    if s.cycle < since + scrubCycles then .next s
    else
      let s := (s.reclaimMarks core).modCore core (fun k => k.scrubbed valid owner)
      .next (if valid then s.extendOwner owner else s)

/-! ### Time slots (R52) -/

/-- The owners whose slots differ between two schedules. -/
def slotOwners (a b : List Slot) : List (BitVec 4) :=
  ((List.range 16).map (BitVec.ofNat 4)).filter (fun o =>
    (a.map (fun x : Slot => !x.shared && x.owner = o)) != b.map (fun x : Slot => !x.shared && x.owner = o))

/-- The record of the map that a resource has. -/
def mapOf : Resource → List (MapItem × Option LinkState)
  | .link die key port => [(.link die key port, none)]
  | _ => []

/-- The cycle at which the next slot 0 after a cycle begins: a schedule is 64 slots of one cycle each (R52). -/
def nextSlot0 (now : Nat) : Nat := (now / 64 + 1) * 64

/-- Puts a new schedule of a resource whose slot 0 has come in the place of the old one. -/
def State.settleSchedule (s : State) (res : Resource) : State :=
  match s.schedDue res with
  | some l => { s with
      scheds := s.scheds.filter (fun x => x.1 != res) ++ [(res, l)]
      schedNew := s.schedNew.filter (fun x => x.1 != res) }
  | none => s

/-- TDM_SCHEDULE_WRITE: the measurements are extended and the map changed; the schedule takes effect at the next slot 0. An earlier one
whose slot 0 has come stays in force until then. -/
def execTdmScheduleWrite (res : Resource) (slots : List Slot) (s : State) : Outcome :=
  if slots.length ≠ 64 then .next s
  else
    let changed := slotOwners (s.written res) slots
    let s := s.settleSchedule res
    let s : State := { s with schedNew := s.schedNew.filter (fun e => e.1 != res) ++ [(res, slots, nextSlot0 s.cycle)] }
    let s := s.mapChange (mapOf res)
    .next (changed.foldl (fun s o => s.extendOwner o) (s.extend 5))

/-- SCHEDULE_TAKES_EFFECT: of a schedule whose slot 0 has come. -/
def execScheduleTakesEffect (res : Resource) (s : State) : Outcome := .next (s.settleSchedule res)

/-! ### Collective records (R42, R45) -/

/-- 16-bit elements of words, lowest first. -/
def halvesOf (l : List Word) : List Nat := (l.map (fun w => fieldsOf w 16 4)).flatten

/-- Whether numbers strictly rise. -/
def risingNats : List Nat → Bool
  | a :: b :: r => a < b && risingNats (b :: r)
  | _ => true

/-- Marks a collective record that breaks R42: the Lodge refuses it, and nobody is told. -/
def recordBroken : Flt := flt .pageNotPresent 0

/-- The members that a collective record of a launch names; a fault refuses it, as it does where the record breaks R42. -/
def State.collective (s : State) (l : Launch) (pa : Nat) : Ex (BitVec 16 × List Nat × State) :=
  let (w, s) := s.peek pa 8
  let w1 := w.getD 1 0
  let count := (w1.extractLsb' 0 16).toNat
  let id := w1.extractLsb' 16 16
  let n := l.gang.table.length
  if pa % 64 ≠ 0 ∨ !paOk pa ∨ 2 < paSpace pa ∨ n = 0 ∨ w.getD 0 0 ≠ l.gang.gangId ∨ w1.extractLsb' 32 32 ≠ 0 ∨ count < 2 ∨
      n < count ∨ (w.drop 3).any (fun x => x != 0) ∨ s.collects.any (fun x => x.launch = l.serial && x.collId = id) then raise recordBroken
  else do
    let (t, s) ← s.domainWords (hdrDomain l.header) (w.getD 2 0 &&& ~~~7#64) ((count + (w.getD 2 0).toNat % 8 / 2 + 3) / 4)
    let names := ((halvesOf t).drop ((w.getD 2 0).toNat % 8 / 2)).take count
    if (w.getD 2 0).toNat % 2 = 0 && risingNats names && names.all (fun x => x < n) && names.contains l.gang.self then .ok (id, names, s)
    else raise recordBroken

/-- COLLECTIVE_REGISTER: the record is bound to digests of each member that it names, as their prepared replies gave
them. -/
def execCollectiveRegister (launch : Nat) (pa : Nat) (s : State) : Outcome :=
  match s.launchOf launch with
  | none => .next s
  | some l =>
    match s.dropEnded.collective l pa with
    | .error e => .next (if mustWait (α := Unit) (.error e) then s.post (.collectiveRegister launch pa) else s)
    | .ok (id, names, s) =>
      let x : Collective := ⟨launch, pa, id, names, names.map (s.digestsOf l), false⟩
      .next { s with collects := s.collects ++ [x], fresh := s.fresh + l.gang.table.length }

/-- Whether a record is bound to other digests of a member. -/
def Collective.differs (x : Collective) (member digests : Nat) : Bool :=
  (x.names.zip x.digests).any (fun e => e.1 = member && e.2 != digests)

/-- MEMBER_CHANGED: a module that has rejoined with other digests than a registered record is bound to is refused for
that gang, and the channels that end there break. -/
def execMemberChanged (module : Nat) (digests : Nat) (s : State) : Outcome :=
  .next (s.launches.foldl (fun (s : State) l =>
    let s := s.dropEnded
    match l.gang.table.findIdx? (fun m => m = module) with
    | none => s
    | some j =>
      if s.collects.any (fun x => x.launch = l.serial && x.differs j digests) then
        ({ s with refused := s.refused ++ [(module, l.gang.gangId)] }.markCollectives l.serial j 3).breakTo l.serial module 12
      else s) s)

/-! ### SPDM (R43, R44) -/

/-- Whether the Lodge answers on the control link: bring-up has completed. -/
def State.answers (s : State) : Bool := s.ready && s.ctlUp && !s.tripped

/-- A session. -/
def State.session (s : State) (id : Nat) : Session :=
  (s.sessions.find? (fun x => x.id = id)).getD ⟨id, 0, none, .none⟩

/-- Replaces a session. -/
def State.setSession (s : State) (x : Session) : State :=
  { s with sessions := s.sessions.filter (fun y => y.id != x.id) ++ [x] }

/-- A request of the standard: `n` is its place in the order of R43. One that comes too early is unexpected. -/
def spdm (n request : Nat) (session : Nat) (f : Session → State → Session) (s : State) : Outcome :=
  if !s.answers then .next s
  else
    let x := s.session session
    if x.stage + 1 < n then .next (s.setSession { x with reply := .unexpected })
    else .next (s.setSession (f { x with stage := max x.stage n, reply := .answer (Config.spdmReply request session) } s))

/-- GET_VERSION: it begins a session anew, and is answered even when bring-up has stopped (R414). -/
def execGetVersion (session : Nat) (s : State) : Outcome :=
  if s.tripped || !s.ctlUp then .next s else .next (s.setSession ⟨session, 1, none, .answer (Config.spdmReply 1 session)⟩)

/-- GET_CAPABILITIES. -/
def execGetCapabilities (session : Nat) (s : State) : Outcome := spdm 2 2 session (fun x _ => x) s
/-- NEGOTIATE_ALGORITHMS. -/
def execNegotiateAlgorithms (session : Nat) (s : State) : Outcome := spdm 3 3 session (fun x _ => x) s
/-- GET_DIGESTS. -/
def execGetDigests (session : Nat) (s : State) : Outcome := spdm 4 4 session (fun x _ => x) s
/-- GET_CERTIFICATE. -/
def execGetCertificate (session : Nat) (s : State) : Outcome := spdm 4 5 session (fun x _ => x) s
/-- CHALLENGE. -/
def execChallenge (session : Nat) (s : State) : Outcome := spdm 5 6 session (fun x _ => x) s
/-- GET_MEASUREMENTS. -/
def execGetMeasurements (session : Nat) (s : State) : Outcome :=
  spdm 6 7 session (fun x s => { x with reply := .indices s.meas }) s
/-- KEY_EXCHANGE: what an earlier FINISH authenticated is gone. -/
def execKeyExchange (session : Nat) (s : State) : Outcome :=
  spdm 7 8 session (fun x _ => { x with stage := 7, cert := none }) s

/-- FINISH: it authenticates the requester of a key exchange. -/
def execFinish (session : Nat) (cert : Nat) (s : State) : Outcome :=
  if !s.answers then .next s
  else
    let x := s.session session
    if x.stage ≠ 7 then .next (s.setSession { x with reply := .unexpected })
    else .next (s.setSession { x with stage := 8, cert := some cert, reply := .answer (Config.spdmReply 9 session) })

/-- END_SESSION. -/
def execEndSession (session : Nat) (s : State) : Outcome :=
  if s.answers then .next { s with sessions := s.sessions.filter (fun x => x.id != session) } else .next s

/-- Whether a session's requester is the one of an owner. -/
def State.authentic (s : State) (session : Nat) (o : BitVec 4) : Bool :=
  let x := s.session session
  x.stage = 8 && (s.ownerRec o).created && x.cert = some (s.ownerRec o).cert

/-- A vendor-defined request about an owner: any other session receives UnexpectedRequest. -/
def vendor (session : Nat) (ok : Bool) (reply : SpdmReply) (f : State → State) (s : State) : Outcome :=
  if !s.answers then .next s
  else if ok then .next (f (s.setSession { s.session session with reply := reply }))
  else .next (s.setSession { s.session session with reply := .unexpected })

/-- INSTALL_KEY. -/
def execInstallKey (session : Nat) (dom : BitVec 8) (key : BitVec 256) (s : State) : Outcome :=
  let d := s.domain dom
  vendor session (d.state = .live && s.authentic session d.owner) (.answer (Config.spdmReply 10 session))
    (fun s => s.rekey dom key) s

/-- Thaws the continuations of an owner. -/
def Core.thaw (o : BitVec 4) (k : Core) : Core :=
  { k with parked := k.parked.map (fun p => if (p.th.run.map Cont.owner) = some o then { p with frozen := false } else p) }

/-- RESUME_OWNER. -/
def execResumeOwner (session : Nat) (owner : BitVec 4) (s : State) : Outcome :=
  vendor session (s.authentic session owner) (.answer (Config.spdmReply 11 session))
    (fun s =>
      let s := (s.modOwner owner (fun r => { r with confirmed := true, frozen := none })).mapCores (fun _ k => k.thaw owner)
      (s.hostq.filter (fun q => q.owner = owner)).foldl (fun s q => s.post (.launchAccept (.host q.number))) s) s

/-- OWNER_DIGEST. -/
def execOwnerDigest (session : Nat) (owner : BitVec 4) (s : State) : Outcome :=
  vendor session (s.authentic session owner) (.index (getKey (0x10 + owner.toNat) 0 s.meas)) id s

/-! ### Hot reset and the control link (R46, R47) -/

/-- Whether an owner has live contexts. -/
def State.liveContexts (s : State) (o : BitVec 4) : Bool :=
  s.launches.any (fun l => l.owner = o) || s.domains.any (fun d => d.2.state = .live && d.2.owner = o)

/-- HOT_RESET, or a loss of the control link. -/
def execHotReset (s : State) : Outcome :=
  let s := { s with
    ctlUp := false
    ctlBack := none
    sessions := []
    hostq := s.hostq.map (fun q => { q.report 3 q.head with head := q.tail }) }
  .next ((List.range 16).foldl (fun s n =>
    let o := BitVec.ofNat 4 n
    if s.liveContexts o then s.modOwner o (fun r => { r with confirmed := false }) else s) s)

/-- CONTROL_LINK_RETURN: the 30 s begin. -/
def execControlLinkReturn (s : State) : Outcome := .next { s with ctlUp := true, ctlBack := some s.ns }

/-- 30 s and 10 minutes, in nanoseconds. -/
abbrev resumeLimit : Nat := 30000000000
/-- How long an owner stays frozen before it is scrubbed. -/
abbrev freezeLimit : Nat := 600000000000

/-- Whether an owner has let the 30 s pass. -/
def State.freezes (s : State) (o : BitVec 4) : Bool :=
  match s.ctlBack with
  | some t => s.ctlUp && t + resumeLimit ≤ s.ns && !(s.ownerRec o).confirmed && (s.ownerRec o).frozen.isNone
  | none => false

/-- OWNER_FREEZE: its continuations are asked to leave their threads, and stay where they are saved. -/
def execOwnerFreeze (owner : BitVec 4) (s : State) : Outcome :=
  if !s.freezes owner then .next s
  else
    let s := (s.modOwner owner (fun r => { r with frozen := some s.ns })).mapCores (fun _ k =>
      { k with parked := k.parked.map (fun p => if (p.th.run.map Cont.owner) = some owner then { p with frozen := true } else p) })
    .next (s.coreNums.foldl (fun s c => (s.getCore c).indexed.foldl (fun s e =>
      if (e.2.run.map Cont.owner) = some owner then s.askPreempt c e.1 else s) s) s)

/-- Whether a thread runs a continuation of an owner. -/
def Thread.ownedBy (t : Thread) (o : BitVec 4) : Bool := (t.run.map Cont.owner) = some o

/-- The unwind of a continuation that the scrub of its owner kills (R222): it takes the place of any other, and a handler that runs keeps
its remaining budget (R224). -/
def Thread.scrubKill (t : Thread) (now : Nat) : Thread :=
  { t with unwind := some ⟨0, .killed, 6, true, t.unwind.bind Unwind.handler, now, true⟩ }

/-- The same for a parked continuation: it becomes resumable, so that it unwinds. -/
def Parked.scrubKill (p : Parked) (now : Nat) : Parked :=
  { p with th := p.th.scrubKill now, resumable := true, frozen := false, stamp := if p.resumable then p.stamp else now }

/-- Kills every continuation of an owner that no kill makes unwind yet. -/
def State.killOwner (s : State) (o : BitVec 4) : State :=
  let alive := fun (t : Thread) => t.ownedBy o && !t.unwind.any (fun u => u.kill && u.why = .killed && u.due)
  let s := s.mapCores (fun _ k => { k with parked := k.parked.map (fun p : Parked => if alive p.th then p.scrubKill s.cycle else p) })
  s.coreNums.foldl (fun s c => (s.getCore c).indexed.foldl (fun s e =>
    if alive e.2 then (s.modThread c e.1 (fun t => t.scrubKill s.cycle)).post (.unwind c e.1.toNat) else s) s) s

/-- Whether a continuation of an owner has not ended. -/
def State.ownerRuns (s : State) (o : BitVec 4) : Bool :=
  s.cores.any (fun e => e.2.threads.any (fun t => t.ownedBy o) || e.2.parked.any (fun p => p.th.ownedBy o))

/-- Removes what is left of the work of a core of a scrubbed owner, and scrubs the core. -/
def State.scrubCore (s : State) (c : Nat) : State :=
  let s := (s.getCore c).cmds.foldl (fun s x => (s.cmdOver x).leaveStack c x)
    (s.modCore c (fun k => { k with cmds := [] }))
  let s := { s with streams := s.streams.filter (fun x => x.core != c), fills := s.fills.filter (fun f => f.core != c) }
  let s := s.modCore c (fun k => { k with
    queue := []
    ring := []
    deferred := []
    semq := []
    chans := Vector.replicate 4 none })
  s.startScrub c false 0

/-- Whether an owner has been frozen for 10 minutes. -/
def State.scrubs (s : State) (o : BitVec 4) : Bool :=
  match (s.ownerRec o).frozen with
  | some t => t + freezeLimit ≤ s.ns
  | none => false

/-- What ends an owner's work (R47): its launches and records go, its domains are revoked with their gates, every key of its domains is
destroyed, and its continuations are killed (R222). -/
def State.endOwner (s : State) (o : BitVec 4) : State :=
  let gone := (s.launches.filter (fun l => l.owner = o)).map Launch.serial
  let s : State := { s with
    launches := s.launches.filter (fun l => l.owner != o)
    collects := s.collects.filter (fun x => !gone.contains x.launch)
    dieq := s.dieq.filter (fun e => e.2.owner != o)
    devq := s.devq.filter (fun e => e.owner != o) }
  let s := s.mapCores (fun _ k => { k with
    queue := k.queue.filter (fun r => r.owner != o)
    ring := k.ring.filter (fun r => r.owner != o) })
  let mine := (s.domains.filter (fun d => d.2.owner = o && d.2.state ≠ .free)).map (fun d => BitVec.ofNat 8 d.1)
  (mine.foldl (fun s d => (s.rekey d 0).revoke d) s).killOwner o

/-- Whether the revocation of a domain is over: nothing names it, its translations are shot down, and its Trellis entries are free (R405). -/
def State.revokedOver (s : State) (dom : BitVec 8) : Bool :=
  s.goneDomain dom && s.trellis.all (fun e => !(e.2.domain = dom && e.2.state ≠ .free))

/-- Whether the revocations of an owner's domains are over. -/
def State.ownerRevoked (s : State) (o : BitVec 4) : Bool :=
  s.domains.all (fun d => !(d.2.owner = o && d.2.state ≠ .free) || s.revokedOver (BitVec.ofNat 8 d.1))

/-- OWNER_SCRUB: the owner's continuations unwind first; once they have ended, and the revocations of its domains are over, its cores are
scrubbed (R405), and nothing of it stays but its measurement index. -/
def execOwnerScrub (owner : BitVec 4) (s : State) : Outcome :=
  if !s.scrubs owner then .next s
  else
    let s := s.endOwner owner
    if s.ownerRuns owner || !s.ownerRevoked owner then .next s
    else
      let s := (s.locked owner).foldl (fun s c => s.scrubCore c) s
      let s := { s with groups := s.groups.filter (fun g => s.launches.any (fun l => l.serial = g.launch)) }
      .next (s.modOwner owner (fun r => { noOwner with frozen := r.frozen }))

end Sys2Proof.Machine
end

