-- ==== Sys2Proof/Machine/HostLink.lean ====
section
/-! DEFINITION. The host's accesses and snoops, XFENCE, the loss of the data link, page migration and storage queues
(spec/02_launched.md R30, R31; spec/14_fed_host_tiers.md R287-R305). -/

namespace Sys2Proof.Machine

/-! ### CXL.mem and XFENCE (R30, R289) -/

/-- Makes the oldest completed CXL.mem write visible. -/
def State.applyCxl (s : State) : State :=
  match s.cxlBuf with
  | [] => s
  | (pa, v) :: r => { s with cxlBuf := r }.poke pa 64 v.toNat

/-- Makes every completed CXL.mem write visible, in order (R31). -/
def cxlLoop : Nat → State → State
  | 0, s => s
  | n + 1, s => cxlLoop n s.applyCxl

/-- XFENCE_READ: the register reads by the state of the data link, and what the read returns stands last in `xfences`. -/
def execXfenceRead (s : State) : Outcome :=
  if !s.ctlUp then .next s
  else
    let v : Word := if s.cxlUp then 1 else 2
    let s := if s.cxlUp then cxlLoop s.cxlBuf.length s else s
    .next { s with xfence := v, xfences := s.xfences ++ [v] }

/-- The 8-byte entries of a table of n bytes that memory lists a byte of; every other entry is 0. -/
def State.listedEntries (s : State) (table n : Nat) : List Nat :=
  let cells := s.mem.map Prod.fst ++ (s.hostLine.map (fun e => (List.range 8).map (fun i => e.1 + 8 * i))).flatten
  let pas := cells.map (fun c => if paSpace table = 0 then paOf c else c)
  ((pas.filter (fun a => table ≤ a && a < table + n)).map (fun a => a / 8 * 8)).eraseDups

/-- Whether a leaf of a table has a property of its place, its value and the shift of its level. -/
def State.leafUnder (s : State) (f : Nat → Word → Nat → Bool) : List (Nat × Nat) → Nat → Nat → Bool
  | [], _, _ => false
  | (sh, bits) :: r, lvl, table => (s.listedEntries table (8 * 2 ^ bits)).any (fun ea =>
      let e := BitVec.ofNat 64 (s.bytesAt (cellOf ea) 8)
      (entryBad e lvl sh).isNone &&
        (if e.getLsbD 1 then f ea e sh else s.leafUnder f r (lvl + 1) (e &&& 0x000FFFFFFFFFF000).toNat))

/-- Whether a leaf of a domain's tables has a property (R178). -/
def State.leafOf (s : State) (f : Nat → Word → Nat → Bool) (d : Domain) : Bool :=
  d.state ≠ .free && (entryBad d.root 0 12).isNone && s.leafUnder f walkLevels 1 (d.root &&& 0x000FFFFFFFFFF000).toNat

/-- Whether a leaf maps a cell as exclusive. -/
def mapsExclusive (cell : Nat) (e : Word) (sh : Nat) : Bool :=
  let addr := (e &&& 0x000FFFFFFFFFF000).toNat
  let at_ := if paSpace addr = 0 then paOf cell else cell
  e.getLsbD 60 && addr ≤ at_ && at_ < addr + 2 ^ sh

/-- Whether a leaf of a domain's tables maps a cell as exclusive (R178, R329); those of a revoked domain count too (log entry 28). -/
def State.exclusiveCell (s : State) (cell : Nat) : Bool := s.domains.any (fun d => s.leafOf (fun _ e sh => mapsExclusive cell e sh) d.2)

/-- The domains whose tables hold one of the leaf entries of a page (R292). -/
def State.leafDomains (s : State) (p : MigPage) : List (BitVec 8) :=
  (s.domains.filter (fun d => s.leafOf (fun ea _ _ => p.leaves.any (fun a => cellOf a = cellOf ea)) d.2)).map (fun d => BitVec.ofNat 8 d.1)

/-- Whether the host may reach a cell: its frame is host-shared and not exclusive. -/
def State.hostMay (s : State) (cell : Nat) : Bool :=
  s.shared.any (fun f => f.1 ≤ cell && cell < f.1 + f.2) && !s.exclusiveCell cell

/-- Where the copy of a page in motion that is authoritative lies (R293): its bytes stay there until the move is over. -/
def State.authority (s : State) (cell : Nat) : Nat :=
  match s.migTable.find? (fun p => p.moving && (pageHolds p.dev cell || pageHolds p.host cell)) with
  | some p => cellOf ((if p.atHost then p.host else p.dev) + paOf cell % 65536)
  | none => cell

/-- Counts a host request to an enrolled page (R290). -/
def State.countHost (s : State) (cell : Nat) : State :=
  { s with migTable := s.migTable.map (fun p =>
      if pageHolds p.dev cell || pageHolds p.host cell then { p with hostHits := p.hostHits + 1 } else p) }

/-- A 64-byte half as the device holds it. -/
def State.half (s : State) (cell : Nat) : BitVec 512 := BitVec.ofNat 512 (s.bytesAt (halfOf cell) 64)

/-- CXL_MEM_ACCESS: what a read returns stands in `hostRead`; it sees the host's own completed writes. A write is visible later, and one to
a page in motion is merged at once (R293). A line that fails its check reads as zeros, and the refusal is logged (R299). -/
def execCxlMemAccess (pa : Nat) (write : Option (BitVec 512)) (s : State) : Outcome :=
  let cell := cellOf (halfOf pa)
  if !s.cxlUp || !paOk pa || 2 < paSpace pa then .next s
  else
    let s := s.countHost cell
    let may := s.hostMay cell
    let s := if may then s else { s with rasLog := s.rasLog ++ [pa] }
    let at_ := s.authority cell
    match write with
    | some v =>
      let s' : State := { s with cxlBuf := s.cxlBuf ++ [(at_, v)] }
      if !may then .next s else if s.inMotion cell then .next (cxlLoop s'.cxlBuf.length s') else .next s'
    | none =>
      if !may then .next { s with hostRead := some 0 }
      else
        let s := (cxlLoop s.cxlBuf.length s).recall (lineOf at_)
        if s.bad.any (fun e => e.1 = lineOf at_) then .next { s with hostRead := some 0, rasLog := s.rasLog ++ [pa] }
        else .next { s with hostRead := some (s.half at_), excl := s.excl.filter (fun e => e.2 != lineOf at_) }

/-! ### Snoops (R287, R293) -/

/-- The key of a frame. -/
def State.pageKey (s : State) (pa : Nat) : BitVec 256 := (s.domain (s.pageDomain (frameOf pa))).key

/-- A line of an outer tier as it stands there: ciphertext (R297). -/
def State.cipherLine (s : State) (pa : Nat) : BitVec 1024 :=
  Config.xts (s.pageKey pa) (lineOf pa) (BitVec.ofNat 1024 (s.bytesAt (lineOf pa) 128))

/-- The integrity tag of a line of an outer tier (R298): the one that is stored matches it but for the lines that State.bad lists. -/
def State.lineTag (s : State) (pa : Nat) : BitVec 64 := Config.gmac (s.pageKey pa) (lineOf pa) (s.cipherLine pa)

/-- A half as it leaves the package: its part of the ciphertext of its line, the other half being as the device holds it (R297), in the
authoritative copy of a line in motion (R293). -/
def State.sealedHalf (s : State) (pa : Nat) (v : BitVec 512) : BitVec 512 :=
  let high := halfOf pa != lineOf pa
  let other := BitVec.ofNat 512 (s.bytesAt (lineOf (s.authority pa) + if high then 0 else 64) 64)
  let line := if high then v ++ other else other ++ v
  (Config.xts (s.pageKey pa) (lineOf pa) line).extractLsb' (if high then 512 else 0) 512

/-- Answers a snoop of a host-homed half: what the device holds goes to the host, with the host's own completed writes and the U copies of
the line; `f` tells which copies stay. -/
def State.snoop (s : State) (pa : Nat) (f : State → State) : State :=
  if paSpace pa ≠ 3 || !s.cxlUp then s
  else
    let s := s.countHost pa
    let at_ := s.authority pa
    let s := (cxlLoop s.cxlBuf.length s).recall (lineOf at_)
    f { s with hostRead := some (s.sealedHalf pa (s.half at_)) }

/-- SNPDATA: a dirty half is written back, and the line stays shared. -/
def execSnpData (pa : Nat) (s : State) : Outcome :=
  .next (s.snoop pa (fun s => { s.writeBack (halfOf pa) with excl := s.excl.filter (fun e => e.2 != lineOf pa) }))

/-- SNPINV: a dirty half is written back, and the line is dropped; its monitors see the loss. -/
def execSnpInv (pa : Nat) (s : State) : Outcome :=
  .next (s.snoop pa (fun s =>
    let other := if halfOf pa = lineOf pa then lineOf pa + 64 else lineOf pa
    let s := (s.writeBack (halfOf pa)).writeBack other
    { s with excl := s.excl.filter (fun e => e.2 != lineOf pa) }.hitLine (lineOf pa)))

/-- SNPCUR: the present value, and nothing changes. -/
def execSnpCur (pa : Nat) (s : State) : Outcome := .next (s.snoop pa id)

/-! ### Loss of the data link (R300-R302) -/

/-- The stranded-line entry of a dirty half, with the domain whose key encrypts its page (R301). -/
def State.strand (s : State) (e : Nat × BitVec 512) : Stranded :=
  ⟨e.1, s.ns / 65536 * 65536, s.pageDomain (frameOf e.1), s.sealedHalf e.1 e.2⟩

/-- Lines that a monitor watches. -/
def State.watched (s : State) : List Nat :=
  (s.cores.map (fun c => ((c.2.threads.toList ++ c.2.parked.map Parked.th).map (fun t : Thread =>
    t.watch.toList.filterMap (fun w => w.map Watch.line))).flatten)).flatten

/-- CXL_LINK_DOWN. -/
def execCxlLinkDown (s : State) : Outcome :=
  if !s.cxlUp then .next s
  else
    let s : State := { s with
      cxlUp := false
      strandOn := true
      stranded := s.stranded ++ s.hostLine.map s.strand
      hostLine := []
      excl := s.excl.filter (fun e => paSpace e.2 != 3) }
    .next ((s.watched.filter (fun l => paSpace l = 3)).foldl (fun s l => s.hitLine l) s)

/-- STRANDED as it reads. -/
def State.strandedReg (s : State) : Word := 0#32 ++ BitVec.ofBool s.strandOn ++ 0#14 ++ BitVec.ofNat 17 s.stranded.length

/-- Word i of a stranded-line entry's 128 bytes (R301). -/
def Stranded.word (e : Stranded) (i : Nat) : Word :=
  match i with
  | 0 => BitVec.ofNat 64 e.pa
  | 1 => BitVec.ofNat 48 (e.tsc / 65536) ++ 0#8 ++ e.domain
  | _ => if i < 10 then e.data.extractLsb' (64 * (i - 2)) 64 else 0

/-- A register of a core's debug module at an offset of its block (R391). -/
def Debug.reg (d : Debug) (off : Nat) : Word :=
  match off with
  | 0x000 => d.ctl
  | 0x008 => d.stat
  | 0x010 => d.sel.setWidth 64
  | 0x018 => d.data
  | 0x020 => (d.m[0]).val
  | 0x028 => (d.m[1]).val
  | 0x030 => (d.m[2]).val
  | 0x038 => (d.m[3]).val
  | _ => 0

/-- BOOTSTAT as it reads (R415). -/
def State.bootstat (s : State) : Word := 0#48 ++ s.bootCause ++ s.bootStep ++ 0#3 ++ BitVec.ofBool s.ready

/-- The 64-bit register at an offset of the control BAR as it stands (R30, R291, R301, R302, R391). -/
def State.controlBar (s : State) (off : Nat) : Word :=
  if off = 0x400 then s.bootstat else
  if off = 0x100 then s.xfence
  else if off = 0x200 then s.migctl
  else if off = 0x300 then s.strandedReg
  else if off < 0x01000000 then 0
  else if off < 0x01800000 then
    ((s.stranded[(off - 0x01000000) / 128]?).map (fun e => e.word (off % 128 / 8))).getD 0
  else if 0x02000000 ≤ off && s.isCompute ((off - 0x02000000) / 0x1000) then
    (s.getCore ((off - 0x02000000) / 0x1000)).dbg.reg (off % 0x1000)
  else 0

/-- STRANDED_CLEAR. -/
def execStrandedClear (s : State) : Outcome := .next { s with stranded := [], strandOn := false }

/-- DATA_LINK_RETURN. -/
def execDataLinkReturn (s : State) : Outcome := .next { s with cxlUp := true }

/-! ### Migration (R290-R292) -/

/-- MIGCTL's threshold. -/
def State.migThreshold (s : State) : Nat := (s.migctl.extractLsb' 16 16).toNat

/-- A leaf entry, with the U copies of its line. -/
def State.leafAt (s : State) (pa : Nat) : Word := ((s.peek pa 1).1).headD 0

/-- Whether an enrolled page may move: its frames lie where migration takes place, no leaf names it by the stack view, as exclusive or as
uncached, and neither a mapped matrix nor a command holds it. -/
def State.movable (s : State) (p : MigPage) : Bool :=
  let held := fun (x : List (Nat × Nat)) => x.any (fun e => frameOf e.2 = p.dev || frameOf e.2 = p.host)
  (paSpace p.dev = 0 || paSpace p.dev = 2) && paSpace p.host = 3 && p.leaves.all (fun a =>
      !(s.leafAt a).getLsbD 60 && !(s.leafAt a).getLsbD 61 && (s.leafAt a).extractLsb' 48 4 != 1) &&
    s.matrices.all (fun m => !held m.xlat) && s.cores.all (fun c => c.2.cmds.all (fun x => !held x.xlat))

/-- Whether a page's far side has counted enough, and may take it. -/
def State.wants (s : State) (p : MigPage) : Bool :=
  if p.atHost then s.migctl.getLsbD 0 && p.hostHits + s.migThreshold ≤ p.devHits
  else s.migctl.getLsbD 1 && p.devHits + s.migThreshold ≤ p.hostHits

/-- Starts to move a page, while fewer than 16 are in motion. -/
def State.startMove (s : State) (id : Nat) : State :=
  if 16 ≤ (s.migTable.filter (fun p => p.moving)).length then s
  else
    let s : State := { s with migTable := s.migTable.map (fun p : MigPage => if p.id = id then { p with moving := true } else p) }
    s.post (.pageMove id)

/-- MIGRATION_EPOCH: which misses the L2s have counted is a free value. -/
def execMigrationEpoch (s : State) : Outcome :=
  if s.migctl.extractLsb' 8 8 = 0 then .next s
  else
    let n := s.fresh
    let s : State := { s.spent with migTable := s.migTable.map (fun p => { p with devHits := p.devHits + Config.misses n p.id }) }
    let go := if s.hostDown then [] else s.migTable.filter (fun p => !p.moving && s.wants p && s.movable p)
    let s := go.foldl (fun s p => s.startMove p.id) s
    .next { s with migTable := s.migTable.map (fun p => { p with devHits := 0, hostHits := 0 }) }

/-- Entries of the host driver's migration ring: the model's size. -/
abbrev migRingSize : Nat := 4096

/-- Copies a line between frames: one with an error is moved as it stands, for its next reader to detect (R299, R382). -/
def State.copyLine (s : State) (src dst : Nat) : State :=
  let err := s.bad.filter (fun e => e.1 = cellOf src)
  let s := s.poke dst 128 (s.bytesAt (cellOf src) 128)
  { s with bad := s.bad ++ err.map (fun e => (cellOf dst, e.2)) }

/-- Copies the lines of a frame to another. -/
def State.copyFrame (s : State) (src dst : Nat) : State :=
  (List.range 512).foldl (fun s i => s.copyLine (src + 128 * i) (dst + 128 * i)) s

/-- Brings a page's present bytes into memory: completed writes of the host, dirty halves and U copies; every cached copy of it is
lost. -/
def State.flushPage (s : State) (pa : Nat) : State :=
  let s := cxlLoop s.cxlBuf.length s
  let s := (s.ucopies.filter (fun u => pageHolds pa u.line)).foldl (fun s u => s.recall u.line) s
  let s := (s.hostLine.filter (fun e => pageHolds pa e.1)).foldl (fun s e => s.writeBack e.1) s
  let s : State := { s with excl := s.excl.filter (fun e => !pageHolds pa e.2) }
  (s.watched.filter (pageHolds pa)).foldl (fun s l => s.hitLine l) s

/-- PAGE_MOVE: the steps of R292. The shootdown of the domains that map the page waits until no command holds a translation of them (R230),
and the completion records that met the page are written at the end. -/
def execPageMove (page : Nat) (s : State) : Outcome :=
  match s.migTable.find? (fun p => p.id = page && p.moving) with
  | none => .next s
  | some p =>
    let doms := s.leafDomains p
    if s.hostDown || !s.movable p || doms.any s.translating then .next (s.post (.pageMove page))
    else
      let (src, dst) := if p.atHost then (p.host, p.dev) else (p.dev, p.host)
      let s := (s.flushPage src).copyFrame src dst
      let s := p.leaves.foldl (fun s a =>
        s.poke a 8 ((s.leafAt a &&& ~~~0x000FFFFFFFFFF000#64) ||| BitVec.ofNat 64 dst).toNat) s
      let s : State := { s with tlb := s.tlb.filter (fun e => !doms.contains e.dom && frameOf e.pa != src) }
      let event := s.migRing + 16 * (s.migNext % migRingSize)
      let s := if s.migRing = 0 then s
        else (s.poke event 8 (page + if p.atHost then 0 else 2 ^ 63)).poke (event + 8) 8 dst
      let s : State := { s with
        migNext := s.migNext + 1
        migTable := s.migTable.map (fun x => if x.id = page then { x with atHost := !x.atHost, moving := false } else x) }
      .next s.finishRevocations.writeLate

/-- How long an access stalls on a page in motion. -/
abbrev motionLimit : Nat := 50000

/-- Whether a thread's access stalls on a page in motion for too long, with nothing before its fault at this boundary (R292, R380). -/
def State.timesOut (s : State) (c : Nat) (t : Thread) : Option Word :=
  match t.wait with
  | some ⟨.moving va, _, since, _⟩ =>
    if since + motionLimit ≤ s.ns && s.atBoundary c t && !s.unwindNext t && !s.takesHeld c t && !(s.mayPreempt c t && (t.atSafePoint || t.overdue)) then
      some va
    else none
  | _ => none

/-- MIGRATION_TIMEOUT: the stalled access faults precisely; ERET stalls it anew. -/
def execMigrationTimeout (core thr : Nat) (s : State) : Outcome :=
  let i := BitVec.ofNat 2 thr
  let t := s.getThread core i
  match s.timesOut core t with
  | some va =>
    let s := s.modThread core i (fun t => { t with wait := none })
    .next (s.deliver core i (fltAt .migrationTimeout va 0) false t.pc)
  | none => .next s

/-! ### Storage queues (R303-R305) -/

/-- Bytes of a command's key, value length, and the other fields of its entry. -/
def cmdOp (w : List Word) : Nat := (w.getD 0 0).toNat % 16

/-- The length of a value. -/
def valueLen (w : List Word) : Nat := (w.getD 4 0).toNat % 2 ^ 24

/-- Whether an entry keeps R304. -/
def entryOk (w : List Word) : Bool :=
  let op := cmdOp w
  let klen := (w.getD 0 0).toNat / 16 % 16 + 1
  let key := (w.getD 1 0).toNat + (w.getD 2 0).toNat * 2 ^ 64
  (w.getD 0 0).extractLsb' 8 56 = 0 && 1 ≤ op && op ≤ 4 && key < 2 ^ (8 * klen) && (op < 3 || w.getD 3 0 = 0) &&
    (w.getD 4 0).extractLsb' 24 40 = 0 && (w.getD 5 0).toNat % 16 = 0 && w.getD 6 0 = 0 && w.getD 7 0 = 0

/-- Writes bytes at a virtual address with a domain's rights, as far as each may be written. -/
def State.domainPut (s : State) (dom : BitVec 8) (va : Word) : List Byte → Ex State
  | [] => .ok s
  | b :: r => do
    let (pa, s) ← s.agentPlace { write := true, size := 1, align := 1 } dom va
    (s.poke pa 1 b.toNat).domainPut dom (va + 1) r

/-- The checks of a domain's access to n bytes. -/
def State.domainMay (s : State) (dom : BitVec 8) (write : Bool) (va : Word) : Nat → Ex Unit
  | 0 => .ok ()
  | n + 1 => do
    let _ ← s.agentPlace { write := write, size := 1, align := 1 } dom va
    s.domainMay dom write (va + 1) n

/-- The bytes of words, lowest first. -/
def wordBytes (l : List Word) : List Byte := (l.map (fun w => (List.range 8).map (fun i => w.extractLsb' (8 * i) 8))).flatten

/-- Writes the completion record of a command; one that cannot be written is lost, and one that meets a page in motion stalls. -/
def State.storageRecord (s : State) (x : StorageCmd) (status : BitVec 8) (stored : BitVec 32) (moved : Nat) : Ex State :=
  let va := x.words.getD 5 0
  if va.toNat % 16 ≠ 0 then .ok s
  else
    match s.domainPut x.dom va (wordBytes [stored ++ 0#24 ++ status, BitVec.ofNat 64 moved]) with
    | .error (.fault _) => .ok s
    | r => r

/-- The check of a command's value buffer for its operation: it is named by a global address, however short it is (R304). -/
def State.bufferMay (s : State) (x : StorageCmd) : Ex Unit :=
  let va := x.words.getD 3 0
  if cmdOp x.words ≥ 3 then .ok ()
  else if classOf va ≠ .global then raise (fltAt .pageNotPresent va 0)
  else s.domainMay x.dom (cmdOp x.words == 2) va (valueLen x.words)

/-- The next entry of a storage queue, with the tail that lets it be taken. -/
def State.storageWords (s : State) (q : StorageQueue) : Ex (Nat × List Word × State) := do
  let (tail, s) ← s.domainWords q.dom q.tailVa 1
  let (w, s) ← if (tail.getD 0 0).toNat ≤ q.head then .ok ([], s)
    else s.domainWords q.dom (q.ring + BitVec.ofNat 64 (q.head % q.entries.toNat * 64)) 8
  .ok ((tail.getD 0 0).toNat, w, s)

/-- Takes an entry that has been read; a bad one gets its record at once. -/
def State.storageTake (s : State) (q : StorageQueue) (tail : Nat) (w : List Word) : Ex State :=
  let (id, s) := s.newId
  let x : StorageCmd := ⟨id, q.number, q.dom, w⟩
  let s : State := { s with storeqs := s.storeqs.map (fun y => if y.number = q.number then { y with head := q.head + 1 } else y) }
  let s := if q.head + 1 < tail then s.post (.storageEntry q.number) else s
  if !entryOk w then s.storageRecord x 2 0 0
  else
    match s.bufferMay x with
    | .ok _ => .ok { s with storing := s.storing ++ [x] }
    | .error (.fault _) => s.storageRecord x 3 0 0
    | .error e => .error e

/-- What a step of a Kiosk core does: it stalls, with no effect yet, on a page in motion (R292), and does nothing where it cannot read. -/
def State.kiosk (s : State) (again : Instr) : Ex State → Outcome
  | .ok t => .next t
  | .error (.hold _) => .next (s.post again)
  | .error _ => .next s

/-- STORAGE_ENTRY: the Kiosk core takes the next entry of a queue. -/
def execStorageEntry (queue : Nat) (s : State) : Outcome :=
  match s.storeqs.find? (fun q => q.number = queue) with
  | none => .next s
  | some q => s.kiosk (.storageEntry queue) (do
      let (tail, w, u) ← s.storageWords q
      if tail ≤ q.head then .ok s else u.storageTake q tail w)

/-- The end of a retrieve: at most the buffer's length is written. -/
def State.retrieved (s : State) (x : StorageCmd) (value : List Byte) (status : BitVec 8) (stored : BitVec 32) : Ex State :=
  match s.domainPut x.dom (x.words.getD 3 0) (value.take (valueLen x.words)) with
  | .ok s => s.storageRecord x status stored (min value.length (valueLen x.words))
  | .error (.fault _) => s.storageRecord x 3 0 0
  | .error e => .error e

/-- What an end of a command at its target does. -/
def State.storageEnd (s : State) (x : StorageCmd) (result : StorageResult) : Ex State :=
  let n := valueLen x.words
  match result with
  | .success v =>
    match cmdOp x.words with
    | 1 => s.storageRecord x 0 0 n
    | 2 => if n < v.length then s.retrieved x v 4 (BitVec.ofNat 32 v.length) else s.retrieved x v 0 0
    | _ => s.storageRecord x 0 0 0
  | .notFound => s.storageRecord x 1 0 0
  | .truncated stored =>
    if cmdOp x.words = 2 then
      s.spent.retrieved x ((List.range n).map (fun i => Config.freeByte s.fresh i)) 4 stored
    else s.storageRecord x 4 stored 0
  | .unreachable => s.storageRecord x 5 0 0

/-- STORAGE_COMPLETION. -/
def execStorageCompletion (entry : Nat) (result : StorageResult) (s : State) : Outcome :=
  match s.storing.find? (fun x => x.id = entry) with
  | none => .next s
  | some x =>
    s.kiosk (.storageCompletion entry result) ({ s with storing := s.storing.filter (fun y => y.id != entry) }.storageEnd x result)

end Sys2Proof.Machine
end

