-- ==== Sys2Proof/Machine/Power.lean ====
section
/-! DEFINITION. Sensors, clocks, power states and bring-up (spec/19_interrupted.md R381; spec/21_package_power.md R412-R415). -/

namespace Sys2Proof.Machine

/-! ### Sensors and clocks (R381, R412) -/

/-- Codes of the sensors. -/
def sensorCode : Sensor → BitVec 4
  | .voltage => 1 | .temperature => 2 | .clock => 3

/-- A die's clock. -/
def State.clock (s : State) (die : Nat) : DieClock := s.clocks.toList.getD die ⟨1250, false, false, none⟩

/-- Changes a die's clock. -/
def State.modClock (s : State) (die : Nat) (f : DieClock → DieClock) : State :=
  { s with clocks := Vector.ofFn (fun n : Fin 4 => if n.val = die then f s.clocks[n] else s.clocks[n]) }

/-- SENSOR_ALARM: the resident threads of the die receive ENV_ALARM. A temperature begins the throttling of R412, as does a core
rail below its band; whether a voltage alarm is that is a free value. A loss of lock holds the cores. -/
def execSensorAlarm (die : BitVec 2) (sensor : Sensor) (reading : BitVec 8) (s : State) : Outcome :=
  let f := flt .envAlarm (0#48 ++ reading ++ 0#2 ++ die ++ sensorCode sensor)
  let s := s.coreNums.foldl (fun s c =>
    if !s.isCompute c || coreDie c ≠ die.toNat then s
    else (s.getCore c).indexed.foldl (fun s e => if e.2.run.isSome then s.hold c e.1 f else s) s) s
  match sensor with
  | .temperature => .next (s.modClock die.toNat (fun x => { x with alarm := true, clear := none }))
  | .voltage =>
    if s.free % 2 = 1 then .next (s.spent.modClock die.toNat (fun x => { x with alarm := true, clear := none })) else .next s.spent
  | .clock => .next (s.modClock die.toNat (fun x => { x with held := true }))

/-- The clock at its full rate, in MHz (R1). -/
abbrev fullClock : Nat := 1250

/-- CLOCK_THROTTLE_STEP. -/
def execClockThrottleStep (die : Nat) (s : State) : Outcome :=
  if (s.clock die).alarm then .next (s.modClock die (fun x => { x with mhz := max 625 (x.mhz - 125) })) else .next s

/-- Whether a die's condition has been clear for 10 ms. -/
def State.restores (s : State) (die : Nat) : Bool :=
  match (s.clock die).clear with
  | some t => !(s.clock die).alarm && t + 10000000 ≤ s.ns
  | none => false

/-- CLOCK_RESTORE_STEP. -/
def execClockRestoreStep (die : Nat) (s : State) : Outcome :=
  if s.restores die then .next (s.modClock die (fun x => { x with mhz := min fullClock (x.mhz + 125) })) else .next s

/-- ALARM_CONDITION_CLEAR. -/
def execAlarmConditionClear (die : Nat) (s : State) : Outcome :=
  .next (s.modClock die (fun x => { x with alarm := false, clear := some s.ns }))

/-- LOSS_OF_LOCK. -/
def execLossOfLock (die : Nat) (s : State) : Outcome := .next (s.modClock die (fun x => { x with held := true }))

/-- LOCK_RETURN. -/
def execLockReturn (die : Nat) (s : State) : Outcome := .next (s.modClock die (fun x => { x with held := false }))

/-- TRIP: only always-on is supplied from here on, and bring-up goes no further. What the cores, HBM4 and the LPDDR6 held is gone; the memory of the host stays. -/
def execTrip (cause : TripCause) (s : State) : Outcome :=
  .next { s with
    tripped := true
    booting := none
    agenda := match s.booting with
      | some r => s.agenda.erase (.fundamentalReset r)
      | none => s.agenda
    bootCause := match cause with | .overVoltage => 5 | .thermal => 6
    cores := []
    mem := s.mem.filter (fun c => paSpace c.1 != 1 && paSpace c.1 != 2)
    tlb := []
    ucopies := []
    excl := []
    hostLine := [] }

/-! ### Power states (R413) -/

/-- Whether the device may leave active: nothing runs, is parked or is outstanding, and every launch queue is empty. DESIGN CHOICE (log
entry 74): the queues of cores and dies are counted among them, since a record that waits there would find no clock to start by. -/
def State.restful (s : State) : Bool :=
  s.cores.all (fun c => c.2.quiet && c.2.cmds.isEmpty && c.2.records.isEmpty) && s.dieq.isEmpty && s.streams.isEmpty && s.groups.all (fun g => g.open_.isNone) &&
    s.hostq.all (fun q => q.head = q.tail) && s.devq.isEmpty

/-- The deepest state that the host's latency tolerance, in nanoseconds, allows. -/
def State.deepest (s : State) : Power :=
  match s.ltr with
  | none => .nap
  | some (a, b) =>
    let n := min a b
    if 2000000 ≤ n then .sleep else if 40000 ≤ n then .doze else if 2000 ≤ n then .nap else .active

/-- POWER_STATE_ENTRY. -/
def execPowerStateEntry (s : State) : Outcome :=
  if s.power = .active && s.restful then .next { s with power := s.deepest } else .next s

/-- WAKE. -/
def execWake (s : State) : Outcome := .next { s with power := .active }

/-- LTR_MESSAGE. -/
def execLtrMessage (snoop noSnoop : Nat) (s : State) : Outcome := .next { s with ltr := some (snoop, noSnoop) }

/-! ### Bring-up (R414, R415) -/

/-- The cause that BOOTSTAT records for the outcome of a step. -/
def BootResult.code : BootResult → BitVec 8
  | .ok => 0 | .signature => 1 | .memory => 2 | .pool => 3 | .fabric => 4

/-- The outcomes that a step of R414 can have. -/
def bootOutcomes (step : Nat) : List BootResult :=
  match step with
  | 2 | 4 => [.ok, .signature]
  | 3 => [.ok, .memory, .pool]
  | 5 => [.ok, .fabric]
  | _ => [.ok]

/-- Every link direction. -/
def allLinks : List MapItem :=
  ((List.range 4).map (fun d => ((List.range 32).map (fun k => (List.range 16).map (fun p => MapItem.link d k p))).flatten)).flatten

/-- A fabric port as its training finds it: what is plugged in there is not determined (log entry 6). -/
def trainedPort (x : Nat) : PortRec :=
  ⟨if x % 3 = 0 then .absent else if x % 3 = 1 then .up else .down, x / 3 % 2 = 1, x / 6 % 3, x / 18 % 64, x / 1152 % 2 ^ 16, 2⟩

/-- The fabric links are trained: the ports that have no record get one. -/
def State.trainFabric (s : State) : State :=
  if !s.fports.isEmpty then s
  else { s with fports := (List.range 18).map (fun n => (n, trainedPort (Config.freeNat (s.fresh + n)))), fresh := s.fresh + 18 }

/-- The firmware publishes the topology map (R274). -/
def State.publish (s : State) : State :=
  let s := { s with mapVer := 2 }.writeHeader
  let s := allLinks.foldl (fun s i => s.writeItem i) s
  let s := (s.fports.map Prod.fst).foldl (fun s n => s.writeItem (.fabric n)) s
  (s.switches.map Prod.fst).foldl (fun s n => s.writeItem (.switch n)) s

/-- What a step of bring-up that succeeds does. -/
def State.bootDo (s : State) (step : Nat) : State :=
  match step with
  | 1 => s.extend 1
  | 2 => s.extend 2
  | 4 => s.extend 3
  | 5 => s.trainFabric.publish.extend 4
  | 6 => { s.mapCores (fun _ k => { k with valid := false }) with scheds := [], schedNew := [] }.extend 5
  | 7 => { s with ctlUp := true, cxlUp := true, ready := true }
  | _ => s

/-- The steps of R414 that stand on the agenda for resets from outside. -/
def State.resets (s : State) : List Instr :=
  (match s.booting with
    | some r => s.agenda.erase (.fundamentalReset r)
    | none => s.agenda).filter (fun i => match i with | .fundamentalReset _ => true | _ => false)

/-- What a fundamental reset leaves: the free values go on, and the contents of memory with its errors, what is plugged in at the fabric ports
and further resets that are to come stay. What the caches held is lost and so are the keys of the domains, so that the tags of their lines
match no more (R297, R298; log entry 34). -/
def State.restarted (s : State) : State :=
  let s := s.domains.foldl (fun s d => s.rekey (BitVec.ofNat 8 d.1) 0) { s with excl := [], hostLine := [] }
  { State.reset with
    bad := s.bad
    agenda := s.resets, booting := none, fresh := s.fresh, act := s.act, bin := s.bin, module := s.module, mem := s.mem
    nextId := s.nextId, fports := s.fports, switches := s.switches }

/-- FUNDAMENTAL_RESET: one step of bring-up, with its outcome; the next step follows unless it fails. Any other than the one that bring-up
has put on the agenda comes from outside, and begins at step 1. -/
def execFundamentalReset (result : BootResult) (s : State) : Outcome :=
  let s := if s.booting = some result then { s with booting := none } else s.restarted
  let step := s.bootStep.toNat + 1
  let s := { s with bootStep := BitVec.ofNat 4 step }
  if result ≠ .ok then .next { s with bootCause := BootResult.code result }
  else
    let s := s.bootDo step
    if 7 ≤ step then .next s
    else
      let next := (pickFree s.free (bootOutcomes (step + 1))).getD .ok
      .next ({ s.spent with booting := some next }.post (.fundamentalReset next))

end Sys2Proof.Machine
end

