-- ==== Sys2Proof/Machine/Scalar.lean ====
section
/-! DEFINITION. Scalar instructions, majors 0x10 to 0x22 (spec/05_issued_scalar.md R110-R126). -/

namespace Sys2Proof.Machine

/-! ### Register ALU (R111) -/

/-- ADD. -/
def execAdd (d a b : R) (s : State) : Outcome := alu3 d a b (· + ·) s
/-- SUB. -/
def execSub (d a b : R) (s : State) : Outcome := alu3 d a b (· - ·) s
/-- AND. -/
def execAnd (d a b : R) (s : State) : Outcome := alu3 d a b (· &&& ·) s
/-- OR. -/
def execOr (d a b : R) (s : State) : Outcome := alu3 d a b (· ||| ·) s
/-- XOR. -/
def execXor (d a b : R) (s : State) : Outcome := alu3 d a b (· ^^^ ·) s
/-- ANDN. -/
def execAndn (d a b : R) (s : State) : Outcome := alu3 d a b (fun x y => x &&& ~~~y) s
/-- ORN. -/
def execOrn (d a b : R) (s : State) : Outcome := alu3 d a b (fun x y => x ||| ~~~y) s
/-- XNOR. -/
def execXnor (d a b : R) (s : State) : Outcome := alu3 d a b (fun x y => ~~~(x ^^^ y)) s
/-- MIN. -/
def execMin (d a b : R) (s : State) : Outcome := alu3 d a b minI s
/-- MAX. -/
def execMax (d a b : R) (s : State) : Outcome := alu3 d a b maxI s
/-- MINN. -/
def execMinn (d a b : R) (s : State) : Outcome := alu3 d a b minN s
/-- MAXN. -/
def execMaxn (d a b : R) (s : State) : Outcome := alu3 d a b maxN s

/-! ### Shifts and rotates (R112, R115) -/

/-- The shift amount in a register: bits [5:0]. -/
def shamt (y : Word) : Nat := (y.extractLsb' 0 6).toNat

/-- SHL. -/
def execShl (d a b : R) (s : State) : Outcome := alu3 d a b (fun x y => x <<< shamt y) s
/-- SHR. -/
def execShr (d a b : R) (s : State) : Outcome := alu3 d a b (fun x y => x >>> shamt y) s
/-- SRA. -/
def execSra (d a b : R) (s : State) : Outcome := alu3 d a b (fun x y => x.sshiftRight (shamt y)) s
/-- ROL. -/
def execRol (d a b : R) (s : State) : Outcome := alu3 d a b (fun x y => x.rotateLeft (shamt y)) s
/-- ROR, the rotate. -/
def execRorRotate (d a b : R) (s : State) : Outcome := alu3 d a b (fun x y => x.rotateRight (shamt y)) s
/-- SHLI. -/
def execShli (d a : R) (k : BitVec 6) (s : State) : Outcome := alu2 d a (fun x => x <<< k.toNat) s
/-- SHRI. -/
def execShri (d a : R) (k : BitVec 6) (s : State) : Outcome := alu2 d a (fun x => x >>> k.toNat) s
/-- SRAI. -/
def execSrai (d a : R) (k : BitVec 6) (s : State) : Outcome := alu2 d a (fun x => x.sshiftRight k.toNat) s

/-! ### Set on compare (R113) -/

/-- SEQ. -/
def execSeq (d a b : R) (s : State) : Outcome := alu3 d a b (fun x y => bit (x == y)) s
/-- SNE. -/
def execSne (d a b : R) (s : State) : Outcome := alu3 d a b (fun x y => bit (x != y)) s
/-- SLT. -/
def execSlt (d a b : R) (s : State) : Outcome := alu3 d a b (fun x y => bit (x.slt y)) s
/-- SLTN. -/
def execSltn (d a b : R) (s : State) : Outcome := alu3 d a b (fun x y => bit (x.ult y)) s
/-- SLE. -/
def execSle (d a b : R) (s : State) : Outcome := alu3 d a b (fun x y => bit (x.sle y)) s
/-- SLEN. -/
def execSlen (d a b : R) (s : State) : Outcome := alu3 d a b (fun x y => bit (x.ule y)) s

/-! ### Immediate forms (R114, R116-R118) -/

/-- ADDI. -/
def execAddi (d a : R) (imm : BitVec 11) (s : State) : Outcome := alu2 d a (· + sext imm) s
/-- ANDI. -/
def execAndi (d a : R) (imm : BitVec 11) (s : State) : Outcome := alu2 d a (· &&& sext imm) s
/-- ORI. -/
def execOri (d a : R) (imm : BitVec 11) (s : State) : Outcome := alu2 d a (· ||| sext imm) s
/-- XORI. -/
def execXori (d a : R) (imm : BitVec 11) (s : State) : Outcome := alu2 d a (· ^^^ sext imm) s
/-- SETB. -/
def execSetb (d a : R) (k : BitVec 6) (s : State) : Outcome := alu2 d a (· ||| (1#64 <<< k.toNat)) s
/-- CLRB. -/
def execClrb (d a : R) (k : BitVec 6) (s : State) : Outcome := alu2 d a (· &&& ~~~(1#64 <<< k.toNat)) s
/-- TGLB. -/
def execTglb (d a : R) (k : BitVec 6) (s : State) : Outcome := alu2 d a (· ^^^ (1#64 <<< k.toNat)) s
/-- LI. -/
def execLi (d : R) (imm : BitVec 16) (s : State) : Outcome := onThread (fun t => t.wrG d (sext imm)) s
/-- LIW. -/
def execLiw (d : R) (imm : Word) (s : State) : Outcome := onThread (fun t => t.wrG d imm) s

/-! ### Multiply and divide (R119, R120) -/

/-- MUL. -/
def execMul (d a b : R) (s : State) : Outcome := alu3 d a b (· * ·) s
/-- MULH. -/
def execMulh (d a b : R) (s : State) : Outcome :=
  alu3 d a b (fun x y => BitVec.ofInt 64 (x.toInt * y.toInt / 2 ^ 64)) s
/-- MULHN. -/
def execMulhn (d a b : R) (s : State) : Outcome :=
  alu3 d a b (fun x y => BitVec.ofNat 64 (x.toNat * y.toNat / 2 ^ 64)) s
/-- MADD. -/
def execMadd (d a b : R) (s : State) : Outcome := alu4 d a b d (fun x y z => z + x * y) s
/-- DIV: truncated; −2^63 by −1 wraps to −2^63. -/
def execDiv (d a b : R) (s : State) : Outcome :=
  alu3 d a b (fun x y => if y = 0 then BitVec.allOnes 64 else BitVec.ofInt 64 (x.toInt.tdiv y.toInt)) s
/-- DIVN. -/
def execDivn (d a b : R) (s : State) : Outcome :=
  alu3 d a b (fun x y => if y = 0 then BitVec.allOnes 64 else BitVec.ofNat 64 (x.toNat / y.toNat)) s
/-- REM: the sign of the dividend. -/
def execRem (d a b : R) (s : State) : Outcome :=
  alu3 d a b (fun x y => if y = 0 then x else BitVec.ofInt 64 (x.toInt.tmod y.toInt)) s
/-- REMN. -/
def execRemn (d a b : R) (s : State) : Outcome :=
  alu3 d a b (fun x y => if y = 0 then x else BitVec.ofNat 64 (x.toNat % y.toNat)) s

/-! ### Bits (R121, R122) -/

/-- The number of leading zero bits among the low n bits of x. -/
def leadZeros (x : Word) : Nat → Nat
  | 0 => 0
  | n + 1 => if x.getLsbD n then 0 else leadZeros x n + 1

/-- The number of zero bits below the lowest 1 of bits [n−1:0], counting up from bit 64 − n. -/
def trailZeros (x : Word) : Nat → Nat
  | 0 => 0
  | n + 1 => if x.getLsbD (63 - n) then 0 else trailZeros x n + 1

/-- The number of 1 bits among the low n bits of x. -/
def ones (x : Word) : Nat → Nat
  | 0 => 0
  | n + 1 => (if x.getLsbD n then 1 else 0) + ones x n

/-- Byte i of x moved to byte 7 − i. -/
def bswap (x : Word) : Word :=
  x.extractLsb' 0 8 ++ x.extractLsb' 8 8 ++ x.extractLsb' 16 8 ++ x.extractLsb' 24 8 ++
    x.extractLsb' 32 8 ++ x.extractLsb' 40 8 ++ x.extractLsb' 48 8 ++ x.extractLsb' 56 8

/-- CLZ. -/
def execClz (d a : R) (s : State) : Outcome := alu2 d a (fun x => BitVec.ofNat 64 (leadZeros x 64)) s
/-- CTZ. -/
def execCtz (d a : R) (s : State) : Outcome := alu2 d a (fun x => BitVec.ofNat 64 (trailZeros x 64)) s
/-- POPC. -/
def execPopc (d a : R) (s : State) : Outcome := alu2 d a (fun x => BitVec.ofNat 64 (ones x 64)) s
/-- BREV. -/
def execBrev (d a : R) (s : State) : Outcome := alu2 d a BitVec.reverse s
/-- BSWAP. -/
def execBswap (d a : R) (s : State) : Outcome := alu2 d a bswap s

/-- The lowest bit of the field that c describes. -/
def fieldLow (c : Word) : Nat := (c.extractLsb' 0 6).toNat

/-- The effective width of the field that c describes. -/
def fieldWidth (c : Word) : Nat :=
  let w := (c.extractLsb' 8 6).toNat
  min (if w = 0 then 64 else w) (64 - fieldLow c)

/-- Ones in the low w bits. -/
def lowMask (w : Nat) : Word := BitVec.ofNat 64 (2 ^ w - 1)

/-- BFX. DESIGN CHOICE (log entry 67): of two moved-from sources HANDLE_MOVED names ga, which is read first. -/
def execBfx (d a b : R) (s : State) : Outcome :=
  alu3 d a b (fun x c => (x >>> fieldLow c) &&& lowMask (fieldWidth c)) s
/-- BFXS. DESIGN CHOICE (log entry 67): ga is read before gb, as in BFX. -/
def execBfxs (d a b : R) (s : State) : Outcome :=
  alu3 d a b (fun x c => (x <<< (64 - fieldLow c - fieldWidth c)).sshiftRight (64 - fieldWidth c)) s
/-- BFI. DESIGN CHOICE (log entry 67): gb is read first, then gd, then ga. -/
def execBfi (d a b : R) (s : State) : Outcome :=
  alu4 d b d a (fun c t x =>
    (t &&& ~~~(lowMask (fieldWidth c) <<< fieldLow c)) ||| ((x &&& lowMask (fieldWidth c)) <<< fieldLow c)) s

/-! ### Select and addresses (R123, R124) -/

/-- SEL. -/
def execSel (d a b : R) (s : State) : Outcome := alu4 d d a b (fun z x y => if z ≠ 0 then x else y) s
/-- ADDPC: the offset counts bytes. -/
def execAddpc (d : R) (off : BitVec 27) (s : State) : Outcome := onThread (fun t => t.wrG d (s.here + sext off)) s

/-! ### Pointer registers (R125) -/

/-- PSET. DESIGN CHOICE (log entry 67): of two moved-from sources HANDLE_MOVED names ga, which is read first. -/
def execPset (p : P) (a b : R) (s : State) : Outcome :=
  onThread (fun t => do
    let (x, y) ← t.rd2 a b
    .ok (t.wrP p (y.extractLsb' 0 24 ++ x.extractLsb' 0 40))) s
/-- PADD. -/
def execPadd (p : P) (a : R) (s : State) : Outcome :=
  onThread (fun t => do
    let x ← t.rdG a
    .ok (t.wrP p (ptrAdvance (t.rdP p) x))) s
/-- PGET. -/
def execPget (d : R) (p : P) (s : State) : Outcome := onThread (fun t => t.wrG d (t.rdP p)) s
/-- PSTR. -/
def execPstr (p : P) (a : R) (s : State) : Outcome :=
  onThread (fun t => do
    let x ← t.rdG a
    .ok (t.wrP p (x.extractLsb' 0 24 ++ (t.rdP p).extractLsb' 0 40))) s

/-! ### Modular arithmetic (R126) -/

/-- A modular form on QMOD as the thread holds it. -/
def aluQ (d a b : R) (f : Nat → Nat → Nat → Nat) (s : State) : Outcome :=
  alu3 d a b (fun x y => BitVec.ofNat 64 (f s.me.sys.qmod.toNat x.toNat y.toNat)) s

/-- MULQ. -/
def execMulq (d a b : R) (s : State) : Outcome := aluQ d a b mulMod s
/-- ADDQ. -/
def execAddq (d a b : R) (s : State) : Outcome := aluQ d a b addMod s
/-- SUBQ. -/
def execSubq (d a b : R) (s : State) : Outcome := aluQ d a b subMod s

end Sys2Proof.Machine
end

