-- ==== Sys2Proof/Machine/Vector.lean ====
section
/-! DEFINITION. Vector instructions, majors 0x40 to 0x4C (spec/08_issued_vector.md R158-R175). -/

namespace Sys2Proof.Machine

/-! ### Integer lanes (R163) -/

/-- A form on the numbers of two lanes; `f` answers the lane's code. -/
def laneInt (d a b : R) (t : VType) (m : VCtl) (f : Int → Int → Nat) (s : State) : Outcome :=
  lanes2 d a b t.width m (fun x y => f (typeVal t x) (typeVal t y)) s

/-- A sum or difference: wrapped or saturated. -/
def wrapOrSat (t : VType) (sat : Bool) (v : Int) : Nat := if sat then saturate t v else wrapTo t.width v

/-- VADD. -/
def execVadd (d a b : R) (t : VType) (sat : Bool) (m : VCtl) (s : State) : Outcome :=
  laneInt d a b t m (fun x y => wrapOrSat t sat (x + y)) s
/-- VSUB. -/
def execVsub (d a b : R) (t : VType) (sat : Bool) (m : VCtl) (s : State) : Outcome :=
  laneInt d a b t m (fun x y => wrapOrSat t sat (x - y)) s
/-- VMUL. -/
def execVmul (d a b : R) (t : VType) (m : VCtl) (s : State) : Outcome :=
  laneInt d a b t m (fun x y => wrapTo t.width (x * y)) s
/-- VMULH. -/
def execVmulh (d a b : R) (t : VType) (m : VCtl) (s : State) : Outcome :=
  laneInt d a b t m (fun x y => wrapTo t.width (x * y / (2 ^ t.width : Nat))) s
/-- VMIN. -/
def execVmin (d a b : R) (t : VType) (m : VCtl) (s : State) : Outcome :=
  laneInt d a b t m (fun x y => wrapTo t.width (min x y)) s
/-- VMAX. -/
def execVmax (d a b : R) (t : VType) (m : VCtl) (s : State) : Outcome :=
  laneInt d a b t m (fun x y => wrapTo t.width (max x y)) s
/-- VAND. -/
def execVand (d a b : R) (t : VType) (m : VCtl) (s : State) : Outcome := lanes2 d a b t.width m (· &&& ·) s
/-- VOR. -/
def execVor (d a b : R) (t : VType) (m : VCtl) (s : State) : Outcome := lanes2 d a b t.width m (· ||| ·) s
/-- VXOR. -/
def execVxor (d a b : R) (t : VType) (m : VCtl) (s : State) : Outcome := lanes2 d a b t.width m (· ^^^ ·) s
/-- VSHL. -/
def execVshl (d a b : R) (t : VType) (m : VCtl) (s : State) : Outcome :=
  lanes2 d a b t.width m (fun x y => x * 2 ^ (y % t.width)) s
/-- VSHR. -/
def execVshr (d a b : R) (t : VType) (m : VCtl) (s : State) : Outcome :=
  lanes2 d a b t.width m (fun x y => x / 2 ^ (y % t.width)) s
/-- VSRA: the lane's top bit enters, whatever the type. -/
def execVsra (d a b : R) (t : VType) (m : VCtl) (s : State) : Outcome :=
  lanes2 d a b t.width m (fun x y => wrapTo t.width (asSigned t.width x / (2 ^ (y % t.width) : Nat))) s

/-! ### Floating lanes (R164, R165) -/

/-- Lane width of a floating lane type. -/
def fwidth (t : FType) : Nat := (floatOf t).width

/-- A rounding form on one lane. -/
def laneF1 (d a : R) (t : FType) (rm : Rnd) (m : VCtl) (f : FVal → FVal) (s : State) : Outcome :=
  lanes1 d a (fwidth t) m (fun x => (floatOf t).round rm (f ((floatOf t).decode x))) s

/-- A rounding form on two lanes. -/
def laneF2 (d a b : R) (t : FType) (rm : Rnd) (m : VCtl) (f : FVal → FVal → FVal) (s : State) : Outcome :=
  lanes2 d a b (fwidth t) m (fun x y => (floatOf t).round rm (f ((floatOf t).decode x) ((floatOf t).decode y))) s

/-- A rounding form on three lanes. -/
def laneF3 (d a b c : R) (t : FType) (rm : Rnd) (m : VCtl) (f : FVal → FVal → FVal → FVal) (s : State) : Outcome :=
  lanes3 d a b c (fwidth t) m (fun x y z =>
    (floatOf t).round rm (f ((floatOf t).decode x) ((floatOf t).decode y) ((floatOf t).decode z))) s

/-- VFADD. -/
def execVfadd (d a b : R) (t : FType) (rm : Rnd) (m : VCtl) (s : State) : Outcome :=
  laneF2 d a b t rm m (FVal.add rm) s
/-- VFSUB. -/
def execVfsub (d a b : R) (t : FType) (rm : Rnd) (m : VCtl) (s : State) : Outcome :=
  laneF2 d a b t rm m (fun x y => FVal.add rm x y.negate) s
/-- VFMUL. -/
def execVfmul (d a b : R) (t : FType) (rm : Rnd) (m : VCtl) (s : State) : Outcome := laneF2 d a b t rm m FVal.mul s
/-- VFMIN: the rounding mode has no effect. -/
def execVfmin (d a b : R) (t : FType) (_rm : Rnd) (m : VCtl) (s : State) : Outcome := laneF2 d a b t .rn m FVal.min s
/-- VFMAX. -/
def execVfmax (d a b : R) (t : FType) (_rm : Rnd) (m : VCtl) (s : State) : Outcome := laneF2 d a b t .rn m FVal.max s
/-- VFDIV. -/
def execVfdiv (d a b : R) (t : FType) (rm : Rnd) (m : VCtl) (s : State) : Outcome := laneF2 d a b t rm m FVal.div s
/-- VFSQRT. -/
def execVfsqrt (d a : R) (t : FType) (rm : Rnd) (m : VCtl) (s : State) : Outcome := laneF1 d a t rm m FVal.sqrt s

/-- VFMA. -/
def execVfma (d a b c : R) (t : FType) (rm : Rnd) (m : VCtl) (s : State) : Outcome :=
  laneF3 d a b c t rm m (fun x y z => FVal.add rm (FVal.mul x y) z) s
/-- VFMS. -/
def execVfms (d a b c : R) (t : FType) (rm : Rnd) (m : VCtl) (s : State) : Outcome :=
  laneF3 d a b c t rm m (fun x y z => FVal.add rm (FVal.mul x y) z.negate) s
/-- VFNMA. -/
def execVfnma (d a b c : R) (t : FType) (rm : Rnd) (m : VCtl) (s : State) : Outcome :=
  laneF3 d a b c t rm m (fun x y z => FVal.add rm (FVal.mul x y).negate z.negate) s
/-- VFNMS. -/
def execVfnms (d a b c : R) (t : FType) (rm : Rnd) (m : VCtl) (s : State) : Outcome :=
  laneF3 d a b c t rm m (fun x y z => FVal.add rm (FVal.mul x y).negate z) s

/-! ### Compares (R166) -/

/-- The lane mask of a condition. -/
def compareMask (x y : VReg) (w : Nat) (mask : Word) (c : Nat → Nat → Bool) : Word :=
  (List.range (512 / w)).foldl (fun acc i =>
    if mask.getLsbD i && c (lane x w i) (lane y w i) then acc ||| (1#64 <<< i) else acc) 0

/-- gd := the lane mask of a condition. -/
def compareLanes (d a b : R) (w : Nat) (m : VCtl) (c : Nat → Nat → Bool) (s : State) : Outcome :=
  onThread (fun t => do
    let mask ← t.maskOf m.sel
    t.wrG d (compareMask (t.rdV a) (t.rdV b) w mask c)) s

/-- VCMP. -/
def execVcmp (d a b : R) (c : Cond) (t : VType) (m : VCtl) (s : State) : Outcome :=
  compareLanes d a b t.width m (condHolds c t) s
/-- VFCMP. -/
def execVfcmp (d a b : R) (c : FCond) (t : FType) (m : VCtl) (s : State) : Outcome :=
  compareLanes d a b (fwidth t) m (fun x y => fcondHolds c ((floatOf t).decode x) ((floatOf t).decode y)) s

/-! ### Conversion (R167) -/

/-- The destination after a conversion: `src` and `dst` widths, part and mask. -/
def convertLanes (old x : VReg) (dst src : VType) (part : Nat) (rm : Rnd) (mask : Word) : VReg :=
  let ws := src.width
  let wd := dst.width
  let n := 512 / max ws wd
  let conv := fun si => convertTo dst rm (typeFVal src (lane x ws si))
  ofLanes wd (512 / wd) (fun di =>
    if wd < ws then
      if part * n ≤ di ∧ di < part * n + n ∧ mask.getLsbD (di - part * n) then conv (di - part * n) else lane old wd di
    else if mask.getLsbD di then conv (part * n + di) else lane old wd di)

/-- VCVT. -/
def execVcvt (d a : R) (dst src : VType) (part : BitVec 5) (rm : Rnd) (m : VCtl) (s : State) : Outcome :=
  onThread (fun t => do
    let mask ← t.maskOf m.sel
    .ok (t.wrV d (convertLanes (t.rdV d) (t.rdV a) dst src part.toNat rm mask))) s

/-! ### Reductions (R168) -/

/-- A reduction in lane order from the first active lane. -/
def reduceLanes (l : List Nat) (empty : Nat) (f : Nat → Nat → Nat) : Nat :=
  match l with
  | [] => empty
  | x :: r => r.foldl f x

/-- A floating reduction: the code of the result, a NaN being canonical. -/
def reduceF (fmt : FloatFmt) (l : List Nat) (empty : FVal) (f : FVal → FVal → FVal) : Nat :=
  fmt.round .rn (match l.map fmt.decode with
    | [] => empty
    | x :: r => r.foldl f x)

/-- VRSUM. -/
def execVrsum (d a : R) (t : VType) (rm : Rnd) (m : VCtl) (s : State) : Outcome :=
  onThread (fun th => do
    let mask ← th.maskOf m.sel
    let l := activeLanes (th.rdV a) t mask
    let r : Word := match typeFloat t with
      | some fmt => BitVec.ofNat 64 (reduceF fmt l (.zero false) (fun acc x => fmt.decode (fmt.round rm (FVal.add rm acc x))))
      | none => l.foldl (fun acc x => acc + BitVec.ofInt 64 (typeVal t x)) 0
    th.wrG d r) s

/-- VRMAX and VRMIN: `big` for the larger. -/
def vrExtreme (big : Bool) (d a : R) (t : VType) (m : VCtl) (s : State) : Outcome :=
  onThread (fun th => do
    let mask ← th.maskOf m.sel
    let l := activeLanes (th.rdV a) t mask
    let r : Word := match typeFloat t with
      | some fmt => BitVec.ofNat 64 (reduceF fmt l (.inf big) (if big then FVal.max else FVal.min))
      | none => laneWord t (reduceLanes l (wrapTo t.width (if big then typeMin t else typeMax t))
          (fun x y => if (if big then typeVal t x < typeVal t y else typeVal t y < typeVal t x) then y else x))
    th.wrG d r) s

/-- VRMAX. -/
def execVrmax (d a : R) (t : VType) (m : VCtl) (s : State) : Outcome := vrExtreme true d a t m s
/-- VRMIN. -/
def execVrmin (d a : R) (t : VType) (m : VCtl) (s : State) : Outcome := vrExtreme false d a t m s

/-! ### Permutes (R169) -/

/-- VSHUF. -/
def execVshuf (d a b : R) (t : VType) (m : VCtl) (s : State) : Outcome :=
  onThread (fun th => th.vec1 d m t.width (fun i => lane (th.rdV a) t.width (lane (th.rdV b) t.width i % lanesOf t))) s
/-- VSLIDE. DESIGN CHOICE (log entry 67): of a moved-from gb and a moved-from mask register HANDLE_MOVED names gb. -/
def execVslide (d a b : R) (t : VType) (m : VCtl) (s : State) : Outcome :=
  onThread (fun th => do
    let y ← th.rdG b
    th.vec1 d m t.width (fun i =>
      let j := (i : Int) + y.toInt
      if 0 ≤ j ∧ j < lanesOf t then lane (th.rdV a) t.width j.toNat else 0)) s
/-- VBCAST. DESIGN CHOICE (log entry 67): ga is read before the mask register. -/
def execVbcast (d a : R) (t : VType) (m : VCtl) (s : State) : Outcome :=
  onThread (fun th => do
    let x ← th.rdG a
    th.vec1 d m t.width (fun _ => x.toNat % 2 ^ t.width)) s
/-- VZIP. -/
def execVzip (d a b : R) (h : Bool) (t : VType) (m : VCtl) (s : State) : Outcome :=
  onThread (fun th => th.vec1 d m t.width (fun i =>
    lane (if i % 2 = 0 then th.rdV a else th.rdV b) t.width ((if h then lanesOf t / 2 else 0) + i / 2))) s
/-- VUNZIP. -/
def execVunzip (d a b : R) (h : Bool) (t : VType) (m : VCtl) (s : State) : Outcome :=
  onThread (fun th => th.vec1 d m t.width (fun i =>
    let j := 2 * i + (if h then 1 else 0)
    if j < lanesOf t then lane (th.rdV a) t.width j else lane (th.rdV b) t.width (j - lanesOf t))) s

/-! ### Moves and select (R170, R171) -/

/-- VMOV. -/
def execVmov (d a : R) (t : VType) (m : VCtl) (s : State) : Outcome := lanes1 d a t.width m (fun x => x) s
/-- VMOVG. -/
def execVmovg (d a : R) (k : BitVec 3) (_reuse : Bool) (s : State) : Outcome :=
  onThread (fun t => t.wrG d ((t.rdV a).extractLsb' (64 * k.toNat) 64)) s
/-- VEXT. -/
def execVext (d a b : R) (t : VType) (_reuse : Bool) (s : State) : Outcome :=
  onThread (fun th => do
    let y ← th.rdG b
    th.wrG d (laneWord t (lane (th.rdV a) t.width (y.toNat % lanesOf t)))) s
/-- VINS. DESIGN CHOICE (log entry 67): ga is read before gb. -/
def execVins (d a b : R) (t : VType) (_reuse : Bool) (s : State) : Outcome :=
  onThread (fun th => do
    let (x, y) ← th.rd2 a b
    .ok (th.wrV d (ofLanes t.width (lanesOf t) (fun i =>
      if i = y.toNat % lanesOf t then x.toNat % 2 ^ t.width else lane (th.rdV d) t.width i)))) s
/-- VSEL. DESIGN CHOICE (log entry 67): gc is read before the mask register. -/
def execVsel (d a b c : R) (t : VType) (m : VCtl) (s : State) : Outcome :=
  onThread (fun th => do
    let z ← th.rdG c
    th.vec1 d m t.width (fun i => lane (if z.getLsbD i then th.rdV a else th.rdV b) t.width i)) s

/-! ### Modular arithmetic and butterflies (R172, R173) -/

/-- A modular form on N64 lanes with the thread's QMOD. -/
def laneQ (d a b : R) (m : VCtl) (f : Nat → Nat → Nat → Nat) (s : State) : Outcome :=
  lanes2 d a b 64 m (f s.me.sys.qmod.toNat) s

/-- VMULQ. -/
def execVmulq (d a b : R) (m : VCtl) (s : State) : Outcome := laneQ d a b m mulMod s
/-- VADDQ. -/
def execVaddq (d a b : R) (m : VCtl) (s : State) : Outcome := laneQ d a b m addMod s
/-- VSUBQ. -/
def execVsubq (d a b : R) (m : VCtl) (s : State) : Outcome := laneQ d a b m subMod s

/-- A butterfly: both outputs of x, y and w modulo q; the pair is vd and v(d + 1). -/
def butterfly (d a b c : R) (m : VCtl) (f : Nat → Nat → Nat → Nat → Nat × Nat) (s : State) : Outcome :=
  onThread (fun t => do
    let mask ← t.maskOf m.sel
    let q := t.sys.qmod.toNat
    let out := fun i => f q (lane (t.rdV a) 64 i) (lane (t.rdV b) 64 i) (lane (t.rdV c) 64 i)
    let d1 := d ||| 1
    .ok ((t.wrV d (blend (t.rdV d) 64 mask (fun i => (out i).1))).wrV d1
      (blend (t.rdV d1) 64 mask (fun i => (out i).2)))) s

/-- VBFLY (R155). -/
def execVbfly (d a b c : R) (m : VCtl) (s : State) : Outcome :=
  butterfly d a b c m (fun q x y w => (addMod q x (mulMod q w y), subMod q x (mulMod q w y))) s
/-- VIBFLY (R155). -/
def execVibfly (d a b c : R) (m : VCtl) (s : State) : Outcome :=
  butterfly d a b c m (fun q x y w => (addMod q x y, mulMod q w (subMod q x y))) s

/-! ### Transcendentals and dot products (R174, R175) -/

/-- VEXP2. -/
def execVexp2 (d a : R) (t : FType) (m : VCtl) (s : State) : Outcome := laneF1 d a t .rn m FVal.exp2 s
/-- VLOG2. -/
def execVlog2 (d a : R) (t : FType) (m : VCtl) (s : State) : Outcome := laneF1 d a t .rn m FVal.log2 s
/-- VRCP. -/
def execVrcp (d a : R) (t : FType) (m : VCtl) (s : State) : Outcome := laneF1 d a t .rn m FVal.rcp s
/-- VRSQ. -/
def execVrsq (d a : R) (t : FType) (m : VCtl) (s : State) : Outcome := laneF1 d a t .rn m FVal.rsq s

/-- Lane i of a dot product; the sign of a zero sum is that of the terms added in order (log entry 11). -/
def dotLane (t : DotType) (rm : Rnd) (acc x y : VReg) (i : Nat) : Nat :=
  match t with
  | .i8 => wrapTo 32 ((List.range 4).foldl (fun z j =>
      z + asSigned 8 (lane x 8 (4 * i + j)) * asSigned 8 (lane y 8 (4 * i + j))) (lane acc 32 i : Int))
  | .n8 => (List.range 4).foldl (fun z j => z + lane x 8 (4 * i + j) * lane y 8 (4 * i + j)) (lane acc 32 i) % 2 ^ 32
  | .fp16 => dotF fmtFP16
  | .bf16 => dotF fmtBF16
where
  /-- The floating form. -/
  dotF (f : FloatFmt) : Nat :=
    fmtFP32.round rm ((List.range 2).foldl (fun z j =>
      FVal.add rm z (FVal.mul (f.decode (lane x 16 (2 * i + j))) (f.decode (lane y 16 (2 * i + j)))))
      (fmtFP32.decode (lane acc 32 i)))

/-- VDOT. -/
def execVdot (d a b : R) (t : DotType) (rm : Rnd) (m : VCtl) (s : State) : Outcome :=
  onThread (fun th => th.vec1 d m 32 (dotLane t rm (th.rdV d) (th.rdV a) (th.rdV b))) s

end Sys2Proof.Machine
end

