-- ==== Sys2Proof/Machine/Dispatch.lean ====
section
/-! DEFINITION. The meaning of every instruction and step: one arm per constructor of Instr. -/

namespace Sys2Proof.Machine

/-- The meaning of an instruction or a step. -/
def exec (i : Instr) (s : State) : Host.Outcome State Fault Refusal :=
  match i with
  | .nop => Sys2Proof.Machine.execNop s
  | .br off => Sys2Proof.Machine.execBr off s
  | .beq a b off => Sys2Proof.Machine.execBeq a b off s
  | .bne a b off => Sys2Proof.Machine.execBne a b off s
  | .blt a b off => Sys2Proof.Machine.execBlt a b off s
  | .bge a b off => Sys2Proof.Machine.execBge a b off s
  | .bltn a b off => Sys2Proof.Machine.execBltn a b off s
  | .bgen a b off => Sys2Proof.Machine.execBgen a b off s
  | .bbs a k off => Sys2Proof.Machine.execBbs a k off s
  | .bbc a k off => Sys2Proof.Machine.execBbc a k off s
  | .call d off => Sys2Proof.Machine.execCall d off s
  | .jr a => Sys2Proof.Machine.execJr a s
  | .callr d a => Sys2Proof.Machine.execCallr d a s
  | .ret a => Sys2Proof.Machine.execRet a s
  | .loop n a off => Sys2Proof.Machine.execLoop n a off s
  | .loopi n cnt off => Sys2Proof.Machine.execLoopi n cnt off s
  | .spawn d a => Sys2Proof.Machine.execSpawn d a s
  | .spawnl d a => Sys2Proof.Machine.execSpawnl d a s
  | .endC => Sys2Proof.Machine.execEndC s
  | .yield => Sys2Proof.Machine.execYield s
  | .park => Sys2Proof.Machine.execPark s
  | .launch d a => Sys2Proof.Machine.execLaunch d a s
  | .trap code => Sys2Proof.Machine.execTrap code s
  | .eret => Sys2Proof.Machine.execEret s
  | .wfi => Sys2Proof.Machine.execWfi s
  | .srd d r => Sys2Proof.Machine.execSrd d r s
  | .swr d r => Sys2Proof.Machine.execSwr d r s
  | .sset d r => Sys2Proof.Machine.execSset d r s
  | .sclr d r => Sys2Proof.Machine.execSclr d r s
  | .tvecWrite core thr dom v => Sys2Proof.Machine.execTvecWrite core thr dom v s
  | .blaxClear core index => Sys2Proof.Machine.execBlaxClear core index s
  | .fence sc => Sys2Proof.Machine.execFence sc s
  | .fenceAcq sc => Sys2Proof.Machine.execFenceAcq sc s
  | .fenceRel sc => Sys2Proof.Machine.execFenceRel sc s
  | .fetchf => Sys2Proof.Machine.execFetchf s
  | .efence => Sys2Proof.Machine.execEfence s
  | .brk code => Sys2Proof.Machine.execBrk code s
  | .trace d tag => Sys2Proof.Machine.execTrace d tag s
  | .tsr d mask => Sys2Proof.Machine.execTsr d mask s
  | .add d a b => Sys2Proof.Machine.execAdd d a b s
  | .sub d a b => Sys2Proof.Machine.execSub d a b s
  | .and d a b => Sys2Proof.Machine.execAnd d a b s
  | .or d a b => Sys2Proof.Machine.execOr d a b s
  | .xor d a b => Sys2Proof.Machine.execXor d a b s
  | .andn d a b => Sys2Proof.Machine.execAndn d a b s
  | .orn d a b => Sys2Proof.Machine.execOrn d a b s
  | .xnor d a b => Sys2Proof.Machine.execXnor d a b s
  | .min d a b => Sys2Proof.Machine.execMin d a b s
  | .max d a b => Sys2Proof.Machine.execMax d a b s
  | .minn d a b => Sys2Proof.Machine.execMinn d a b s
  | .maxn d a b => Sys2Proof.Machine.execMaxn d a b s
  | .shl d a b => Sys2Proof.Machine.execShl d a b s
  | .shr d a b => Sys2Proof.Machine.execShr d a b s
  | .sra d a b => Sys2Proof.Machine.execSra d a b s
  | .rol d a b => Sys2Proof.Machine.execRol d a b s
  | .rorRotate d a b => Sys2Proof.Machine.execRorRotate d a b s
  | .seq d a b => Sys2Proof.Machine.execSeq d a b s
  | .sne d a b => Sys2Proof.Machine.execSne d a b s
  | .slt d a b => Sys2Proof.Machine.execSlt d a b s
  | .sltn d a b => Sys2Proof.Machine.execSltn d a b s
  | .sle d a b => Sys2Proof.Machine.execSle d a b s
  | .slen d a b => Sys2Proof.Machine.execSlen d a b s
  | .addi d a imm => Sys2Proof.Machine.execAddi d a imm s
  | .andi d a imm => Sys2Proof.Machine.execAndi d a imm s
  | .ori d a imm => Sys2Proof.Machine.execOri d a imm s
  | .xori d a imm => Sys2Proof.Machine.execXori d a imm s
  | .shli d a w => Sys2Proof.Machine.execShli d a w s
  | .shri d a w => Sys2Proof.Machine.execShri d a w s
  | .srai d a w => Sys2Proof.Machine.execSrai d a w s
  | .li d imm => Sys2Proof.Machine.execLi d imm s
  | .liw d imm => Sys2Proof.Machine.execLiw d imm s
  | .mul d a b => Sys2Proof.Machine.execMul d a b s
  | .mulh d a b => Sys2Proof.Machine.execMulh d a b s
  | .mulhn d a b => Sys2Proof.Machine.execMulhn d a b s
  | .madd d a b => Sys2Proof.Machine.execMadd d a b s
  | .div d a b => Sys2Proof.Machine.execDiv d a b s
  | .divn d a b => Sys2Proof.Machine.execDivn d a b s
  | .rem d a b => Sys2Proof.Machine.execRem d a b s
  | .remn d a b => Sys2Proof.Machine.execRemn d a b s
  | .clz d a => Sys2Proof.Machine.execClz d a s
  | .ctz d a => Sys2Proof.Machine.execCtz d a s
  | .popc d a => Sys2Proof.Machine.execPopc d a s
  | .brev d a => Sys2Proof.Machine.execBrev d a s
  | .bswap d a => Sys2Proof.Machine.execBswap d a s
  | .bfx d a b => Sys2Proof.Machine.execBfx d a b s
  | .bfxs d a b => Sys2Proof.Machine.execBfxs d a b s
  | .bfi d a b => Sys2Proof.Machine.execBfi d a b s
  | .setb d a k => Sys2Proof.Machine.execSetb d a k s
  | .clrb d a k => Sys2Proof.Machine.execClrb d a k s
  | .tglb d a k => Sys2Proof.Machine.execTglb d a k s
  | .sel d a b => Sys2Proof.Machine.execSel d a b s
  | .addpc d off => Sys2Proof.Machine.execAddpc d off s
  | .pset p a b => Sys2Proof.Machine.execPset p a b s
  | .padd p a => Sys2Proof.Machine.execPadd p a s
  | .pget d p => Sys2Proof.Machine.execPget d p s
  | .pstr p a => Sys2Proof.Machine.execPstr p a s
  | .mulq d a b => Sys2Proof.Machine.execMulq d a b s
  | .addq d a b => Sys2Proof.Machine.execAddq d a b s
  | .subq d a b => Sys2Proof.Machine.execSubq d a b s
  | .ld8 d a o off => Sys2Proof.Machine.execLd8 d a o off s
  | .ld16 d a o off => Sys2Proof.Machine.execLd16 d a o off s
  | .ld32 d a o off => Sys2Proof.Machine.execLd32 d a o off s
  | .ld64 d a o off => Sys2Proof.Machine.execLd64 d a o off s
  | .lds8 d a o off => Sys2Proof.Machine.execLds8 d a o off s
  | .lds16 d a o off => Sys2Proof.Machine.execLds16 d a o off s
  | .lds32 d a o off => Sys2Proof.Machine.execLds32 d a o off s
  | .st8 d a o off => Sys2Proof.Machine.execSt8 d a o off s
  | .st16 d a o off => Sys2Proof.Machine.execSt16 d a o off s
  | .st32 d a o off => Sys2Proof.Machine.execSt32 d a o off s
  | .st64 d a o off => Sys2Proof.Machine.execSt64 d a o off s
  | .lda d p sz post => Sys2Proof.Machine.execLda d p sz post s
  | .sta d p sz post => Sys2Proof.Machine.execSta d p sz post s
  | .watch d a w => Sys2Proof.Machine.execWatch d a w s
  | .wsleep d a => Sys2Proof.Machine.execWsleep d a s
  | .wsleepLimit core thr => Sys2Proof.Machine.execWsleepLimit core thr s
  | .pf a => Sys2Proof.Machine.execPf a s
  | .pfx a => Sys2Proof.Machine.execPfx a s
  | .clean a => Sys2Proof.Machine.execClean a s
  | .inval a => Sys2Proof.Machine.execInval a s
  | .take d a => Sys2Proof.Machine.execTake d a s
  | .taken d a b => Sys2Proof.Machine.execTaken d a b s
  | .put a b => Sys2Proof.Machine.execPut a b s
  | .putn d a b => Sys2Proof.Machine.execPutn d a b s
  | .ldf d a => Sys2Proof.Machine.execLdf d a s
  | .setf a => Sys2Proof.Machine.execSetf a s
  | .sete a => Sys2Proof.Machine.execSete a s
  | .qtag d a => Sys2Proof.Machine.execQtag d a s
  | .aadd d a b t o sc reuse => Sys2Proof.Machine.execAadd d a b t o sc reuse s
  | .aand d a b t o sc reuse => Sys2Proof.Machine.execAand d a b t o sc reuse s
  | .aor d a b t o sc reuse => Sys2Proof.Machine.execAor d a b t o sc reuse s
  | .axor d a b t o sc reuse => Sys2Proof.Machine.execAxor d a b t o sc reuse s
  | .amin d a b t o sc reuse => Sys2Proof.Machine.execAmin d a b t o sc reuse s
  | .amax d a b t o sc reuse => Sys2Proof.Machine.execAmax d a b t o sc reuse s
  | .aminn d a b t o sc reuse => Sys2Proof.Machine.execAminn d a b t o sc reuse s
  | .amaxn d a b t o sc reuse => Sys2Proof.Machine.execAmaxn d a b t o sc reuse s
  | .aswp d a b t o sc reuse => Sys2Proof.Machine.execAswp d a b t o sc reuse s
  | .acas d a b c t o sc reuse => Sys2Proof.Machine.execAcas d a b c t o sc reuse s
  | .radd a b t => Sys2Proof.Machine.execRadd a b t s
  | .rand a b t => Sys2Proof.Machine.execRand a b t s
  | .rorReduce a b t => Sys2Proof.Machine.execRorReduce a b t s
  | .rxor a b t => Sys2Proof.Machine.execRxor a b t s
  | .rmin a b t => Sys2Proof.Machine.execRmin a b t s
  | .rmax a b t => Sys2Proof.Machine.execRmax a b t s
  | .rfadd a b => Sys2Proof.Machine.execRfadd a b s
  | .uCopyEviction core line => Sys2Proof.Machine.execUCopyEviction core line s
  | .swait k v => Sys2Proof.Machine.execSwait k v s
  | .ssig k v => Sys2Proof.Machine.execSsig k v s
  | .srdk d k => Sys2Proof.Machine.execSrdk d k s
  | .ssetk d k => Sys2Proof.Machine.execSsetk d k s
  | .barj d a => Sys2Proof.Machine.execBarj d a s
  | .bara d a => Sys2Proof.Machine.execBara d a s
  | .barw d a b => Sys2Proof.Machine.execBarw d a b s
  | .barl d a => Sys2Proof.Machine.execBarl d a s
  | .vadd d a b t sat m => Sys2Proof.Machine.execVadd d a b t sat m s
  | .vsub d a b t sat m => Sys2Proof.Machine.execVsub d a b t sat m s
  | .vmul d a b t m => Sys2Proof.Machine.execVmul d a b t m s
  | .vmulh d a b t m => Sys2Proof.Machine.execVmulh d a b t m s
  | .vmin d a b t m => Sys2Proof.Machine.execVmin d a b t m s
  | .vmax d a b t m => Sys2Proof.Machine.execVmax d a b t m s
  | .vand d a b t m => Sys2Proof.Machine.execVand d a b t m s
  | .vor d a b t m => Sys2Proof.Machine.execVor d a b t m s
  | .vxor d a b t m => Sys2Proof.Machine.execVxor d a b t m s
  | .vshl d a b t m => Sys2Proof.Machine.execVshl d a b t m s
  | .vshr d a b t m => Sys2Proof.Machine.execVshr d a b t m s
  | .vsra d a b t m => Sys2Proof.Machine.execVsra d a b t m s
  | .vfadd d a b t rm m => Sys2Proof.Machine.execVfadd d a b t rm m s
  | .vfsub d a b t rm m => Sys2Proof.Machine.execVfsub d a b t rm m s
  | .vfmul d a b t rm m => Sys2Proof.Machine.execVfmul d a b t rm m s
  | .vfmin d a b t rm m => Sys2Proof.Machine.execVfmin d a b t rm m s
  | .vfmax d a b t rm m => Sys2Proof.Machine.execVfmax d a b t rm m s
  | .vfdiv d a b t rm m => Sys2Proof.Machine.execVfdiv d a b t rm m s
  | .vfsqrt d a t rm m => Sys2Proof.Machine.execVfsqrt d a t rm m s
  | .vfma d a b c t rm m => Sys2Proof.Machine.execVfma d a b c t rm m s
  | .vfms d a b c t rm m => Sys2Proof.Machine.execVfms d a b c t rm m s
  | .vfnma d a b c t rm m => Sys2Proof.Machine.execVfnma d a b c t rm m s
  | .vfnms d a b c t rm m => Sys2Proof.Machine.execVfnms d a b c t rm m s
  | .vcmp d a b cond t m => Sys2Proof.Machine.execVcmp d a b cond t m s
  | .vfcmp d a b cond t m => Sys2Proof.Machine.execVfcmp d a b cond t m s
  | .vcvt d a dst src part rm m => Sys2Proof.Machine.execVcvt d a dst src part rm m s
  | .vrsum d a t rm m => Sys2Proof.Machine.execVrsum d a t rm m s
  | .vrmax d a t m => Sys2Proof.Machine.execVrmax d a t m s
  | .vrmin d a t m => Sys2Proof.Machine.execVrmin d a t m s
  | .vshuf d a b t m => Sys2Proof.Machine.execVshuf d a b t m s
  | .vslide d a b t m => Sys2Proof.Machine.execVslide d a b t m s
  | .vbcast d a t m => Sys2Proof.Machine.execVbcast d a t m s
  | .vzip d a b h t m => Sys2Proof.Machine.execVzip d a b h t m s
  | .vunzip d a b h t m => Sys2Proof.Machine.execVunzip d a b h t m s
  | .vmov d a t m => Sys2Proof.Machine.execVmov d a t m s
  | .vmovg d a k reuse => Sys2Proof.Machine.execVmovg d a k reuse s
  | .vext d a b t reuse => Sys2Proof.Machine.execVext d a b t reuse s
  | .vins d a b t reuse => Sys2Proof.Machine.execVins d a b t reuse s
  | .vsel d a b c t m => Sys2Proof.Machine.execVsel d a b c t m s
  | .vmulq d a b m => Sys2Proof.Machine.execVmulq d a b m s
  | .vaddq d a b m => Sys2Proof.Machine.execVaddq d a b m s
  | .vsubq d a b m => Sys2Proof.Machine.execVsubq d a b m s
  | .vbfly d a b c m => Sys2Proof.Machine.execVbfly d a b c m s
  | .vibfly d a b c m => Sys2Proof.Machine.execVibfly d a b c m s
  | .vexp2 d a t m => Sys2Proof.Machine.execVexp2 d a t m s
  | .vlog2 d a t m => Sys2Proof.Machine.execVlog2 d a t m s
  | .vrcp d a t m => Sys2Proof.Machine.execVrcp d a t m s
  | .vrsq d a t m => Sys2Proof.Machine.execVrsq d a t m s
  | .vdot d a b t rm m => Sys2Proof.Machine.execVdot d a b t rm m s
  | .vld d a off t m o => Sys2Proof.Machine.execVld d a off t m o s
  | .vst d a off t m o => Sys2Proof.Machine.execVst d a off t m o s
  | .vlda d p off post t m o => Sys2Proof.Machine.execVlda d p off post t m o s
  | .vsta d p off post t m o => Sys2Proof.Machine.execVsta d p off post t m o s
  | .vgath d a b shift off t m o => Sys2Proof.Machine.execVgath d a b shift off t m o s
  | .vscat d a b shift off t m o => Sys2Proof.Machine.execVscat d a b shift off t m o s
  | .vaadd d a b shift off t m o sc => Sys2Proof.Machine.execVaadd d a b shift off t m o sc s
  | .vradd d a b shift off t m => Sys2Proof.Machine.execVradd d a b shift off t m s
  | .vamin d a b shift off t m o sc => Sys2Proof.Machine.execVamin d a b shift off t m o sc s
  | .vamax d a b shift off t m o sc => Sys2Proof.Machine.execVamax d a b shift off t m o sc s
  | .vldw d p off post t m => Sys2Proof.Machine.execVldw d p off post t m s
  | .mma t pa pb postA postB e => Sys2Proof.Machine.execMma t pa pb postA postB e s
  | .mmaz t pa pb postA postB e => Sys2Proof.Machine.execMmaz t pa pb postA postB e s
  | .mmas t pa pb postA postB e => Sys2Proof.Machine.execMmas t pa pb postA postB e s
  | .mmaq t pa pb postA postB clear e => Sys2Proof.Machine.execMmaq t pa pb postA postB clear e s
  | .azero t k e => Sys2Proof.Machine.execAzero t k e s
  | .astore t p k rm e => Sys2Proof.Machine.execAstore t p k rm e s
  | .aload t p k e => Sys2Proof.Machine.execAload t p k e s
  | .mqclr => Sys2Proof.Machine.execMqclr s
  | .mqstat d => Sys2Proof.Machine.execMqstat d s
  | .sgemv a px c x e => Sys2Proof.Machine.execSgemv a px c x e s
  | .smap d a => Sys2Proof.Machine.execSmap d a s
  | .sstat d a => Sys2Proof.Machine.execSstat d a s
  | .cpyin a b p e => Sys2Proof.Machine.execCpyin a b p e s
  | .cpyout a b p e => Sys2Proof.Machine.execCpyout a b p e s
  | .cpypp a b p e => Sys2Proof.Machine.execCpypp a b p e s
  | .cpysc a b p e => Sys2Proof.Machine.execCpysc a b p e s
  | .cpymq a count e => Sys2Proof.Machine.execCpymq a count e s
  | .gather a pidx pdense x e => Sys2Proof.Machine.execGather a pidx pdense x e s
  | .scatter a pidx pdense x e => Sys2Proof.Machine.execScatter a pidx pdense x e s
  | .cred op t a b p e => Sys2Proof.Machine.execCred op t a b p e s
  | .ecancel d mask => Sys2Proof.Machine.execEcancel d mask s
  | .estat d sel => Sys2Proof.Machine.execEstat d sel s
  | .commandStart core e => Sys2Proof.Machine.execCommandStart core e s
  | .commandComplete core cmd => Sys2Proof.Machine.execCommandComplete core cmd s
  | .gjoin d a => Sys2Proof.Machine.execGjoin d a s
  | .gleave a => Sys2Proof.Machine.execGleave a s
  | .gload d a b p e => Sys2Proof.Machine.execGload d a b p e s
  | .gstat d a => Sys2Proof.Machine.execGstat d a s
  | .groupRequest req => Sys2Proof.Machine.execGroupRequest req s
  | .groupTimerExpiry die slot => Sys2Proof.Machine.execGroupTimerExpiry die slot s
  | .groupFill fill => Sys2Proof.Machine.execGroupFill fill s
  | .rtset a b => Sys2Proof.Machine.execRtset a b s
  | .rtget d a sel => Sys2Proof.Machine.execRtget d a sel s
  | .rtchk d a => Sys2Proof.Machine.execRtchk d a s
  | .sopen ch a b => Sys2Proof.Machine.execSopen ch a b s
  | .sclose d ch => Sys2Proof.Machine.execSclose d ch s
  | .ssend ch a => Sys2Proof.Machine.execSsend ch a s
  | .ssendp ch p post => Sys2Proof.Machine.execSsendp ch p post s
  | .setupFlit stream => Sys2Proof.Machine.execSetupFlit stream s
  | .streamWordArrival stream => Sys2Proof.Machine.execStreamWordArrival stream s
  | .closingMarker stream => Sys2Proof.Machine.execClosingMarker stream s
  | .remoteAccess msg => Sys2Proof.Machine.execRemoteAccess msg s
  | .refusedPacket pkt hop reason => Sys2Proof.Machine.execRefusedPacket pkt hop reason s
  | .halloc d a => Sys2Proof.Machine.execHalloc d a s
  | .hfree a => Sys2Proof.Machine.execHfree a s
  | .hsplit d a b => Sys2Proof.Machine.execHsplit d a b s
  | .hjoin d a b => Sys2Proof.Machine.execHjoin d a b s
  | .hcpyIn a p post => Sys2Proof.Machine.execHcpyIn a p post s
  | .hcpyOut a p post => Sys2Proof.Machine.execHcpyOut a p post s
  | .hmov d a => Sys2Proof.Machine.execHmov d a s
  | .hinfo d a sel => Sys2Proof.Machine.execHinfo d a sel s
  | .puth a b => Sys2Proof.Machine.execPuth a b s
  | .takeh d a => Sys2Proof.Machine.execTakeh d a s
  | .gcall gate a b => Sys2Proof.Machine.execGcall gate a b s
  | .gret => Sys2Proof.Machine.execGret s
  | .gopen d a => Sys2Proof.Machine.execGopen d a s
  | .gclose a => Sys2Proof.Machine.execGclose a s
  | .gquery d a => Sys2Proof.Machine.execGquery d a s
  | .gdoneUnwind => Sys2Proof.Machine.execGdoneUnwind s
  | .gdoneGiveUp => Sys2Proof.Machine.execGdoneGiveUp s
  | .dstat d sel => Sys2Proof.Machine.execDstat d sel s
  | .asyncTrapDelivery core thr => Sys2Proof.Machine.execAsyncTrapDelivery core thr s
  | .watchdog core thr => Sys2Proof.Machine.execWatchdog core thr s
  | .budgetExpiry core thr frame => Sys2Proof.Machine.execBudgetExpiry core thr frame s
  | .launchAccept src => Sys2Proof.Machine.execLaunchAccept src s
  | .queueTailWrite queue tail => Sys2Proof.Machine.execQueueTailWrite queue tail s
  | .xfenceRead => Sys2Proof.Machine.execXfenceRead s
  | .recordCreate launch n => Sys2Proof.Machine.execRecordCreate launch n s
  | .continuationSelect core thr => Sys2Proof.Machine.execContinuationSelect core thr s
  | .recordHoldBack core rec => Sys2Proof.Machine.execRecordHoldBack core rec s
  | .priorityPromotion core rec => Sys2Proof.Machine.execPriorityPromotion core rec s
  | .blockedPark core thr => Sys2Proof.Machine.execBlockedPark core thr s
  | .preemptionRequest core thr => Sys2Proof.Machine.execPreemptionRequest core thr s
  | .corePreemptionRequest core => Sys2Proof.Machine.execCorePreemptionRequest core s
  | .safePointPreemption core thr => Sys2Proof.Machine.execSafePointPreemption core thr s
  | .hardPreemption core thr => Sys2Proof.Machine.execHardPreemption core thr s
  | .revokeDomain dom => Sys2Proof.Machine.execRevokeDomain dom s
  | .unwind core thr => Sys2Proof.Machine.execUnwind core thr s
  | .forcedSave core thr => Sys2Proof.Machine.execForcedSave core thr s
  | .unwindHandlerExpiry core thr => Sys2Proof.Machine.execUnwindHandlerExpiry core thr s
  | .kill cont => Sys2Proof.Machine.execKill cont s
  | .ownerCreate owner cert spDefault lending eventWord traceRing traceLen => Sys2Proof.Machine.execOwnerCreate owner cert spDefault lending eventWord traceRing traceLen s
  | .queueCreate queue owner kiosk ring entries => Sys2Proof.Machine.execQueueCreate queue owner kiosk ring entries s
  | .storageQueueCreate queue owner dom kiosk ns ring entries tailWord => Sys2Proof.Machine.execStorageQueueCreate queue owner dom kiosk ns ring entries tailWord s
  | .ownerChange core valid owner => Sys2Proof.Machine.execOwnerChange core valid owner s
  | .scrubEnd core => Sys2Proof.Machine.execScrubEnd core s
  | .tdmScheduleWrite res slots => Sys2Proof.Machine.execTdmScheduleWrite res slots s
  | .scheduleTakesEffect res => Sys2Proof.Machine.execScheduleTakesEffect res s
  | .shootdown dom => Sys2Proof.Machine.execShootdown dom s
  | .gateFree gate => Sys2Proof.Machine.execGateFree gate s
  | .prepare die header => Sys2Proof.Machine.execPrepare die header s
  | .prepared launch member => Sys2Proof.Machine.execPrepared launch member s
  | .prepareTimeout launch => Sys2Proof.Machine.execPrepareTimeout launch s
  | .abort launch => Sys2Proof.Machine.execAbort launch s
  | .preparedHoldTimeout launch => Sys2Proof.Machine.execPreparedHoldTimeout launch s
  | .commit launch => Sys2Proof.Machine.execCommit launch s
  | .committed launch member => Sys2Proof.Machine.execCommitted launch member s
  | .committedTimeout launch member => Sys2Proof.Machine.execCommittedTimeout launch member s
  | .lost launch member => Sys2Proof.Machine.execLost launch member s
  | .collectiveRegister launch pa => Sys2Proof.Machine.execCollectiveRegister launch pa s
  | .memberChanged module digests => Sys2Proof.Machine.execMemberChanged module digests s
  | .getVersion session => Sys2Proof.Machine.execGetVersion session s
  | .getCapabilities session => Sys2Proof.Machine.execGetCapabilities session s
  | .negotiateAlgorithms session => Sys2Proof.Machine.execNegotiateAlgorithms session s
  | .getDigests session => Sys2Proof.Machine.execGetDigests session s
  | .getCertificate session => Sys2Proof.Machine.execGetCertificate session s
  | .challenge session => Sys2Proof.Machine.execChallenge session s
  | .getMeasurements session => Sys2Proof.Machine.execGetMeasurements session s
  | .keyExchange session => Sys2Proof.Machine.execKeyExchange session s
  | .finish session cert => Sys2Proof.Machine.execFinish session cert s
  | .endSession session => Sys2Proof.Machine.execEndSession session s
  | .installKey session dom key => Sys2Proof.Machine.execInstallKey session dom key s
  | .resumeOwner session owner => Sys2Proof.Machine.execResumeOwner session owner s
  | .ownerDigest session owner => Sys2Proof.Machine.execOwnerDigest session owner s
  | .hotReset => Sys2Proof.Machine.execHotReset s
  | .controlLinkReturn => Sys2Proof.Machine.execControlLinkReturn s
  | .ownerFreeze owner => Sys2Proof.Machine.execOwnerFreeze owner s
  | .ownerScrub owner => Sys2Proof.Machine.execOwnerScrub owner s
  | .topologyMapChange changes => Sys2Proof.Machine.execTopologyMapChange changes s
  | .linkDown die key port => Sys2Proof.Machine.execLinkDown die key port s
  | .cxlMemAccess pa write => Sys2Proof.Machine.execCxlMemAccess pa write s
  | .snpData pa => Sys2Proof.Machine.execSnpData pa s
  | .snpInv pa => Sys2Proof.Machine.execSnpInv pa s
  | .snpCur pa => Sys2Proof.Machine.execSnpCur pa s
  | .cxlLinkDown => Sys2Proof.Machine.execCxlLinkDown s
  | .strandedClear => Sys2Proof.Machine.execStrandedClear s
  | .atomicOpCompletion core thr reply => Sys2Proof.Machine.execAtomicOpCompletion core thr reply s
  | .migrationEpoch => Sys2Proof.Machine.execMigrationEpoch s
  | .pageMove page => Sys2Proof.Machine.execPageMove page s
  | .migrationTimeout core thr => Sys2Proof.Machine.execMigrationTimeout core thr s
  | .storageEntry queue => Sys2Proof.Machine.execStorageEntry queue s
  | .storageCompletion entry result => Sys2Proof.Machine.execStorageCompletion entry result s
  | .quiescenceSweep die => Sys2Proof.Machine.execQuiescenceSweep die s
  | .debugHalt core req => Sys2Proof.Machine.execDebugHalt core req s
  | .debugStop core => Sys2Proof.Machine.execDebugStop core s
  | .debugResume core req => Sys2Proof.Machine.execDebugResume core req s
  | .debugStopRevocation core => Sys2Proof.Machine.execDebugStopRevocation core s
  | .dbgData core req write => Sys2Proof.Machine.execDbgData core req write s
  | .sensorAlarm die sensor reading => Sys2Proof.Machine.execSensorAlarm die sensor reading s
  | .clockThrottleStep die => Sys2Proof.Machine.execClockThrottleStep die s
  | .clockRestoreStep die => Sys2Proof.Machine.execClockRestoreStep die s
  | .lossOfLock die => Sys2Proof.Machine.execLossOfLock die s
  | .trip cause => Sys2Proof.Machine.execTrip cause s
  | .powerStateEntry => Sys2Proof.Machine.execPowerStateEntry s
  | .wake => Sys2Proof.Machine.execWake s
  | .fundamentalReset result => Sys2Proof.Machine.execFundamentalReset result s
  | .registerWrite target req v => Sys2Proof.Machine.execRegisterWrite target req v s
  | .dataLinkReturn => Sys2Proof.Machine.execDataLinkReturn s
  | .lockReturn die => Sys2Proof.Machine.execLockReturn die s
  | .alarmConditionClear die => Sys2Proof.Machine.execAlarmConditionClear die s
  | .ltrMessage snoop noSnoop => Sys2Proof.Machine.execLtrMessage snoop noSnoop s
  | .domainCreate dom owner root => Sys2Proof.Machine.execDomainCreate dom owner root s

end Sys2Proof.Machine
end

