-- ==== Sys2Proof/Machine/Tick.lean ====
section
/-! DEFINITION. What passing time does between steps: counters, and the steps that become due, which are put on the agenda
(spec/03_placed.md R59-R63; spec/10_gates.md R215-R220; spec/19_interrupted.md R384-R389; spec/20_retired.md R403, R408,
R409). How much time passes in a step is a free value. -/

namespace Sys2Proof.Machine

/-! ### Counters -/

/-- How far a clock of a period has advanced between two times. -/
def edges (old new period : Nat) : Nat := new / period - old / period

/-- Counts down to zero. -/
def countDown (n by_ : Nat) : Nat := n - by_

/-- Charges the watchdog: while it is armed, its remaining count falls (R384); at zero it runs out (R385). -/
def Thread.chargeWdog (t : Thread) (ticks : Nat) : Thread :=
  if !t.wdog.getLsbD 32 then t
  else
    let left := countDown (t.wdog.extractLsb' 0 32).toNat ticks
    if left = 0 then t.expire else { t with wdog := 0x100000000 ||| BitVec.ofNat 64 left }

/-- Charges a frame's budget (R215). -/
def Frame.charge (f : Frame) (cycles : Nat) : Frame := { f with left := f.left.map (fun n => countDown n cycles) }

/-- Whether a thread stalls on a page in motion, which charges nothing. -/
def Thread.stalled (t : Thread) : Bool :=
  match t.wait.map WaitRec.kind with
  | some (.moving _) => true
  | _ => false

/-- Time passes for a resident thread of a core that is not halted. -/
def Thread.pass (t : Thread) (cycles ticks : Nat) : Thread :=
  if t.run.isNone then t
  else
    let t := if t.stalled then t
      else ({ t with
        frames := t.frames.map (fun f => f.charge cycles)
        unwind := t.unwind.map (fun u => { u with handler := u.handler.map (fun n => countDown n cycles) }) } : Thread).chargeWdog ticks
    { t with
      preempt := t.preempt.map (fun n => n + cycles)
      wait := t.wait.map (fun w => { w with resident := w.resident + cycles }) }

/-- A record's wait of R59. -/
def Core.holding (k : Core) (r : Record) : Bool := k.parked.any (fun p => (p.th.run.map Cont.owner) = some r.owner)

/-- Time passes on a core. -/
def State.passCore (s : State) (c : Nat) (k : Core) (cycles ticks : Nat) : Core :=
  let k : Core := if k.dbg.halted then k else { k with threads := k.threads.map (fun t => t.pass cycles ticks) }
  let wait := fun (r : Record) => if !s.pbMatch c r.launch && k.holding r then { r with waited := r.waited + cycles } else r
  { k with queue := k.queue.map wait, ring := k.ring.map wait }

/-! ### Trace rings (R408, R409) -/

/-- Inserts a record behind those with no later stamp and no higher source. -/
def traceInsert (r : TraceRec) : List TraceRec → List TraceRec
  | [] => [r]
  | x :: l =>
    if r.stamp < x.stamp || (r.stamp == x.stamp && decide (r.source.toNat < x.source.toNat)) then r :: x :: l
    else x :: traceInsert r l

/-- Adds to the count of dropped records of a ring, which is read as any memory is (R324). -/
def State.ringLost (s : State) (o : OwnerRec) (n : Nat) : State :=
  let (x, s) := s.peek (o.traceRing + 8) 1
  s.poke (o.traceRing + 8) 8 ((x.headD 0).toNat + n)

/-- Writes one record into its owner's ring, or counts it as dropped. -/
def State.ringPut (s : State) (r : TraceRec) : State :=
  let o := s.ownerRec r.owner
  if o.traceRing = 0 then s
  else
    let (x, s) := s.peek o.traceRing 1
    let n := (x.headD 0).toNat
    if o.traceLen < 64 + 32 * (n + 1) then s.ringLost o 1
    else
      let s := s.pokeWords (o.traceRing + 64 + 32 * n)
        [BitVec.ofNat 64 r.stamp, 0#44 ++ r.kind ++ 0#4 ++ r.source, r.a, r.b]
      s.poke o.traceRing 8 (n + 1)

/-- Counts the records that an encoder has dropped in its owner's ring. -/
def State.ringDropped (s : State) (c : Nat) : State :=
  let k := s.getCore c
  let o := s.ownerRec k.owner
  if k.dropped = 0 then s
  else
    (if o.traceRing = 0 then s else s.ringLost o k.dropped).modCore c (fun k => { k with dropped := 0 })

/-- Belvedere collects the records with a stamp before the present, in order. -/
def State.collect (s : State) : State :=
  let old := ((s.cores.map (fun e => e.2.encoder)).flatten.filter (fun r => r.stamp < s.ns)).foldl (fun l r => traceInsert r l) []
  let s := s.mapCores (fun _ k => { k with encoder := k.encoder.filter (fun r => !(r.stamp < s.ns)) })
  let s := old.foldl (fun s r => s.ringPut r) s
  s.coreNums.foldl (fun s c => s.ringDropped c) s

/-! ### What caches and links may do at any time -/

/-- A dirty host-homed half may be written back. -/
def State.mayWriteBack (s : State) : State :=
  match s.hostLine with
  | [] => s
  | _ =>
    match (none :: s.hostLine.map some)[s.free % (s.hostLine.length + 1)]? with
    | some (some e) => s.spent.writeBack e.1
    | _ => s.spent

/-- A core may lose a line that it watches, which the slots of its threads and of its parked continuations record (R201, R202). -/
def State.mayLose (s : State) : State :=
  let l := s.watched
  match l with
  | [] => s
  | _ =>
    match (none :: l.map some)[s.free % (l.length + 1)]? with
    | some (some n) =>
      let s := s.spent
      s.spent.loseLine n (fun c => c = s.free % 2048)
    | _ => s.spent

/-- A completed CXL.mem write may become visible (R31). -/
def State.mayApply (s : State) : State :=
  match s.cxlBuf with
  | [] => s
  | _ => if s.free % 2 = 0 then s.spent else s.spent.applyCxl

/-- A U copy may leave its core's cache (R324). -/
def State.mayEvict (s : State) : State :=
  match s.ucopies with
  | [] => s
  | _ =>
    match (none :: s.ucopies.map some)[s.free % (s.ucopies.length + 1)]? with
    | some (some u) => s.spent.post (.uCopyEviction u.core u.line)
    | _ => s.spent

/-! ### Steps that are due -/

/-- An element that stands for a condition. -/
def when_ {α : Type} (b : Bool) (x : α) : List α := if b then [x] else []

/-- The steps that are due on a thread. A budget that runs out makes an unwind to a lower frame due that waits for a safe point (R215, R218). -/
def State.dueThread (s : State) (c : Nat) (i : BitVec 2) (t : Thread) : List Instr :=
  if t.run.isNone || (s.getCore c).dbg.halted then []
  else
    let n := i.toNat
    (t.frames.zipIdx.filter (fun e => e.1.left = some 0 && t.unwind.all (fun u => !u.due || t.depth - e.2 ≤ u.down))).map
      (fun e => Instr.budgetExpiry c n (t.depth - e.2)) ++
    (match t.unwind with
      | some u =>
        match u.handler with
        | some 0 => [.unwindHandlerExpiry c n]
        | some _ => when_ ((s.domain t.domid).state ≠ .live) (.unwind c n)
        | none =>
          if u.due || t.atSafePoint then [.unwind c n]
          else when_ (u.pressed s.cycle) (.forcedSave c n)
      | none => []) ++
    when_ (s.takesHeld c t) (.asyncTrapDelivery c n) ++
    when_ (s.mayPreempt c t && t.atSafePoint) (.safePointPreemption c n) ++
    when_ (s.mayPreempt c t && !t.atSafePoint && t.overdue) (.hardPreemption c n) ++
    (match t.wait with
      | some w =>
        (match w.kind with
          | .sleep limit => when_ (w.served = .no && limit ≠ 0 && limit.toNat ≤ w.resident) (.wsleepLimit c n)
          | .moving _ => when_ (s.timesOut c t).isSome (.migrationTimeout c n)
          | _ => []) ++
        when_ (w.kind.parks && Config.parkCycles < w.resident && s.eligible c 0 && (s.getCore c).slotFree) (.blockedPark c n)
      | none => [])

/-- The steps that are due on a core. -/
def State.dueCore (s : State) (c : Nat) : List Instr :=
  let k := s.getCore c
  (k.indexed.map (fun e => s.dueThread c e.1 e.2)).flatten ++
  when_ (s.asksOwn c) (.corePreemptionRequest c) ++
  (k.records.filter (fun r => r.promotes s.cycle)).map (fun r => Instr.priorityPromotion c r.id) ++
  (k.parked.filter (fun p => p.promotes s.cycle)).map (fun p => Instr.priorityPromotion c p.th.cont) ++
  (k.records.filter (s.holdsBack c)).map (fun r => Instr.recordHoldBack c r.id) ++
  (if k.dbg.halted then [] else (s.portStep c).toList) ++
  when_ k.dbg.request.isSome (.debugStop c) ++
  when_ (s.stopOver c) (.debugStopRevocation c) ++
  (match k.scrub with
    | some x => when_ (x.2.2 + scrubCycles ≤ s.cycle) (.scrubEnd c)
    | none => [])

/-- The steps that are due for a launch; `n` proposes the work item. -/
def State.dueLaunch (s : State) (l : Launch) (n : Nat) : List Instr :=
  when_ (s.released l && (l.nextItem 0).isSome &&
    !s.agenda.any (fun i => match i with | .recordCreate x _ => x == l.serial | _ => false)) (.recordCreate l.serial n) ++
  (match l.gang.preparedAt with
    | some t =>
      when_ (l.gang.self = 0 && l.gang.sentAt + gangDeadline ≤ s.ns) (.prepareTimeout l.serial) ++
      when_ (t + gangDeadline ≤ s.ns) (.preparedHoldTimeout l.serial)
    | none => []) ++
  (match l.gang.committedAt with
    | some t => ((List.range l.gang.table.length).filter (fun j =>
        t + gangDeadline ≤ s.ns && !l.gang.commits.contains j && !l.gang.lost.contains j)).map (fun j => Instr.committedTimeout l.serial j)
    | none => [])

/-- Whether a storage queue holds an entry. -/
def State.storageWaits (s : State) (q : StorageQueue) : Bool :=
  match s.domainWords q.dom q.tailVa 1 with
  | .ok (w, _) => q.head < (w.getD 0 0).toNat
  | .error _ => false

/-- Whether an owner that is to be scrubbed holds anything. -/
def State.holds (s : State) (o : BitVec 4) : Bool := (s.ownerRec o).created || s.liveContexts o || s.cores.any (fun e => e.2.valid && e.2.owner = o)

/-- The other steps that are due; `old` is the state before time passed. -/
def State.dueRest (s old : State) : List Instr :=
  let owners := (List.range 16).map (BitVec.ofNat 4)
  let dies := List.range 4
  (s.dieq.filter (fun e => e.2.promotes s.cycle)).map (fun e => Instr.priorityPromotion e.2.target e.2.id) ++
  (s.hostq.filter (fun q => !q.stopped && q.head ≠ q.tail && s.ctlUp && (s.ownerRec q.owner).frozen.isNone)).map
    (fun q => Instr.launchAccept (.host q.number)) ++
  s.devq.map (fun e => Instr.launchAccept (.device e.die e.owner)) ++
  (s.storeqs.filter (fun q => s.storageWaits q)).map (fun q => Instr.storageEntry q.number) ++
  (s.groups.filter (fun g => g.expired s.cycle)).map (fun g => Instr.groupTimerExpiry g.die.toNat g.slot) ++
  (s.schedNew.filter (fun e => e.2.2 ≤ s.cycle)).map (fun e => Instr.scheduleTakesEffect e.1) ++
  when_ (!s.migTable.isEmpty && s.migctl.extractLsb' 8 8 ≠ 0 && 0 < edges old.ns s.ns (100000 * (s.migctl.extractLsb' 8 8).toNat))
    .migrationEpoch ++
  (dies.filter (fun d => (s.clock d).alarm && 625 < (s.clock d).mhz && 0 < edges old.ns s.ns 100000)).map Instr.clockThrottleStep ++
  (dies.filter (fun d => s.restores d && (s.clock d).mhz < fullClock && 0 < edges old.ns s.ns 100000)).map Instr.clockRestoreStep ++
  (owners.filter (fun o => s.freezes o && s.liveContexts o)).map Instr.ownerFreeze ++
  (owners.filter (fun o => s.scrubs o && s.holds o)).map Instr.ownerScrub ++
  (dies.filter (fun d => s.launches.any (fun l => l.die = d) && 0 < edges old.cycle s.cycle 2048)).map Instr.quiescenceSweep ++
  when_ (s.power = .active && s.restful) .powerStateEntry

/-- Puts what is due on the agenda. -/
def State.postDue (s old : State) : State :=
  let due := (s.coreNums.map (fun c => s.dueCore c)).flatten ++ (s.launches.map (fun l => s.dueLaunch l s.free)).flatten ++ s.dueRest old
  match due with
  | [] => s
  | _ => due.foldl (fun s i => s.postNew i) s.spent

/-- Single-bit errors that have been corrected are counted (R382); how many there were is a free value. -/
def State.countCorrected (s : State) : State := { s.spent with corrected := s.corrected + s.free % 2 }

/-- The cores at whose ports parked continuations wait. -/
def State.awaitedPorts (s : State) : List Nat :=
  ((s.cores.map (fun e => e.2.parked.filterMap (fun p => match p.th.wait.map WaitRec.kind with
    | some (.port c _) => some c
    | _ => none))).flatten).eraseDups

/-- The ports give up the places of what is gone, and the parked continuations that can go on there do (R64, R394). -/
def State.wakePorts (s : State) : State :=
  let s := s.mapCores (fun c k => if k.port.isEmpty then k else { k with port := s.portOf c })
  s.awaitedPorts.foldl (fun s c => s.wakePort c) s

/-- A debugger's writes that waited for an instruction take the place of what it returned (R395). -/
def State.landAll (s : State) : State :=
  if s.cores.all (fun e => e.2.threads.all (fun t => t.late.isEmpty)) then s
  else s.coreNums.foldl (fun s c => (s.getCore c).indexed.foldl (fun s e => s.landLate c e.1) s) s

/-- Time passes, and what has become due is put on the agenda; nothing does while the supplies are off. -/
def State.tick (s : State) : State :=
  let cycles := Config.elapsedCycles s.fresh
  let nanos := Config.elapsedNs s.fresh
  let old := s
  let s : State := { s with
    fresh := s.fresh + 1
    cycle := s.cycle + cycles
    ns := s.ns + nanos
    cores := s.cores.map (fun e => (e.1, s.passCore e.1 e.2 cycles (edges s.ns (s.ns + nanos) 10))) }
  if s.ready && !s.tripped then (s.landAll.countCorrected.collect.mayWriteBack.mayLose.mayApply.mayEvict.maySample.wakePorts).postDue old else s

end Sys2Proof.Machine
end

