-- ==== Sys2Proof/Machine/Issue.lean ====
section
/-! DEFINITION. Issue: which thread issues, the checks before an instruction, its completion, and how a step of the agenda is
taken (spec/04_fetched.md R68-R76, R83-R86; spec/05_issued_scalar.md R99; spec/19_interrupted.md R380, R392-R396). -/

namespace Sys2Proof.Machine

/-! ### One instruction -/

/-- Begins an instruction: the head, the location after it, and no boundary any more. -/
def State.begin (s : State) (c : Nat) (i : BitVec 2) (head : Half) (next : Word) : State :=
  { s.modThread c i (fun t => { t with boundary := false, mask := none, exempt := false }) with act := ⟨c, i, head, next, .fell⟩ }

/-- Whether a guard lets the instruction execute (R74). -/
def Thread.guardTrue (t : Thread) (g : Option Guard) : Ex Bool :=
  match g with
  | none => .ok true
  | some g => do
    let x ← t.rdG g.reg
    .ok (x.getLsbD g.bit.toNat != g.sense)

/-- Completes an instruction by how it ended: the end step of loops, and the safe point behind it (R75, R135); one that YIELD or PARK has
made keeps everything live (R139). -/
def State.close (s : State) (safe : Option Word) (loc : Word) : State :=
  match s.act.out with
  | .trapped | .waits | .retired => s
  | o => s.modMe (fun t =>
      let t := t.finish loc o
      match safe with
      | some m => if t.boundary then t else { t with boundary := true, mask := some m }
      | none => t)

/-- Closes what an instruction answers. -/
def closeOutcome (safe : Option Word) (loc : Word) : Outcome → Outcome
  | .next s => .next (s.close safe loc)
  | o => o

/-- Steps 7 and 8 of R83 and the instruction. DESIGN CHOICE (log entry 79): a YIELD or PARK that a false guard suppresses is a safe point only
where its head has sp = 1 (R74, R75, R139). -/
def State.runHead (s : State) (x : Decoded) (loc : Word) : Outcome :=
  match s.me.guardTrue x.guard with
  | .error (.fault f) => .next (s.trap f)
  | .error _ => .next s
  | .ok false => .next (s.fell.close x.safe loc)
  | .ok true => closeOutcome x.safe loc (exec x.instr s)

/-- The fault of steps 2 to 6 of R83. -/
def State.decodeFault (s : State) (e : DErr) : Flt :=
  match e with
  | .illegal n => s.headFault .illegalHead n
  | .reserved n => s.headFault .reservedField n

/-- The execute match on the head at a thread's location: none on a head that has issued already and waits. -/
def State.issueMatch (s : State) (c : Nat) (i : BitVec 2) : Option (Nat × Bool) :=
  let t := s.getThread c i
  if t.wait.isSome then none else s.execMatch c i t.pc

/-- A thread executes the head at its location. -/
noncomputable def State.executeHead (s : State) (c : Nat) (i : BitVec 2) : Outcome :=
  let pc := (s.getThread c i).pc
  match s.issueMatch c i with
  | some m => .next ((s.matched c i m).out .trapped)
  | none =>
    match s.fetch c i pc with
    | .error (.fault f) => .next ((s.begin c i 0 pc).trap f)
    | .error (.faultIn s f) => .next ((s.begin c i 0 pc).trap f)
    | .error (.hold w) => .next ((s.begin c i 0 pc).waits w)
    | .ok (line, s) =>
      let head := line.getD (slotOf pc) 0
      let s := s.begin c i head (nextLoc line pc)
      match decodeHead (coreType c) head (lineTail line (slotOf pc)) with
      | .error e => .next (s.trap (s.decodeFault e))
      | .ok x => s.runHead x pc

/-- What an attempt at an instruction leaves beside its effect: one that was not ready leaves the thread at its boundary (R388, R396), and
a trap withdraws the entries of the instruction that waited (R310). -/
def State.settleWait (s : State) (c : Nat) (i : BitVec 2) (old : Thread) : State :=
  match s.act.out with
  | .waits => s.modThread c i (fun t =>
      if t.inWait then t else { t with boundary := old.boundary, mask := old.mask, exempt := old.exempt })
  | .trapped => if old.inWait then s.withdraw c old.cont else s
  | _ => s

/-- A thread issues the head at its location. -/
noncomputable def State.issue (s : State) (c : Nat) (i : BitVec 2) : Outcome :=
  match s.executeHead c i with
  | .next s' => .next (s'.settleWait c i (s.getThread c i))
  | o => o

/-! ### Which thread issues (R99) -/

/-- Whether a thread waits for an event that has not come. -/
def Thread.blocked (t : Thread) : Bool :=
  match t.wait with
  | none => false
  | some w => w.served = .no && (match w.kind with
    | .word _ _ | .sem _ | .barrier _ _ | .ground | .away | .parked | .wfi | .lodge | .host => true
    | .sleep _ | .handle _ _ | .moving _ | .room _ | .port _ _ | .fence => false)

/-- Whether a thread may issue its next head, or complete the one it waits in: it runs, nothing comes before at this boundary, and its
event has come; a core that is about to stop or steps one thread issues no other. -/
def State.ready? (s : State) (c : Nat) (i : BitVec 2) : Bool :=
  let k := s.getCore c
  let t := k.thread i
  t.run.isSome && !t.blocked && !k.dbg.halted && k.scrub.isNone && (k.dbg.request.isNone || t.inProgress) && (!k.dbg.stepping || i = k.dbg.stepThr) &&
    s.clocked c && (!s.unwindNext t || t.served || t.inProgress) && !s.takesHeld c t &&
    !(s.mayPreempt c t && (t.atSafePoint || t.overdue))

/-- A step of a core that steps one thread is over: the core halts again, unless what it came to stops it (R392). -/
def State.stepped (s : State) (c : Nat) (i : BitVec 2) : State :=
  if (s.getCore c).dbg.stepping then
    s.modDbg c (fun d => if d.request.isSome then { d with stepping := false }
      else { d with stepping := false, request := some 2, thread := i })
  else s

/-- What an attempt of a thread comes to: none when nothing was issued or completed, so that the next thread is examined. An instruction that
waits from here on has issued; the completion of one that waited is no issue. -/
def State.issued (s' : State) (c : Nat) (i : BitVec 2) (old : Thread) : Option State :=
  if s'.act.out = .waits && (old.inWait || !(s'.getThread c i).inWait) then none
  else if old.inWait then some s'
  else some ((s'.modCore c (fun k => { k with last := i })).stepped c i)

/-- The threads of a core, examined in an order, until one issues; one that is not ready is passed over, and an idle one selects. An execute
match acts before its head issues, so that no thread has issued (R99, R396). -/
noncomputable def State.issueFrom (s : State) (c : Nat) : List (BitVec 2) → Outcome
  | [] => .next s
  | i :: r =>
    if s.ready? c i then
      match s.issue c i with
      | .next s' =>
        if (s.issueMatch c i).isSome then .next (s'.stepped c i)
        else match s'.issued c i (s.getThread c i) with
        | some s'' => .next s''
        | none => s'.issueFrom c r
      | o => o
    else if s.canSelect c i then .next (s.select c i)
    else s.issueFrom c r

/-- A core issues. -/
noncomputable def State.issueCore (s : State) (c : Nat) : Outcome :=
  let t := (s.getCore c).last
  s.issueFrom c [t + 1, t + 2, t + 3, t]

/-! ### The agenda -/

/-- Whether the device takes a step in its present condition: one that has not come up, or has stopped, takes only a
fundamental reset, and answers GET_VERSION (R412, R414); while it is supplied it can trip. -/
def State.takes (s : State) (i : Instr) : Bool :=
  (s.ready && !s.tripped) || (match i with
    | .fundamentalReset _ => true
    | .getVersion _ => !s.tripped
    | .trip _ => !s.tripped
    | _ => false)

/-- An event wakes the device (R413). -/
def State.woken (s : State) (i : Instr) : State :=
  match i with
  | .powerStateEntry => s
  | _ => if s.power = .active then s else { s with power := .active }

/-- Takes one step of the agenda. -/
def State.takeStep (s : State) (i : Instr) : Outcome :=
  let s := { s with agenda := s.agenda.erase i }
  if s.takes i then exec i (s.woken i) else .next s

/-- The core that issues next. -/
def State.turn (s : State) : State :=
  { s with
    act := { s.act with core := (s.coreNums[Config.nextCore s.fresh % s.coreNums.length]?).getD s.act.core }
    fresh := s.fresh + 1 }

/-- The turn passes after a step. -/
def turnOutcome : Outcome → Outcome
  | .next s => .next s.turn
  | o => o

/-- The next step: one of the agenda, or the executing core's issue; which of them is a free value. -/
noncomputable def State.choice (s : State) : Outcome :=
  let issue := if s.ready && !s.tripped then s.issueCore s.act.core else .next s
  match s.agenda with
  | [] => issue
  | l =>
    match l[Config.pick s.fresh % (l.length + 1)]? with
    | some i => s.spent.takeStep i
    | none => issue

/-! ### A line that holds one instruction -/

/-- A line of one head in slot 1, from the head followed by its tail. -/
def oneHeadLine (l : List Half) : List Half :=
  let head := l.getD 0 0
  let tail := (l.drop 1).take (headLen head)
  1 :: head :: List.replicate (30 - tail.length) 0 ++ tail

/-- The location at which that line is executed. -/
abbrev probeLine : Word := 0x4000

/-- A thread that executes a line from its fetch buffer. -/
def Thread.atLine (t : Thread) (c : Cont) (line : List Half) : Thread :=
  { t with
    run := some c
    pc := probeLine + 2
    fetch := [⟨probeLine, line⟩]
    inLine := probeLine
    wait := none
    held := []
    unwind := none
    preempt := none
    exempt := true
    late := [] }

/-- Places a line where thread 0 of the executing core fetches its next head, as a program loaded from outside would stand: the
device has come up, the agenda is empty, and the thread is in the line, whose image its fetch buffer holds (R85). -/
def State.placeLine (s : State) (line : List Half) : State :=
  let c := s.act.core
  let s : State := { s with
    agenda := []
    ready := true
    tripped := false
    power := .active
    booting := none
    clocks := s.clocks.map (fun x => { x with held := false }) }
  s.modCore c (fun k => { k.setThread 0 ((k.thread 0).atLine ⟨s.nextId, 0, k.owner, 0, 0, none, s.cycle⟩ line) with
    last := 3
    scrub := none
    dbg := { k.dbg with halted := false, request := none, stepping := false } })

end Sys2Proof.Machine
end

