-- ==== Sys2Proof/Machine/Step.lean ====
section
/-! DEFINITION. One step of the machine. -/

namespace Sys2Proof.Machine

/-- Time passes, and then one step of the agenda is taken or the executing core issues. -/
noncomputable def step (s : State) : Host.Outcome State Fault Refusal := turnOutcome s.tick.choice

/-- The state with an instruction, whose bits the opcode table numbers, where the executing core fetches its next one. -/
def State.withFetchWord (s : State) (nbits w : Nat) : State := s.placeLine (oneHeadLine (tableHalves nbits w))

end Sys2Proof.Machine
end

