-- ==== Sys2Proof/Safety.lean ====
section
/-! DEFINITION. The terms in which statements speak of the machine: what a register reads, the end of an instruction that
writes one register, the invariant of memory, and tables of the instructions of one shape with the values that spec/
gives them, written over whole numbers. -/

namespace Sys2Proof.Machine

/-! ### Registers and ends -/

/-- Register n of the executing thread reads as x (R87, R93). -/
abbrev State.Reads (s : State) (n : R) (x : Word) : Prop := s.me.rdG n = .ok x

/-- Register n of the executing thread may be stored: it reads as x and holds no handle (R194). -/
abbrev State.Stores (s : State) (n : R) (x : Word) : Prop := s.me.rdStored n = .ok x

/-- Register d of the executing thread may be written: it holds no live handle (R94). -/
abbrev State.Takes (s : State) (d : R) : Prop := s.me.tagOf d ≠ .handle

/-- The instruction ends with gd := v and the pc at the next location. -/
def State.gives (s : State) (d : R) (v : Word) : State := (s.setMe (s.me.setG d v)).fell

/-- The byte that a pool holds at an offset. -/
def State.poolByte (s : State) (c off : Nat) : Byte := memGet (s.getCore c).pool off

/-- What a program can see of the machine but the executing thread: the other threads, each core's shared state, and memory. -/
def SameElsewhere (s t : State) : Prop :=
  (∀ c i, ¬(c = s.act.core ∧ i = s.act.thr) → t.getThread c i = s.getThread c i) ∧
  (∀ c, { t.getCore c with threads := (s.getCore c).threads } = s.getCore c) ∧
  t = { s with cores := t.cores, act := { s.act with out := t.act.out } }

/-! ### The invariant -/

/-- The device's memory and every pool are in canonical form. -/
abbrev State.MemOk (s : State) : Prop := Memory.wf s.mem = true ∧ ∀ e ∈ s.cores, Memory.wf e.2.pool = true

/-! ### What engines meet -/

/-- No access of an engine is stopped or diverted: no line fails its check, no U copy stands, no page is in motion, and the link to the host
is up (R228, R292, R298, R300, R324). -/
abbrev State.EngineClear (s : State) : Prop :=
  s.MemOk ∧ s.bad = [] ∧ s.ucopies = [] ∧ s.hostDown = false ∧ ∀ p ∈ s.migTable, p.moving = false

/-- Every resource can grant an owner a slot (R54). -/
abbrev State.Served (s : State) (o : BitVec 4) : Prop := ∀ r, s.granted o r = true

/-- No word of a pool fails its check, holds a handle, or is waited for (R308, R346, R382). -/
abbrev Core.PoolClear (k : Core) : Prop := k.worn = [] ∧ k.marks = [] ∧ k.deferred = []

/-- Spans of n bytes that do not overlap. -/
abbrev Apart (n : Nat) (l : List Nat) : Prop := l.Pairwise (fun a b => a + n ≤ b ∨ b + n ≤ a)

/-! ### Scalar forms -/

/-- The forms of major 0x10 and 0x11 and their results (R111-R113). -/
noncomputable def aluTable : List ((R → R → R → Instr) × (Word → Word → Word)) :=
  [(.add, fun x y => .ofInt 64 (x.toInt + y.toInt)), (.sub, fun x y => .ofInt 64 (x.toInt - y.toInt)),
   (.and, fun x y => x &&& y), (.or, fun x y => x ||| y), (.xor, fun x y => x ^^^ y),
   (.andn, fun x y => x &&& ~~~y), (.orn, fun x y => x ||| ~~~y), (.xnor, fun x y => ~~~(x ^^^ y)),
   (.min, fun x y => if x.toInt ≤ y.toInt then x else y), (.max, fun x y => if x.toInt ≤ y.toInt then y else x),
   (.minn, fun x y => if x.toNat ≤ y.toNat then x else y), (.maxn, fun x y => if x.toNat ≤ y.toNat then y else x),
   (.shl, fun x y => .ofNat 64 (x.toNat * 2 ^ (y.toNat % 64))), (.shr, fun x y => .ofNat 64 (x.toNat / 2 ^ (y.toNat % 64))),
   (.sra, fun x y => .ofInt 64 (x.toInt / 2 ^ (y.toNat % 64))),
   (.rol, fun x y => x <<< (y.toNat % 64) ||| x >>> (64 - y.toNat % 64)),
   (.rorRotate, fun x y => x >>> (y.toNat % 64) ||| x <<< (64 - y.toNat % 64)),
   (.seq, fun x y => if x = y then 1 else 0), (.sne, fun x y => if x = y then 0 else 1),
   (.slt, fun x y => if x.toInt < y.toInt then 1 else 0), (.sltn, fun x y => if x.toNat < y.toNat then 1 else 0),
   (.sle, fun x y => if x.toInt ≤ y.toInt then 1 else 0), (.slen, fun x y => if x.toNat ≤ y.toNat then 1 else 0)]

/-- The forms that multiply and divide and their results (R119, R120); MADD stands apart. -/
noncomputable def mulTable : List ((R → R → R → Instr) × (Word → Word → Word)) :=
  [(.mul, fun x y => .ofNat 64 (x.toNat * y.toNat)), (.mulh, fun x y => .ofInt 64 (x.toInt * y.toInt / 2 ^ 64)),
   (.mulhn, fun x y => .ofNat 64 (x.toNat * y.toNat / 2 ^ 64)),
   (.div, fun x y => if y = 0 then .allOnes 64 else if x = .intMin 64 ∧ y = .allOnes 64 then x else .ofInt 64 (x.toInt.tdiv y.toInt)),
   (.divn, fun x y => if y = 0 then .allOnes 64 else .ofNat 64 (x.toNat / y.toNat)),
   (.rem, fun x y => if y = 0 then x else if x = .intMin 64 ∧ y = .allOnes 64 then 0 else .ofInt 64 (x.toInt.tmod y.toInt)),
   (.remn, fun x y => if y = 0 then x else .ofNat 64 (x.toNat % y.toNat))]

/-- The forms of one register and an 11-bit immediate (R114). -/
noncomputable def immTable : List ((R → R → BitVec 11 → Instr) × (Word → BitVec 11 → Word)) :=
  [(.addi, fun x i => .ofInt 64 (x.toInt + i.toInt)), (.andi, fun x i => x &&& .ofInt 64 i.toInt),
   (.ori, fun x i => x ||| .ofInt 64 i.toInt), (.xori, fun x i => x ^^^ .ofInt 64 i.toInt)]

/-- The forms of one register and a number 0-63 (R115, R116). -/
noncomputable def bitTable : List ((R → R → BitVec 6 → Instr) × (Word → Nat → Word)) :=
  [(.shli, fun x k => .ofNat 64 (x.toNat * 2 ^ k)), (.shri, fun x k => .ofNat 64 (x.toNat / 2 ^ k)),
   (.srai, fun x k => .ofInt 64 (x.toInt / 2 ^ k)), (.setb, fun x k => x ||| .ofNat 64 (2 ^ k)),
   (.clrb, fun x k => x &&& ~~~(.ofNat 64 (2 ^ k))), (.tglb, fun x k => x ^^^ .ofNat 64 (2 ^ k))]

/-- Register forms that write gd alone, from ga and gb. -/
noncomputable def twoSource : List (R → R → R → Instr) :=
  aluTable.map Prod.fst ++ mulTable.map Prod.fst ++ [.bfx, .bfxs, .mulq, .addq, .subq]

/-- Register forms that write gd alone, from ga. -/
noncomputable def oneSource : List (R → R → Instr) := [.clz, .ctz, .popc, .brev, .bswap]

/-! ### Branches -/

/-- The compare-and-branch forms and their conditions (R129). -/
noncomputable def branchTable : List ((R → R → BitVec 16 → Instr) × (Word → Word → Prop)) :=
  [(.beq, fun x y => x = y), (.bne, fun x y => x ≠ y), (.blt, fun x y => x.toInt < y.toInt),
   (.bge, fun x y => y.toInt ≤ x.toInt), (.bltn, fun x y => x.toNat < y.toNat), (.bgen, fun x y => y.toNat ≤ x.toNat)]

/-! ### Taking an exception -/

/-- The executing thread of t has taken a cause (R375): what the thread of s held is saved, with the given location, and the
handler runs in the same domain, at the same depth, with the same g, v and p registers. -/
def Entered (s t : State) (f : Flt) (async : Bool) (loc : Word) : Prop :=
  t.me.pc = (s.domain s.me.domid).tvec ∧ t.me.sys.tpc = loc ∧ t.me.sys.taddr = f.addr ∧ t.me.sys.tinfo = f.info ∧
  t.me.sys.tcause.toNat = 0x8000 + 0x800 * s.me.level.code.toNat + (if async then 0x200 else 0) + f.cause.code.toNat ∧
  t.me.level.code.toNat = max s.me.level.code.toNat 1 ∧
  t.me.shadow = s.me.lc ∧ t.me.lc = Vector.replicate 3 zeroLoop ∧ t.me.fetch = [] ∧
  t.me.g = s.me.g ∧ t.me.v = s.me.v ∧ t.me.p = s.me.p ∧ t.me.domid = s.me.domid ∧ t.me.frames = s.me.frames

/-- The executing thread can take an exception: its domain has a handler, none runs already, and it runs no unwind handler. -/
def State.CanEnter (s : State) : Prop :=
  (s.domain s.me.domid).tvec ≠ 0 ∧ s.me.active = false ∧ (∀ u, s.me.unwind = some u → u.handler = none)

/-- What a program sees of the machine outside the executing thread and the trace encoder of its core: the other threads, each
core's shared state, and memory; of the launches only `launches` may have changed. -/
def SameButTrace (s t : State) : Prop :=
  (∀ c i, ¬(c = s.act.core ∧ i = s.act.thr) → t.getThread c i = s.getThread c i) ∧
  (∀ c, { t.getCore c with threads := (s.getCore c).threads, encoder := (s.getCore c).encoder, dropped := (s.getCore c).dropped } =
    s.getCore c) ∧
  t = { s with cores := t.cores, launches := t.launches, act := { s.act with out := t.act.out } }

/-- The core of s emits no trace record of a kind for the executing thread (R399). -/
abbrev State.Untraced (s : State) (n : Nat) : Prop := s.core.dbg.traceOn = false ∨ s.me.trace.getLsbD n = false

/-! ### Memory -/

/-- The address of an offset of the executing core's own pool, in window W0 (R176, R190). -/
def poolAddr (off : Nat) : Word := 0xFFFE000000000000 + .ofNat 64 off

/-- An access of n bytes at an offset of the executing core's pool is allowed at every level: it is aligned, lies in region S, and
no gate call is in force (R182-R184). -/
abbrev State.PoolSpan (s : State) (off n : Nat) : Prop :=
  off % n = 0 ∧ s.core.pb1.toNat * 65536 ≤ off ∧ off + n ≤ s.core.pb2.toNat * 65536 ∧ off + n ≤ 3 * 2 ^ 20 - 2 ^ 14 ∧ s.me.frames = []

/-- The pool of the executing core holds no uncorrectable error (R382). -/
abbrev State.PoolSound (s : State) : Prop := s.core.worn = []

/-- The executing thread has no posted message under way (R185). -/
abbrev State.NonePosted (s : State) : Prop := ∀ m ∈ s.msgs, ¬(m.src = s.act.core ∧ m.cont = s.cont)

/-- The value of n bytes as a word: zero-extended, or sign-extended from its highest bit. -/
def loaded (n : Nat) (signed : Bool) (x : Nat) : Word :=
  if signed ∧ 2 ^ (8 * n) ≤ 2 * x then .ofInt 64 (x - 2 ^ (8 * n)) else .ofNat 64 x

/-- The loads of major 0x28 with their bytes and their extension (R194). -/
def loadTable : List ((R → R → LdOrd → BitVec 16 → Instr) × Nat × Bool) :=
  [(.ld8, 1, false), (.ld16, 2, false), (.ld32, 4, false), (.ld64, 8, false), (.lds8, 1, true), (.lds16, 2, true), (.lds32, 4, true)]

/-- The stores of major 0x29 with their bytes (R194). -/
def storeTable : List ((R → R → StOrd → BitVec 16 → Instr) × Nat) := [(.st8, 1), (.st16, 2), (.st32, 4), (.st64, 8)]

/-- The sizes of LDA (R195). -/
def ldaTable : List (LdSize × Nat × Bool) :=
  [(.z8, 1, false), (.z16, 2, false), (.z32, 4, false), (.z64, 8, false), (.s8, 1, true), (.s16, 2, true), (.s32, 4, true)]

/-- The sizes of STA (R195). -/
def staTable : List (StSize × Nat) := [(.z8, 1), (.z16, 2), (.z32, 4), (.z64, 8)]

/-- A code of w bits as I. -/
def asI (w x : Nat) : Int := if 2 ^ w ≤ 2 * x then x - 2 ^ w else x

/-- The atomics of major 0x33 but ACAS and their new values, on w bits (R320). -/
def atomicTable : List ((R → R → R → AType → Order → XScope → Bool → Instr) × (Nat → Nat → Nat → Nat)) :=
  [(.aadd, fun w old x => (old + x) % 2 ^ w), (.aand, fun _ old x => old &&& x), (.aor, fun _ old x => old ||| x),
   (.axor, fun _ old x => old ^^^ x), (.amin, fun w old x => if asI w x < asI w old then x else old),
   (.amax, fun w old x => if asI w old < asI w x then x else old), (.aminn, fun _ old x => if x < old then x else old),
   (.amaxn, fun _ old x => if old < x then x else old), (.aswp, fun _ _ x => x)]

/-- The reductions of major 0x34 of integer types with their operations (R322). -/
def reduceTable : List ((R → R → AType → Instr) × RedOp) :=
  [(.radd, .add), (.rand, .and), (.rorReduce, .or), (.rxor, .xor), (.rmin, .min), (.rmax, .max)]

/-- A memory type of atomics: its bytes, and whether it is signed. -/
def atomicType : AType → Nat × Bool
  | .i32 => (4, true) | .i64 => (8, true) | .n32 => (4, false) | .n64 => (8, false)

/-! ### Vector registers -/

/-- The number that a lane's code stands for in an integer type (R158). -/
def laneVal (t : VType) (x : Nat) : Int := if t = .i8 ∨ t = .i16 ∨ t = .i32 ∨ t = .i64 then asI t.width x else x

/-- The least and the greatest number of an integer type. -/
def laneRange (t : VType) : Int × Int :=
  if t = .i8 ∨ t = .i16 ∨ t = .i32 ∨ t = .i64 then (-(2 ^ (t.width - 1)), 2 ^ (t.width - 1) - 1) else (0, 2 ^ t.width - 1)

/-- The code of a number in w bits, modulo 2^w. -/
def codeOf (w : Nat) (v : Int) : Nat := (v % 2 ^ w).toNat

/-- An instruction that completes with vd written lane by lane, w bits each: an active lane k becomes f k, an inactive one keeps its
value (R159). -/
def WritesLanes (i : Instr) (s : State) (d : R) (w : Nat) (m : VCtl) (f : Nat → Nat) : Prop :=
  ∀ mask, s.me.maskOf m.sel = .ok mask →
    ∃ v, exec i s = .next ((s.setMe (s.me.wrV d v)).fell) ∧
      ∀ k, k < 512 / w → lane v w k = if mask.getLsbD k then f k % 2 ^ w else lane (s.me.rdV d) w k

/-- The forms of major 0x40 on two registers of one integer type and the numbers they compute, before the code is taken modulo 2^w
(R163); `.vadd` and `.vsub` without saturation among them. -/
def vectorTable : List ((R → R → R → VType → VCtl → Instr) × (VType → Nat → Nat → Int)) :=
  [(fun d a b t m => .vadd d a b t false m, fun t x y => laneVal t x + laneVal t y),
   (fun d a b t m => .vsub d a b t false m, fun t x y => laneVal t x - laneVal t y),
   (fun d a b t m => .vadd d a b t true m, fun t x y => max (laneRange t).1 (min (laneRange t).2 (laneVal t x + laneVal t y))),
   (fun d a b t m => .vsub d a b t true m, fun t x y => max (laneRange t).1 (min (laneRange t).2 (laneVal t x - laneVal t y))),
   (.vmul, fun t x y => laneVal t x * laneVal t y), (.vmulh, fun t x y => laneVal t x * laneVal t y / 2 ^ t.width),
   (.vmin, fun t x y => if laneVal t x ≤ laneVal t y then laneVal t x else laneVal t y),
   (.vmax, fun t x y => if laneVal t x ≤ laneVal t y then laneVal t y else laneVal t x),
   (.vand, fun _ x y => ((x &&& y : Nat) : Int)), (.vor, fun _ x y => ((x ||| y : Nat) : Int)),
   (.vxor, fun _ x y => ((x ^^^ y : Nat) : Int)), (.vshl, fun t x y => x * 2 ^ (y % t.width)),
   (.vshr, fun t x y => x / 2 ^ (y % t.width)), (.vsra, fun t x y => asI t.width x / 2 ^ (y % t.width))]

/-- The forms of major 0x41 on two registers, and the value that is rounded (R164). -/
def floatTable : List ((R → R → R → FType → Rnd → VCtl → Instr) × (Rnd → FVal → FVal → FVal)) :=
  [(.vfadd, fun rm x y => FVal.add rm x y), (.vfsub, fun rm x y => FVal.add rm x y.negate), (.vfmul, fun _ x y => FVal.mul x y),
   (.vfdiv, fun _ x y => FVal.div x y)]

/-- The fused forms of major 0x42 (R165). -/
def fusedTable : List ((R → R → R → R → FType → Rnd → VCtl → Instr) × (Rnd → FVal → FVal → FVal → FVal)) :=
  [(.vfma, fun rm x y z => FVal.add rm (FVal.mul x y) z), (.vfms, fun rm x y z => FVal.add rm (FVal.mul x y) z.negate),
   (.vfnma, fun rm x y z => FVal.add rm (FVal.mul x y).negate z.negate),
   (.vfnms, fun rm x y z => FVal.add rm (FVal.mul x y).negate z)]

/-- The conditions of VCMP on two numbers (R166). -/
def condTable : List (Cond × (Int → Int → Prop)) :=
  [(.eq, fun x y => x = y), (.ne, fun x y => x ≠ y), (.lt, fun x y => x < y), (.le, fun x y => x ≤ y), (.gt, fun x y => y < x),
   (.ge, fun x y => y ≤ x)]

/-- The numbers of the active lanes of a register in ascending order (R168). -/
def activeVals (x : VReg) (t : VType) (mask : Word) : List Int :=
  ((List.range (512 / t.width)).filter (fun i => mask.getLsbD i)).map (fun i => laneVal t (lane x t.width i))

end Sys2Proof.Machine
end

