-- ==== Sys2Proof/Certificates/Slice0/Obligations.lean ====
section
/-! DEFINITION. The statements about the model. Each is about every state that meets its hypotheses, reached or not. -/

open Sys2Proof Sys2Proof.Machine

/-! ### Scalar instructions (spec/05_issued_scalar.md) -/

/-- R111 to R113, R119, R120: each form of majors 0x10 to 0x12 on registers, and each that multiplies or divides, completes with the
result of its table in gd. -/
def Obligations.RegisterAluResults : Prop :=
  (∀ e ∈ aluTable, ∀ (d a b : R) (x y : Word) (s : State),
    s.Reads a x → s.Reads b y → s.Takes d → exec (e.1 d a b) s = .next (s.gives d (e.2 x y))) ∧
  ((∀ e ∈ mulTable, ∀ (d a b : R) (x y : Word) (s : State),
    s.Reads a x → s.Reads b y → s.Takes d → exec (e.1 d a b) s = .next (s.gives d (e.2 x y))) ∧
  (∀ (d a b : R) (x y z : Word) (s : State), s.Reads a x → s.Reads b y → s.Reads d z → s.Takes d →
    exec (.madd d a b) s = .next (s.gives d (.ofNat 64 (z.toNat + x.toNat * y.toNat)))))

/-- R114 to R118 and R124: The immediate forms, and ADDPC, whose offset counts bytes from here. R121, R122, R123: Counts of zero and one
bits, reversals, bit fields and the select. -/
def Obligations.ImmediateAndBitFieldResults : Prop :=
  ((∀ e ∈ immTable, ∀ (d a : R) (i : BitVec 11) (x : Word) (s : State),
    s.Reads a x → s.Takes d → exec (e.1 d a i) s = .next (s.gives d (e.2 x i))) ∧
  (∀ e ∈ bitTable, ∀ (d a : R) (k : BitVec 6) (x : Word) (s : State),
    s.Reads a x → s.Takes d → exec (e.1 d a k) s = .next (s.gives d (e.2 x k.toNat))) ∧
  (∀ (d : R) (i : BitVec 16) (s : State), s.Takes d → exec (.li d i) s = .next (s.gives d (.ofInt 64 i.toInt))) ∧
  (∀ (d : R) (i : Word) (s : State), s.Takes d → exec (.liw d i) s = .next (s.gives d i)) ∧
  (∀ (d : R) (i : BitVec 27) (s : State), s.Takes d →
    exec (.addpc d i) s = .next (s.gives d (.ofInt 64 (s.me.pc.toInt + i.toInt))))) ∧
  ((∀ (d a : R) (x : Word) (s : State), s.Reads a x → s.Takes d →
    (∃ n : Nat, n ≤ 64 ∧ exec (.clz d a) s = .next (s.gives d (.ofNat 64 n)) ∧
      (∀ i, i < n → x.getLsbD (63 - i) = false) ∧ (n < 64 → x.getLsbD (63 - n) = true)) ∧
    (∃ n : Nat, n ≤ 64 ∧ exec (.ctz d a) s = .next (s.gives d (.ofNat 64 n)) ∧
      (∀ i, i < n → x.getLsbD i = false) ∧ (n < 64 → x.getLsbD n = true)) ∧
    exec (.popc d a) s = .next (s.gives d (.ofNat 64 ((List.range 64).filter (fun i => x.getLsbD i)).length)) ∧
    (∃ v : Word, exec (.brev d a) s = .next (s.gives d v) ∧ ∀ i, i < 64 → v.getLsbD i = x.getLsbD (63 - i)) ∧
    (∃ v : Word, exec (.bswap d a) s = .next (s.gives d v) ∧
      ∀ i, i < 8 → v.extractLsb' (8 * i) 8 = x.extractLsb' (8 * (7 - i)) 8)) ∧
  (∀ (d a b : R) (x c : Word) (s : State), s.Reads a x → s.Reads b c → s.Takes d →
    let p := c.toNat % 64
    let w := min (if c.toNat / 256 % 64 = 0 then 64 else c.toNat / 256 % 64) (64 - p)
    let field := x.toNat / 2 ^ p % 2 ^ w
    exec (.bfx d a b) s = .next (s.gives d (.ofNat 64 field)) ∧
    exec (.bfxs d a b) s = .next (s.gives d (.ofInt 64 (if 2 * field < 2 ^ w then field else field - 2 ^ w))) ∧
    (∀ z : Word, s.Reads d z → ∃ v : Word, exec (.bfi d a b) s = .next (s.gives d v) ∧
      ∀ i, i < 64 → v.getLsbD i = if p ≤ i ∧ i < p + w then x.getLsbD (i - p) else z.getLsbD i)) ∧
  (∀ (d a b : R) (x y z : Word) (s : State), s.Reads a x → s.Reads b y → s.Reads d z → s.Takes d →
    exec (.sel d a b) s = .next (s.gives d (if z = 0 then y else x))))

/-- R125, R126: Pointer registers hold what PSET, PADD and PSTR put there and PGET reads them; the modular forms are exact on
residues below QMOD. -/
def Obligations.PointerAndModularResults : Prop :=
  (∀ (p : P) (a b : R) (x y : Word) (s : State), s.Reads a x → s.Reads b y →
    exec (.pset p a b) s = .next ((s.setMe (s.me.wrP p (.ofNat 64 (y.toNat % 2 ^ 24 * 2 ^ 40 + x.toNat % 2 ^ 40)))).fell)) ∧
  (∀ (p : P) (a : R) (x : Word) (s : State), s.Reads a x →
    (∃ v : Word, exec (.padd p a) s = .next ((s.setMe (s.me.wrP p v)).fell) ∧
      let n := if (s.me.rdP p).getLsbD 39 then 39 else 22
      v.toNat % 2 ^ n = ((s.me.rdP p).toNat + x.toNat) % 2 ^ n ∧ v.toNat / 2 ^ n = (s.me.rdP p).toNat / 2 ^ n) ∧
    exec (.pstr p a) s = .next ((s.setMe (s.me.wrP p
      (.ofNat 64 (x.toNat % 2 ^ 24 * 2 ^ 40 + (s.me.rdP p).toNat % 2 ^ 40)))).fell)) ∧
  (∀ (d : R) (p : P) (s : State), s.Takes d → exec (.pget d p) s = .next (s.gives d (s.me.rdP p))) ∧
  (∀ (d a b : R) (x y : Word) (s : State), s.Reads a x → s.Reads b y → s.Takes d →
    let q := s.me.sys.qmod.toNat
    (x.toNat < q → y.toNat < q →
      exec (.mulq d a b) s = .next (s.gives d (.ofNat 64 (x.toNat * y.toNat % q))) ∧
      exec (.addq d a b) s = .next (s.gives d (.ofNat 64 ((x.toNat + y.toNat) % q))) ∧
      exec (.subq d a b) s = .next (s.gives d (.ofInt 64 (((x.toNat : Int) - y.toNat) % q)))) ∧
    (0 < q → ∀ i : Instr, i = .mulq d a b ∨ i = .addq d a b ∨ i = .subq d a b →
      ∃ v : Word, exec i s = .next (s.gives d v) ∧ v.toNat < q))

/-- R93, R94, R375: A two-source form whose source has been moved from, or whose destination holds a live handle, takes
HANDLE_MOVED or HANDLE_STORE, the source first, and writes nothing. Of two moved-from sources the one that the form names first is reported
(log entry 67, DESIGN CHOICE). -/
def Obligations.HandleRegisterTraps : Prop :=
  ∀ f ∈ twoSource, ∀ (d a b : R) (s : State),
    (s.me.tagOf a = .movedFrom → exec (f d a b) s = .next (s.trap (flt .handleMoved (a.setWidth 64)))) ∧
    (∀ x, s.Reads a x → s.me.tagOf b = .movedFrom →
      exec (f d a b) s = .next (s.trap (flt .handleMoved (b.setWidth 64)))) ∧
    (∀ x y, s.Reads a x → s.Reads b y → s.me.tagOf d = .handle →
      exec (f d a b) s = .next (s.trap (flt .handleStore (d.setWidth 64 ||| 0x20))))

/-- R87, R110, R135: What the end of a register form leaves. Only gd, unless it is g0, and the pc change in the executing
thread, and nothing of another thread, of a core's shared state or of memory. -/
def Obligations.RegisterFormFrame : Prop :=
  ∀ (d : R) (v : Word) (s : State),
    let t := s.gives d v
    (d ≠ 0 → t.me.greg d = ⟨v, .plain⟩) ∧ t.me.rdG 0 = .ok 0 ∧
    (∀ n, n ≠ d ∨ d = 0 → t.me.greg n = s.me.greg n) ∧
    t.me = { s.me with g := t.me.g, pc := s.act.next, wait := none } ∧ SameElsewhere s t

/-! ### Control flow, exceptions and system registers (spec/06_issued_control.md, spec/19_interrupted.md, spec/05_issued_scalar.md) -/

/-- R128 to R131: Branches, calls and register jumps. A displacement counts halfwords from here; the link is the next location. R127,
R399: What a taken branch leaves. Only the pc changes in the executing thread; outside it nothing but the trace encoder of the core, and
that only when branches are traced. -/
def Obligations.BranchResults : Prop :=
  ((∀ e ∈ branchTable, ∀ (a b : R) (off : BitVec 16) (x y : Word) (s : State), s.Reads a x → s.Reads b y →
    (e.2 x y → exec (e.1 a b off) s = .next (s.branch (s.me.pc + .ofInt 64 (2 * off.toInt)))) ∧
    (¬ e.2 x y → exec (e.1 a b off) s = .next s.fell)) ∧
  (∀ (a : R) (k : BitVec 6) (off : BitVec 16) (x : Word) (s : State), s.Reads a x →
    let taken := s.branch (s.me.pc + .ofInt 64 (2 * off.toInt))
    exec (.bbs a k off) s = .next (if x.getLsbD k.toNat then taken else s.fell) ∧
    exec (.bbc a k off) s = .next (if x.getLsbD k.toNat then s.fell else taken)) ∧
  (∀ (d : R) (off : BitVec 27) (s : State),
    exec (.br off) s = .next (s.branch (s.me.pc + .ofInt 64 (2 * off.toInt))) ∧
    (s.Takes d → exec (.call d off) s = .next ((s.setMe (s.me.setG d s.act.next)).branch (s.me.pc + .ofInt 64 (2 * off.toInt))))) ∧
  (∀ (d a : R) (x : Word) (s : State), s.Reads a x →
    exec (.jr a) s = .next (s.branch x) ∧ exec (.ret a) s = .next (s.branch x) ∧
    (s.Takes d → exec (.callr d a) s = .next ((s.setMe (s.me.setG d s.act.next)).branch x)))) ∧
  (∀ (target : Word) (s : State),
    let t := s.branch target
    t.me = { s.me with pc := target, wait := none } ∧ SameButTrace s t ∧ t.launches = s.launches ∧
    (s.Untraced 0 → SameElsewhere s t))

/-- R134, R135: LOOP and LOOPI with a count that is not zero start a loop; with count 0 the loop is inactive and the pc goes behind the
end, or takes the fault of the end's line there. What falls through runs the end step: of the loops, newest first, one that ends there
goes back to its start while its count, now one less, is not zero, and else becomes inactive. -/
def Obligations.HardwareLoops : Prop :=
  (∀ (n : Fin 3) (a : R) (cnt : BitVec 10) (off : BitVec 16) (c : Word) (s : State),
    (∀ m : Fin 3, ¬(s.me.lc[m].active = true ∧ s.me.lc[m].stop = s.me.pc)) → 0 < off.toInt →
    let e : Word := s.me.pc + .ofInt 64 (2 * off.toInt)
    slotOf e ≠ 0 →
    let start := fun (c : Word) => (s.modMe (fun t => t.setLoop n ⟨c, s.act.next, e, true, t.nextAge⟩)).fell
    (s.Reads a c → c ≠ 0 → exec (.loop n a off) s = .next (start c)) ∧
    (cnt ≠ 0 → exec (.loopi n cnt off) s = .next (start (.ofNat 64 cnt.toNat))) ∧
    let none_ := s.modMe (fun t => t.setLoop n zeroLoop)
    (∀ (line : List Half) (t : State), none_.fetch s.act.core s.act.thr e = .ok (line, t) →
      (s.Reads a 0 → exec (.loop n a off) s = .next (t.jump (nextLoc line e))) ∧
      exec (.loopi n 0 off) s = .next (t.jump (nextLoc line e))) ∧
    (∀ (f : Flt), none_.fetch s.act.core s.act.thr e = .error (.fault f) →
      (s.Reads a 0 → exec (.loop n a off) s = .next (none_.skipFault f e)) ∧ exec (.loopi n 0 off) s = .next (none_.skipFault f e)) ∧
    (∀ (f : Flt) (t : State), none_.fetch s.act.core s.act.thr e = .error (.faultIn t f) →
      (s.Reads a 0 → exec (.loop n a off) s = .next (t.skipFault f e)) ∧ exec (.loopi n 0 off) s = .next (t.skipFault f e))) ∧
  (∀ (n : Fin 3) (a : R) (cnt : BitVec 10) (off : BitVec 16) (s : State),
    ((∃ m : Fin 3, s.me.lc[m].active = true ∧ s.me.lc[m].stop = s.me.pc) →
      let f := s.trap ⟨.loopState, 0, .ofNat 64 (4 * n.val + 1)⟩
      exec (.loop n a off) s = .next f ∧ exec (.loopi n cnt off) s = .next f) ∧
    ((∀ m : Fin 3, ¬(s.me.lc[m].active = true ∧ s.me.lc[m].stop = s.me.pc)) →
      off.toInt ≤ 0 ∨ slotOf (s.me.pc + .ofInt 64 (2 * off.toInt)) = 0 →
      let f := s.trap ⟨.loopState, 0, .ofNat 64 (4 * n.val + 2)⟩
      exec (.loop n a off) s = .next f ∧ exec (.loopi n cnt off) s = .next f)) ∧
  (∀ (loc : Word) (s : State),
    (s.act.out = .fell → (s.close none loc).me = (endLoops loc s.me.loopsByAge s.me).leaveLoops) ∧
    (s.act.out = .jumped → (s.close none loc).me = s.me.leaveLoops) ∧
    s.complete.me = (endLoops s.me.pc s.fell.me.loopsByAge s.fell.me).leaveLoops) ∧
  (∀ (t : Thread), t.loopsByAge.Pairwise (fun x y => y.2.age ≤ x.2.age) ∧
    (∀ x : Fin 3 × Loop, x ∈ t.loopsByAge ↔ x.2 = t.lc[x.1])) ∧
  (∀ (loc : Word) (n : Fin 3) (l : Loop) (r : List (Fin 3 × Loop)) (t : Thread), l.active = true → l.stop = loc →
    (l.count ≠ 1 → endLoops loc ((n, l) :: r) t = { t with lc := t.lc.set n { l with count := l.count - 1 }, pc := l.start }) ∧
    (l.count = 1 → endLoops loc ((n, l) :: r) t = endLoops loc r { t with lc := t.lc.set n { l with count := 0, active := false } }))

/-- R72, R141 to R143: NOP and the fences change nothing of the program's state but the pc. A full or release fence beyond its core
first performs the posted messages of its thread; FETCHF discards the fetch buffer and goes on in the new image of its line. -/
def Obligations.NopAndFences : Prop :=
  (∀ (sc : Scope) (s : State), exec .nop s = .next s.fell ∧ exec (.fenceAcq sc) s = .next s.fell ∧ exec .efence s = .next s.fell ∧
    (sc = .t ∨ sc = .c → exec (.fence sc) s = .next s.fell ∧ exec (.fenceRel sc) s = .next s.fell) ∧
    (∀ t, s.release sc = .ok t → exec (.fence sc) s = .next t.fell ∧ exec (.fenceRel sc) s = .next t.fell)) ∧
  (∀ (s : State), (∀ m ∈ s.msgs, ¬(m.src = s.act.core ∧ m.cont = s.cont)) → ∀ sc, s.release sc = .ok s) ∧
  (∀ (s t : State) (line : List Half),
    (s.modMe (fun x => { x with fetch := [] })).fetchImage s.act.core s.act.thr s.me.pc
      (if slotOf s.me.pc = 31 then lineAddr s.me.pc + 66 else s.me.pc + 2) = .ok (line, t) → lineBad line = none →
    exec .fetchf s = .next { t with act := { t.act with next := nextLoc line s.me.pc } }.fell)

/-- R375, R376: What a delivery does to the executing thread, and that it leaves every other thread, each core's shared state and memory
as they were; the launch counts the cause. R140, R399: TRAP, and BRK where no debugger takes it, complete and then deliver their cause
with the location after them: the end step of a loop runs first, and what is saved is where the thread would have gone on (log entry 50,
DEDUCED). -/
def Obligations.ExceptionEntry : Prop :=
  (∀ (f : Flt) (s : State), s.CanEnter →
    Entered s (s.trap f) f false s.me.pc ∧ SameButTrace s (s.trap f) ∧
    (s.trap f).launches = s.launches.map (fun l => if l.serial = s.me.launch then { l with faults := l.faults + 1 } else l) ∧
    (s.trap f).act.out = .trapped) ∧
  (∀ (code : BitVec 11) (s : State), s.CanEnter →
    (∃ t : State, exec (.trap code) s = .next t ∧ Entered s.complete t ⟨.trap, 0, .ofNat 64 code.toNat⟩ false s.complete.me.pc) ∧
    (¬(s.core.dbg.attached = true ∧ s.core.dbg.brkHalt = true) →
      ∃ t : State, exec (.brk code) s = .next t ∧
        Entered s.complete t ⟨.breakpoint, 0, .ofNat 64 (0x800 + code.toNat)⟩ false s.complete.me.pc) ∧
    ((∀ m : Fin 3, s.me.lc[m].active = false) → s.complete.me = { s.me with pc := s.act.next, wait := none }))

/-- R379, R140: ERET restores the pc, the level and the loops that the entry saved, and needs guest kernel level. -/
def Obligations.ExceptionReturn : Prop :=
  (∀ (s : State), s.me.level ≠ .user →
    ∃ t : State, exec .eret s = .next t ∧ t.me.pc = s.me.sys.tpc ∧ t.me.level.code = s.me.sys.tcause.extractLsb' 11 2 ∧
      (s.me.active = true → t.me.lc = s.me.shadow) ∧ (s.me.active = false → t.me.lc = Vector.replicate 3 zeroLoop) ∧
      t.me.active = false ∧ (∀ i, i ≠ 15 → t.me.sys.tcause.getLsbD i = s.me.sys.tcause.getLsbD i) ∧
      t.me.g = s.me.g ∧ t.me.v = s.me.v ∧ t.me.p = s.me.p ∧ t.me.sys.tpc = s.me.sys.tpc ∧ t.me.fetch = [] ∧ SameElsewhere s t) ∧
  (∀ (s : State), s.me.level = .user →
    exec .eret s = .next (s.trap ⟨.privilege, s.me.pc, .ofNat 64 (s.act.head.toNat + 0x10000)⟩))

/-- R102 to R109: SRD reads every register at its level; SWR, SSET and SCLR write it, or take PRIVILEGE below its level or
where the table gives a dash. R105 to R108, R376, R384, R407: What a write leaves in the register it names. -/
def Obligations.SystemRegisters : Prop :=
  ((∀ (d : R) (r : SysReg) (s : State), s.me.level.atLeast (SysReg.readLevel r) = true → s.Takes d →
    exec (.srd d r) s = .next (s.gives d (s.sreg r))) ∧
  (∀ (d : R) (r : SysReg) (s : State), s.me.level.atLeast (SysReg.readLevel r) = false →
    exec (.srd d r) s = .next (s.trap ⟨.privilege, s.me.pc, .ofNat 64 (s.act.head.toNat + 0x10000)⟩)) ∧
  (∀ (d : R) (r : SysReg) (x : Word) (l : Level) (s t : State), SysReg.writeLevel r = some l → s.me.level.atLeast l = true →
    r ≠ .tvec → s.Reads d x →
    (s.setSreg r x = .ok t → exec (.swr d r) s = .next t.fell) ∧
    (s.setSreg r (s.sreg r ||| x) = .ok t → exec (.sset d r) s = .next t.fell) ∧
    (s.setSreg r (s.sreg r &&& ~~~x) = .ok t → exec (.sclr d r) s = .next t.fell)) ∧
  (∀ (d : R) (r : SysReg) (s : State), SysReg.writeLevel r = none →
    ∀ i : Instr, i = .swr d r ∨ i = .sset d r ∨ i = .sclr d r →
      exec i s = .next (s.trap ⟨.privilege, s.me.pc, .ofNat 64 (s.act.head.toNat + 0x30000)⟩)) ∧
  (∀ (r : SysReg) (l : Level) (d : R) (s : State), SysReg.writeLevel r = some l → s.me.level.atLeast l = false →
    ∀ i : Instr, i = .swr d r ∨ i = .sset d r ∨ i = .sclr d r →
      exec i s = .next (s.trap ⟨.privilege, s.me.pc, .ofNat 64 (s.act.head.toNat + 0x10000 * l.code.toNat)⟩))) ∧
  (∀ (v : Word) (s : State),
    (∃ t : State, s.setSreg .vresume v = .ok t ∧ t.sreg .vresume = v) ∧
    (∃ t : State, s.setSreg .tpc v = .ok t ∧ t.sreg .tpc = v) ∧ (∃ t : State, s.setSreg .taddr v = .ok t ∧ t.sreg .taddr = v) ∧
    (∃ t : State, s.setSreg .tinfo v = .ok t ∧ t.sreg .tinfo = v) ∧ (∃ t : State, s.setSreg .spbudget v = .ok t ∧ t.sreg .spbudget = v) ∧
    (3 ≤ v.toNat → v.toNat < 2 ^ 62 → v.toNat % 2 = 1 →
      ∃ t : State, s.setSreg .qmod v = .ok t ∧ t.sreg .qmod = v ∧ t.sreg .qmu = .ofNat 64 (2 ^ 124 / v.toNat)) ∧
    (¬(3 ≤ v.toNat ∧ v.toNat < 2 ^ 62 ∧ v.toNat % 2 = 1) →
      s.setSreg .qmod v = .error (.fault ⟨.reservedField, s.me.pc, .ofNat 64 s.act.head.toNat⟩)) ∧
    (∃ t : State, s.setSreg .fetchctl v = .ok t ∧ (t.sreg .fetchctl).toNat = min (v.toNat % 8) 4) ∧
    (∃ t : State, s.setSreg .wdog v = .ok t ∧ t.sreg .wdog = if s.me.frames = [] then .ofNat 64 (v.toNat % 2 ^ 33) else s.sreg .wdog) ∧
    (∃ t : State, s.setSreg .blax v = .ok t ∧ (t.sreg .blax).toNat = v.toNat % 128 ∧
      (v.getLsbD 7 = true → t.sreg .blad = 0) ∧ (v.getLsbD 7 = false → t.core.sums = s.core.sums ∧ t.core.cnts = s.core.cnts)) ∧
    (∃ t : State, s.setSreg .tcause v = .ok t ∧ (t.sreg .tcause).toNat % 256 = v.toNat % 256 ∧
      ((t.sreg .tcause).extractLsb' 11 2).toNat = min (v.extractLsb' 11 2).toNat s.me.level.code.toNat ∧
      ∀ i, 8 ≤ i → i ≠ 11 → i ≠ 12 → (t.sreg .tcause).getLsbD i = (s.sreg .tcause).getLsbD i))

/-- R109, R407, R399: A write of TVEC goes to the Lodge, whose step writes the domain's entry and answers the thread; BLAX_CLEAR
clears one accumulator; TSR swaps the trace mask, as the level allows, with gd; TRACE and an attached BRK_HALT go on. -/
def Obligations.LodgeWritesAndTracing : Prop :=
  (∀ (d : R) (x : Word) (s : State), s.me.level ≠ .user → s.Reads d x → s.me.wait = none →
    exec (.swr d .tvec) s = .next ((s.post (.tvecWrite s.act.core s.act.thr.toNat s.me.domid x)).waits (some .lodge))) ∧
  (∀ (d : R) (x : Word) (s : State) (a b : Nat), s.me.level ≠ .user → s.Reads d x → s.me.wait = some ⟨.lodge, .done, a, b⟩ →
    exec (.swr d .tvec) s = .next s.fell) ∧
  (∀ (c i : Nat) (dom : BitVec 8) (v : Word) (s : State), i < 4 →
    ∃ t : State, exec (.tvecWrite c i dom v) s = .next t ∧ (t.domain dom).tvec = v ∧ (t.domain dom).owner = (s.domain dom).owner ∧
      (∀ e, e ≠ dom → t.domain e = s.domain e) ∧
      (∀ a b, (s.getThread c (.ofNat 2 i)).wait = some ⟨.lodge, .no, a, b⟩ →
        (t.getThread c (.ofNat 2 i)).wait = some ⟨.lodge, .done, a, b⟩)) ∧
  (∀ (c : Nat) (ix : BitVec 6) (s : State),
    ∃ t : State, exec (.blaxClear c ix) s = .next t ∧ (t.getCore c).sums = (s.getCore c).sums.set ix.toNat 0 ix.isLt ∧
      (t.getCore c).cnts = (s.getCore c).cnts.set ix.toNat 0 ix.isLt ∧ (t.getCore c).pool = (s.getCore c).pool) ∧
  (∀ (d : R) (m : BitVec 5) (s : State), s.Takes d →
    exec (.tsr d m) s = .next ((s.setMe { s.me.setG d (s.me.trace.setWidth 64) with
      trace := if s.me.level = .user then m &&& 0x1B else m }).fell)) ∧
  (∀ (d : R) (tag : BitVec 11) (x : Word) (s : State), s.Reads d x →
    (s.core.dbg.traceOn = false → exec (.trace d tag) s = .next s.fell) ∧
    (s.core.dbg.traceOn = true → s.core.encoder.length < 64 →
      ∃ t : State, exec (.trace d tag) s = .next t ∧ t.core.encoder = s.core.encoder ++
        [⟨s.ns, 6, .ofNat 12 (s.act.core * 4 + s.act.thr.toNat), .ofNat 64 tag.toNat, x, (s.domain s.me.domid).owner⟩])) ∧
  (∀ (code : BitVec 11) (s : State), s.core.dbg.attached = true → s.core.dbg.brkHalt = true →
    ∃ t : State, exec (.brk code) s = .next t ∧ t.core.dbg.request = some 3 ∧ t.core.dbg.thread = s.act.thr ∧ t.me.pc = s.act.next ∧
      t.agenda = s.agenda ++ [.debugStop s.act.core])

/-! ### Memory, synchronisation (spec/09_fed_pool_memory.md, spec/15_synchronised.md) -/

/-- R182, R183: An aligned access to the own pool outside a gate call: it passes the checks, and changes nothing by itself, in regions S
and M, and in region R at hypervisor level and above; it faults POOL_BOUNDS with its region's code in region R below that level, and in
region C, the mq area and at 3 MiB and beyond at every level. A misaligned one faults first. -/
def Obligations.OwnPoolAccess : Prop :=
  (∀ (w : Bool) (off n : Nat) (s : State), 0 < n → n ∣ 64 → off % n = 0 → off < 2 ^ 22 → s.me.frames = [] →
    let r := s.check { write := w, size := n, align := n } (poolAddr off)
    let passes : Ex (Place × State) := .ok (.pool s.act.core off, s)
    let faults : Nat → Ex (Place × State) := fun k => .error (.fault ⟨.poolBounds, poolAddr off, .ofNat 64 (16 * k + if w then 1 else 0)⟩)
    let pb1 := s.core.pb1.toNat * 65536
    let pb2 := s.core.pb2.toNat * 65536
    let pb3 := s.core.pb3.toNat * 65536
    let mq := 3 * 2 ^ 20 - 2 ^ 14
    (off < pb1 → off < mq → 2 ≤ s.me.level.code.toNat → r = passes) ∧ (off < pb1 → off < mq → s.me.level.code.toNat < 2 → r = faults 0) ∧
    (pb1 ≤ off → off < pb2 → off < mq → r = passes) ∧
    (pb1 ≤ off → pb2 ≤ off → off < pb3 → off < mq → r = faults 2) ∧
    (pb1 ≤ off → pb2 ≤ off → pb3 ≤ off → off < mq → r = passes) ∧
    (mq ≤ off → off < 3 * 2 ^ 20 → r = faults 4) ∧ (3 * 2 ^ 20 ≤ off → r = faults 5)) ∧
  (∀ (w : Bool) (va : Word) (n : Nat) (s : State), 0 < n → va.toNat % n ≠ 0 →
    s.check { write := w, size := n, align := n } va = .error (.fault ⟨.misaligned, va, if w then 1 else 0⟩))

/-- R7, R185: A pool reads back the byte last written there, little-endian, and a write leaves every other byte of every pool and all of
global memory as it was; outside the sealed bytes of region R (R213) it leaves every thread as it was. R7, R182, R287: A store to a cell
of device memory, after its checks, writes the bytes of its width there and no other byte, when no core holds a U copy of the line. -/
def Obligations.ReadAfterWrite : Prop :=
  (∀ (off n v : Nat) (src : Word × Nat) (s : State), s.MemOk →
    let t := s.write (.pool s.act.core off) n v src
    (∀ o, off ≤ o → o < off + n → t.poolByte s.act.core o = .ofNat 8 (v / 256 ^ (o - off))) ∧
    (∀ c o, c ≠ s.act.core ∨ o < off ∨ off + n ≤ o → t.poolByte c o = s.poolByte c o) ∧ t.mem = s.mem ∧
    (s.core.sealed off n = false → t.me = s.me ∧ (∀ c i, t.getThread c i = s.getThread c i) ∧
      (s.PoolSound → t.read (.pool s.act.core off) n = .ok (v % 256 ^ n, t)))) ∧
  (∀ (cell n v pa : Nat) (uc : Bool) (src : Word × Nat) (s : State), s.MemOk → n ≤ 64 → paSpace cell ≠ 3 → paSpace (cell + n) ≠ 3 → (∀ u ∈ s.ucopies, u.line ≠ lineOf cell) →
    let t := s.write (.cell cell uc pa) n v src
    (∀ a, cell ≤ a → a < cell + n → t.byteAt a = .ofNat 8 (v / 256 ^ (a - cell))) ∧
    (∀ a, a < cell ∨ cell + n ≤ a → t.byteAt a = s.byteAt a) ∧ (∀ c o, t.poolByte c o = s.poolByte c o))

/-- R194, R195: The scalar loads. The value read at the checked place, extended, is written to gd; LDA takes the address from a
pointer, which a post-increment then advances. -/
def Obligations.LoadResults : Prop :=
  (∀ e ∈ loadTable, ∀ (d a : R) (o : LdOrd) (off : BitVec 16) (b : Word) (pl : Place) (x : Nat) (s s1 s2 : State), s.Reads a b →
    let va : Word := b + .ofInt 64 (2 * off.toInt)
    s.check { size := e.2.1, align := e.2.1 } va = .ok (pl, s1) → s1.read pl e.2.1 = .ok (x, s2) → x < 2 ^ (8 * e.2.1) → s2.Takes d →
    exec (e.1 d a o off) s = .next ((s2.setMe (s2.me.setG d (loaded e.2.1 e.2.2 x))).dataMatch va false [(0, e.2.1)]).fell) ∧
  (∀ e ∈ ldaTable, ∀ (d : R) (p : P) (post : Bool) (pl : Place) (x : Nat) (s s1 s2 : State),
    let va := ptrAddr (s.me.rdP p) 0
    s.check { size := e.2.1, align := e.2.1, badPtr := ptrBad (s.me.rdP p) } va = .ok (pl, s1) → s1.read pl e.2.1 = .ok (x, s2) →
    x < 2 ^ (8 * e.2.1) → s2.Takes d →
    exec (.lda d p e.1 post) s =
      .next ((((s2.setMe (s2.me.setG d (loaded e.2.1 e.2.2 x))).dataMatch va false [(0, e.2.1)]).modMe (fun t => t.bump p post)).fell))

/-- R194, R195, R366: The scalar stores. A release performs the thread's posted messages first; the low bytes of gd are written at
the checked place, where gd holds no handle and no byte lies in a marked word. -/
def Obligations.StoreResults : Prop :=
  (∀ e ∈ storeTable, ∀ (d a : R) (o : StOrd) (off : BitVec 16) (b y : Word) (pl : Place) (s s0 s1 : State), s.Reads a b →
    let va : Word := b + .ofInt 64 (2 * off.toInt)
    s.stOrder o = .ok s0 → s0.check { write := true, size := e.2, align := e.2 } va = .ok (pl, s1) →
    s1.unmarked pl va a.toNat [(0, e.2)] = .ok () → s1.Stores d y →
    exec (e.1 d a o off) s = .next ((s1.write pl e.2 y.toNat (va, a.toNat)).dataMatch va true [(0, e.2)]).fell) ∧
  (∀ e ∈ staTable, ∀ (d : R) (p : P) (post : Bool) (y : Word) (pl : Place) (s s1 : State),
    let va := ptrAddr (s.me.rdP p) 0
    s.check { write := true, size := e.2, align := e.2, badPtr := ptrBad (s.me.rdP p) } va = .ok (pl, s1) →
    s1.unmarked pl va p.toNat [(0, e.2)] = .ok () → s1.Stores d y →
    exec (.sta d p e.1 post) s =
      .next (((s1.write pl e.2 y.toNat (va, p.toNat)).dataMatch va true [(0, e.2)]).modMe (fun t => t.bump p post)).fell)

/-- R183, R188, R194: A load from region S of the own pool gives the bytes that lie there; a store to it changes those bytes of that pool
and nothing else that a program sees but the pc: no full/empty bit, mark, semaphore, waiting entry, command or queue of a core (of the words
that fail their check, those written whole are sound afterwards). -/
def Obligations.PoolLoadStoreFrame : Prop :=
  (∀ e ∈ loadTable, ∀ (d a : R) (o : LdOrd) (off : BitVec 16) (x : Nat) (s : State),
    s.Reads a (poolAddr x - .ofInt 64 (2 * off.toInt)) → s.PoolSpan x e.2.1 → s.PoolSound → s.Takes d →
    exec (e.1 d a o off) s = .next (s.gives d (loaded e.2.1 e.2.2 (memRead s.core.pool x e.2.1)))) ∧
  (∀ e ∈ storeTable, ∀ (d a : R) (off : BitVec 16) (x : Nat) (y : Word) (s : State), s.MemOk →
    s.Reads a (poolAddr x - .ofInt 64 (2 * off.toInt)) → s.PoolSpan x e.2 → s.Stores d y → s.core.marks = [] →
    ∃ t : State, exec (e.1 d a .rlx off) s = .next t ∧ memRead t.core.pool x e.2 = y.toNat % 2 ^ (8 * e.2) ∧
      (∀ c i, c ≠ s.act.core ∨ i < x ∨ x + e.2 ≤ i → t.poolByte c i = s.poolByte c i) ∧
      t.me = { s.me with pc := s.act.next, wait := none } ∧
      (∀ c i, ¬(c = s.act.core ∧ i = s.act.thr) → t.getThread c i = s.getThread c i) ∧
      (∀ c, { t.getCore c with pool := (s.getCore c).pool, threads := (s.getCore c).threads, worn := (s.getCore c).worn } = s.getCore c) ∧
      (∀ c, ∀ w ∈ (t.getCore c).worn, w ∈ (s.getCore c).worn) ∧
      t = { s with cores := t.cores, act := { s.act with out := .fell } })

/-- R201 to R203: WATCH loads a word and arms its slot; WSLEEP ends with the hits, with 8 where nothing is armed, and with 4 once
its limit has passed; a prefetch goes on whatever its address, an exclusive page included (R329; log entry 75, DEDUCED), and
CLEAN and INVAL where theirs passes. -/
def Obligations.MonitorsAndCaches : Prop :=
  (∀ (d a : R) (slot : Bool) (va : Word) (c pa : Nat) (uc : Bool) (x : Nat) (s s1 s2 : State), s.Reads a va →
    s.check { size := 8, align := 8, deny := globalOnly, prop := cacheable } va = .ok (.cell c uc pa, s1) →
    s1.read (.cell c uc pa) 8 = .ok (x, s2) → s2.Takes d →
    exec (.watch d a slot) s = .next (((s2.setMe { s2.me.setG d (.ofNat 64 x) with
      watch := if slot then s2.me.watch.set 1 (some ⟨lineOf c, false⟩) else s2.me.watch.set 0 (some ⟨lineOf c, false⟩) }).dataMatch
        va false [(0, 8)]).fell)) ∧
  (∀ (d a : R) (limit : Word) (s : State), s.Reads a limit → s.Takes d →
    let hits := (watchHit s.me.watch[0]).toNat + 2 * (watchHit s.me.watch[1]).toNat
    let ends := fun (v : Nat) => (s.setMe { s.me.setG d (.ofNat 64 v) with
      watch := s.me.watch.map (fun w => if watchHit w then none else w) }).fell
    (hits ≠ 0 → exec (.wsleep d a) s = .next (ends hits)) ∧
    (s.me.watch[0] = none → s.me.watch[1] = none → exec (.wsleep d a) s = .next (ends 8)) ∧
    (hits = 0 → ¬(s.me.watch[0] = none ∧ s.me.watch[1] = none) →
      (∀ l x y, s.me.wait = some ⟨.sleep l, .done, x, y⟩ → exec (.wsleep d a) s = .next (ends 4)) ∧
      (s.me.wait = none → exec (.wsleep d a) s = .next (s.waits (some (.sleep limit)))))) ∧
  (∀ (c i : Nat) (limit : Word) (a b : Nat) (s : State), (s.getThread c (.ofNat 2 i)).wait = some ⟨.sleep limit, .no, a, b⟩ →
    limit ≠ 0 → limit.toNat ≤ b →
    exec (.wsleepLimit c i) s =
      .next (s.modThread c (.ofNat 2 i) (fun t => { t with wait := some ⟨.sleep limit, .done, a, b⟩ }))) ∧
  (∀ (a : R) (va : Word) (c pa : Nat) (s s1 : State), s.Reads a va →
    (s.prefetchable va false = none → exec (.pf a) s = .next s.fell ∧ exec (.pfx a) s = .next s.fell) ∧
    (s.prefetchable va false = some (c, pa, s1) →
      exec (.pf a) s = .next (((s1.recall (lineOf c)).takeLine c false).account (destsOf pa false)).fell) ∧
    (s.prefetchable va false ≠ none → s.prefetchable va true = some (c, pa, s1) →
      exec (.pfx a) s = .next ((((s1.recall (lineOf c)).takeLine c true).account (destsOf pa false)).loseLine (lineOf c)
        (fun k => k != s1.act.core)).fell) ∧
    (s.maintain va = .ok (none, s1) → exec (.clean a) s = .next s1.fell ∧ exec (.inval a) s = .next s1.fell) ∧
    (s.maintain va = .ok (some c, s1) → exec (.clean a) s = .next (s1.cleanLine c).fell ∧
      ∃ t : State, exec (.inval a) s = .next t ∧ (∀ e ∈ t.excl, e.2 ≠ lineOf c) ∧
        ∀ i, ∀ w ∈ (t.getThread s.act.core i).watch, ∀ x, w = some x → x.line = lineOf c → x.hit = true))

/-- A full/empty instruction of the executing thread can reach the word at an offset of its own pool: gA names it, no continuation
waits on any word of the core, and the thread waits on nothing. -/
abbrev WordAt (s : State) (a : R) (off : Nat) : Prop :=
  s.Reads a (poolAddr off) ∧ s.PoolSpan off 8 ∧ s.PoolSound ∧ s.core.deferred = [] ∧ s.me.wait = none ∧ s.NonePosted ∧ s.MemOk

/-- R306 to R311: The full/empty instructions on a word of the own pool. On a word in the wrong state TAKE, LDF and PUT wait in its
list, and TAKEN and PUTN answer 0. -/
def Obligations.FullEmptyWords : Prop :=
  (∀ (d a : R) (off : Nat) (s : State), WordAt s a off → s.Takes d → off ∉ s.core.marks → off ∈ s.core.full →
    (∃ t : State, exec (.take d a) s = .next t ∧ t.me.g = (s.me.setG d (s.core.word off)).g ∧ off ∉ t.core.full ∧
      (∀ w, w ≠ off → (w ∈ t.core.full ↔ w ∈ s.core.full)) ∧ t.core.pool = s.core.pool ∧ t.me.pc = s.act.next) ∧
    (∀ b, s.Takes b → ∃ t : State, exec (.taken d a b) s = .next t ∧ t.me.g = ((s.me.setG d (s.core.word off)).setG b 1).g ∧
      off ∉ t.core.full ∧ t.core.pool = s.core.pool ∧ t.me.pc = s.act.next)) ∧
  (∀ (d a : R) (off : Nat) (s : State), WordAt s a off → s.Takes d → off ∈ s.core.full →
    exec (.ldf d a) s = .next (s.gives d (s.core.word off)) ∧
    (∀ b v, s.Stores b v → exec (.putn d a b) s = .next (s.gives d 0)) ∧
    (∀ b v, s.Stores b v → exec (.put a b) s = .next ((s.modCore1 (fun k => { k with
      deferred := [⟨off, .put v, s.cont, s.me.domid⟩] })).waits (some (.word s.act.core off))))) ∧
  (∀ (d a : R) (off : Nat) (s : State), WordAt s a off → s.Takes d → off ∉ s.core.marks → off ∉ s.core.full →
    exec (.take d a) s = .next ((s.modCore1 (fun k => { k with
      deferred := [⟨off, .take, s.cont, s.me.domid⟩] })).waits (some (.word s.act.core off))) ∧
    (∀ b, s.Takes b → exec (.taken d a b) s = .next (s.gives b 0)) ∧
    (∀ b v, s.Stores b v →
      (∃ t : State, exec (.put a b) s = .next t ∧ t.core.word off = v ∧ off ∈ t.core.full ∧ t.me.g = s.me.g ∧ t.me.pc = s.act.next ∧
        ∀ o, o < off ∨ off + 8 ≤ o → t.poolByte s.act.core o = s.poolByte s.act.core o) ∧
      (∃ t : State, exec (.putn d a b) s = .next t ∧ t.core.word off = v ∧ off ∈ t.core.full ∧ t.me.g = (s.me.setG d 1).g))) ∧
  (∀ (d a : R) (off : Nat) (s : State), WordAt s a off → off ∉ s.core.marks →
    (∃ t : State, exec (.setf a) s = .next t ∧ off ∈ t.core.full ∧ t.core.pool = s.core.pool ∧ t.me.g = s.me.g ∧ t.me.pc = s.act.next) ∧
    (∃ t : State, exec (.sete a) s = .next t ∧ off ∉ t.core.full ∧ t.core.pool = s.core.pool ∧ t.me.g = s.me.g ∧ t.me.pc = s.act.next) ∧
    (s.Takes d → s.streams = [] → exec (.qtag d a) s = .next (s.gives d (if off ∈ s.core.full then 1 else 0))))

/-- R319 to R321, R294: An atomic answers the old value in gd and puts the new one in its place; ACAS writes only where the old value
is the one expected; a 64-bit AADD, ASWP or ACAS of scope S to space 4 waits for its completion, and any other form or width there faults
ATOMIC_UNSUPPORTED. Log entries 59 (DEDUCED: the reply that it waits for) and 66 (DEDUCED: 0 in TADDR and TINFO of ATOMIC_UNSUPPORTED). -/
def Obligations.AtomicResults : Prop :=
  (∀ e ∈ atomicTable, ∀ (d a b : R) (ty : AType) (o : Order) (sc : XScope) (reuse : Bool) (va x : Word) (pl : Place) (old : Nat)
    (s s1 s2 s3 : State),
    let n := (atomicType ty).1
    s.Reads a va → s.Stores b x → s.Takes d → s.check { write := true, size := n, align := n } va = .ok (pl, s1) →
    (hostSpace pl = 0 ∨ hostSpace pl = 3 ∧ sc = .s) → s1.unmarked pl va a.toNat [(0, n)] = .ok () → s1.atOrder o sc = .ok s2 →
    s2.update pl n (fun y => some (e.2 (8 * n) y (x.toNat % 2 ^ (8 * n)))) = .ok (old, s3) → old < 2 ^ (8 * n) → s3.Takes d →
    exec (e.1 d a b ty o sc reuse) s =
      .next ((s3.setMe (s3.me.setG d (loaded n (atomicType ty).2 old))).dataMatch va true [(0, n)]).fell) ∧
  (∀ (d a b c : R) (ty : AType) (o : Order) (sc : XScope) (reuse : Bool) (va x y : Word) (pl : Place) (old : Nat) (s s1 s2 s3 : State),
    let n := (atomicType ty).1
    s.Reads a va → s.Stores b x → s.Stores c y → s.Takes d → s.check { write := true, size := n, align := n } va = .ok (pl, s1) →
    (hostSpace pl = 0 ∨ hostSpace pl = 3 ∧ sc = .s) → s1.unmarked pl va a.toNat [(0, n)] = .ok () → s1.atOrder o sc = .ok s2 →
    s2.update pl n (fun z => if z = x.toNat % 2 ^ (8 * n) then some (y.toNat % 2 ^ (8 * n)) else none) = .ok (old, s3) →
    old < 2 ^ (8 * n) → s3.Takes d →
    exec (.acas d a b c ty o sc reuse) s =
      .next ((s3.setMe (s3.me.setG d (loaded n (atomicType ty).2 old))).dataMatch va true [(0, n)]).fell) ∧
  (∀ (d a b c : R) (ty : AType) (o : Order) (reuse : Bool) (va x y : Word) (pl : Place) (s s1 : State),
    let n := (atomicType ty).1
    s.Reads a va → s.Stores b x → s.Stores c y → s.Takes d → s.check { write := true, size := n, align := n } va = .ok (pl, s1) →
    hostSpace pl = 4 →
    (n = 8 → s1.me.wait = none → ∀ i ∈ [Instr.aadd d a b ty o .s reuse, .aswp d a b ty o .s reuse, .acas d a b c ty o .s reuse],
      exec i s = .next ((s1.spent.post (.atomicOpCompletion s1.act.core s1.act.thr.toNat s1.someReply)).waits (some .host))) ∧
    (∀ i ∈ [Instr.aand d a b ty o .s reuse, .aor d a b ty o .s reuse, .axor d a b ty o .s reuse, .amin d a b ty o .s reuse,
        .amax d a b ty o .s reuse, .aminn d a b ty o .s reuse, .amaxn d a b ty o .s reuse],
      exec i s = .next (s.trap ⟨.atomicUnsupported, 0, 0⟩)) ∧
    (n = 4 → ∀ i ∈ [Instr.aadd d a b ty o .s reuse, .aswp d a b ty o .s reuse, .acas d a b c ty o .s reuse],
      exec i s = .next (s.trap ⟨.atomicUnsupported, 0, 0⟩))) ∧
  (∀ (c i : Nat) (r : AtomicReply) (a b : Nat) (s : State), (s.getThread c (.ofNat 2 i)).wait = some ⟨.host, .no, a, b⟩ →
    exec (.atomicOpCompletion c i r) s = .next (s.modThread c (.ofNat 2 i) (fun t => { t with wait := some ⟨.host,
      match r with
      | .done => .done
      | .unsupported => .fault ⟨.atomicUnsupported, 0, 0⟩
      | .timeout => .fault ⟨.hostLinkDown, 0, 0⟩, a, b⟩ })))

/-- R322 to R325: An update-only reduction writes no register; in the own pool it is performed at once, on a cacheable line it may
stay in a U copy, which its eviction combines with memory at the home. -/
def Obligations.ReductionResults : Prop :=
  (∀ e ∈ reduceTable, ∀ (a b : R) (ty : AType) (va x : Word) (pl : Place) (s s1 s2 : State),
    let n := (atomicType ty).1
    s.Reads a va → s.Stores b x → s.check { write := true, size := n, align := n, prop := notHost } va = .ok (pl, s1) →
    s1.unmarked pl va a.toNat [(0, n)] = .ok () → s1.reduce pl (classOf va = .window) e.2 ty.toV (x.toNat % 2 ^ (8 * n)) (va, a.toNat) = .ok s2 →
    exec (e.1 a b ty) s = .next (s2.dataMatch va true [(0, n)]).fell) ∧
  (∀ (a b : R) (va x : Word) (pl : Place) (s s1 s2 : State), s.Reads a va → s.Stores b x →
    s.check { write := true, size := 4, align := 4, prop := notHost } va = .ok (pl, s1) →
    s1.unmarked pl va a.toNat [(0, 4)] = .ok () → s1.reduce pl (classOf va = .window) .fadd .fp32 (x.toNat % 2 ^ 32) (va, a.toNat) = .ok s2 →
    exec (.rfadd a b) s = .next (s2.dataMatch va true [(0, 4)]).fell) ∧
  (∀ (a b : R) (off : Nat) (x : Word) (s : State), s.Reads a (poolAddr off) → s.Stores b x → s.PoolSpan off 8 → s.PoolSound → s.core.marks = [] →
    exec (.radd a b .n64) s = .next (s.modCore1 (fun k => { k with
      pool := memWrite k.pool off 8 ((memRead k.pool off 8 + x.toNat) % 2 ^ 64) })).fell) ∧
  (∀ (c line : Nat) (u : UCopy) (s : State), s.ucopies.find? (fun v => v.core = c && v.line = line) = some u →
    exec (.uCopyEviction c line) s = .next (({ s with ucopies := s.ucopies.erase u }.combine u).hitLine line))

/-- R312 to R314: Semaphores of the own core. SWAIT takes its threshold at once where it is met and nobody waits before it, and else
queues; SSIG adds, and faults where the sum passes 0xFFFF; SRDK reads and SSETK writes. -/
def Obligations.SemaphoreResults : Prop :=
  (∀ (d : R) (k : BitVec 8) (v : BitVec 16) (s : State), s.poolBarred = false → s.me.wait = none → s.core.semq = [] →
    (v.toNat ≤ s.core.sem k → exec (.swait k v) s = .next (s.modCore1 (fun c => c.setSem k (c.sem k - v.toNat))).fell) ∧
    (s.core.sem k < v.toNat → exec (.swait k v) s =
      .next ((s.modCore1 (fun c => { c with semq := [⟨k, v, .thread s.cont⟩] })).waits (some (.sem k)))) ∧
    (s.core.sem k + v.toNat ≤ 0xFFFF → ∃ t : State, exec (.ssig k v) s = .next t ∧ t.core.sem k = s.core.sem k + v.toNat ∧
      (∀ j, j ≠ k → t.core.sem j = s.core.sem j) ∧ t.me.g = s.me.g ∧ t.me.pc = s.act.next ∧ t.core.pool = s.core.pool) ∧
    (s.Takes d → exec (.srdk d k) s = .next (s.gives d (.ofNat 64 (s.core.sem k)))) ∧
    (∀ x, s.Reads d x → ∃ t : State, exec (.ssetk d k) s = .next t ∧ t.core.sem k = x.toNat % 65536 ∧
      (∀ j, j ≠ k → t.core.sem j = s.core.sem j) ∧ t.me.g = s.me.g ∧ t.me.pc = s.act.next)) ∧
  (∀ (k : BitVec 8) (v : BitVec 16) (s : State), s.poolBarred = false → 0xFFFF < s.core.sem k + v.toNat →
    exec (.ssig k v) s = .next (s.trap ⟨.semOverflow, 0, .ofNat 64 k.toNat⟩))

/-- What a barrier instruction answers, and the object after it, none where it is unchanged (R317). -/
def barrierStep (i : Instr) (b : Barrier) : Option (Word × Option Barrier) :=
  let answer := fun (phase : BitVec 32) (low : Nat) => (BitVec.ofNat 64 (phase.toNat * 2 ^ 32 + low) : Word)
  let ended := fun (b : Barrier) => ({ b with phase := b.phase + 1, arrived := 0, observed := 0 } : Barrier)
  match i with
  | .barj _ _ =>
    if b.parties = 0xFFFF then some (answer b.phase 8, none)
    else some (answer b.phase 0, some { b with parties := b.parties + 1, observed := (b.observed + 1) % 0x10000 })
  | .bara _ _ =>
    if b.parties = 0 then some (answer b.phase 4, none)
    else if b.observed < b.parties then some (answer b.phase 1, none)
    else if (b.arrived + 1) % 0x10000 = b.parties then some (answer b.phase 2, some (ended b))
    else some (answer b.phase 0, some { b with arrived := (b.arrived + 1) % 0x10000 })
  | .barw _ _ _ => some (answer b.phase 0, some { b with observed := min (b.observed + 1) b.parties })
  | .barl _ _ =>
    if b.parties = 0 then some (answer b.phase 0, none)
    else if 1 < b.parties ∧ b.parties ≤ b.arrived + 1 then
      some (answer (b.phase + 1) 2, some (ended { b with parties := b.parties - 1 }))
    else some (answer b.phase 0, some { b with parties := b.parties - 1, observed := min b.observed (b.parties - 1) })
  | _ => none

/-- R315 to R318: The phase barriers on the object at a checked cell: the answer in gd, the object after it; BARW waits while the
phase is the one in gb, until a change of the phase has released it. -/
def Obligations.BarrierResults : Prop :=
  ∀ (d a : R) (va : Word) (cell pa : Nat) (s s1 s2 : State) (v : Word) (new : Option Barrier), s.Reads a va →
    s.barrierCell va = .ok ((cell, pa), s1) →
    let ends := fun (t : State) =>
      let t := t.setMe (t.me.setG d v)
      (((match new with | some b => t.setBarrier cell b | none => t).account [some (sliceOf pa)]).dataMatch va new.isSome [(0, 10)]).fell
    (s1.Takes d → barrierStep (.barj d a) (s1.barrierAt cell) = some (v, new) → exec (.barj d a) s = .next (ends s1)) ∧
    (s1.Takes d → barrierStep (.barl d a) (s1.barrierAt cell) = some (v, new) → exec (.barl d a) s = .next (ends s1)) ∧
    (s1.release .p = .ok s2 → s2.Takes d → barrierStep (.bara d a) (s2.barrierAt cell) = some (v, new) →
      exec (.bara d a) s = .next (ends s2)) ∧
    (∀ (b : R) (p : Word), s.Reads b p → s1.Takes d →
      ((s1.barrierAt cell).phase.toNat ≠ p.toNat % 2 ^ 32 ∨ s1.barrierServed = true → barrierStep (.barw d a b) (s1.barrierAt cell) = some (v, new) →
        exec (.barw d a b) s = .next (ends s1)) ∧
      ((s1.barrierAt cell).phase.toNat = p.toNat % 2 ^ 32 → s1.barrierServed = false →
        exec (.barw d a b) s = .next (s.waits (some (.barrier cell (p.extractLsb' 0 32))))))

/-! ### Vector instructions (spec/07_numbers.md, spec/08_issued_vector.md, spec/09_fed_pool_memory.md) -/

/-- R158, R159, R163: The integer lane forms on every integer type, with and without saturation. -/
def Obligations.VectorIntegerLanes : Prop :=
  ∀ e ∈ vectorTable, ∀ (d a b : R) (t : VType) (m : VCtl) (s : State), t.isInt = true →
    WritesLanes (e.1 d a b t m) s d t.width m
      (fun k => codeOf t.width (e.2 t (lane (s.me.rdV a) t.width k) (lane (s.me.rdV b) t.width k)))

/-- R164, R165, R174: The floating lane forms decode each lane, compute the exact value and round it once in the mode they name;
minimum, maximum and the four approximations round to nearest; the exact values of VEXP2 and VLOG2 are taken to 192 binary places (log
entry 10, DEDUCED). -/
def Obligations.VectorFloatLanes : Prop :=
  ∀ (d a b c : R) (t : FType) (rm : Rnd) (m : VCtl) (s : State),
    let f := floatOf t
    let x := fun k => f.decode (lane (s.me.rdV a) f.width k)
    let y := fun k => f.decode (lane (s.me.rdV b) f.width k)
    let z := fun k => f.decode (lane (s.me.rdV c) f.width k)
    (∀ e ∈ floatTable, WritesLanes (e.1 d a b t rm m) s d f.width m (fun k => f.round rm (e.2 rm (x k) (y k)))) ∧
    (∀ e ∈ fusedTable, WritesLanes (e.1 d a b c t rm m) s d f.width m (fun k => f.round rm (e.2 rm (x k) (y k) (z k)))) ∧
    WritesLanes (.vfsqrt d a t rm m) s d f.width m (fun k => f.round rm (x k).sqrt) ∧
    WritesLanes (.vfmin d a b t rm m) s d f.width m (fun k => f.round .rn (FVal.min (x k) (y k))) ∧
    WritesLanes (.vfmax d a b t rm m) s d f.width m (fun k => f.round .rn (FVal.max (x k) (y k))) ∧
    WritesLanes (.vexp2 d a t m) s d f.width m (fun k => f.round .rn (x k).exp2) ∧
    WritesLanes (.vlog2 d a t m) s d f.width m (fun k => f.round .rn (x k).log2) ∧
    WritesLanes (.vrcp d a t m) s d f.width m (fun k => f.round .rn (FVal.div (.fin false 1 0) (x k))) ∧
    WritesLanes (.vrsq d a t m) s d f.width m (fun k => f.round .rn (x k).rsq)

/-- R144 to R150: In each of the six formats every code but a NaN stands for a value that rounding, in any mode, gives back as that
code. -/
def Obligations.RoundingIsExactOnCodes : Prop :=
  ∀ f ∈ [fmtFP32, fmtFP16, fmtBF16, fmtE4M3, fmtE5M2, fmtE2M1], ∀ (rm : Rnd) (c : Nat), c < 2 ^ f.width → f.decode c ≠ .nan →
    f.round rm (f.decode c) = c

/-- R166, R167, R168: Compares give a lane mask that is 0 in inactive lanes; conversions place their results by part; reductions
combine the active lanes in ascending order. -/
def Obligations.VectorComparesAndReductions : Prop :=
  ∀ (d a b : R) (m : VCtl) (mask : Word) (s : State), s.me.maskOf m.sel = .ok mask →
    (s.Takes d → ∀ e ∈ condTable, ∀ t : VType, t.isInt = true → ∃ v : Word, exec (.vcmp d a b e.1 t m) s = .next (s.gives d v) ∧
      ∀ k, k < 64 → (v.getLsbD k = true ↔ k < 512 / t.width ∧ mask.getLsbD k = true ∧
        e.2 (laneVal t (lane (s.me.rdV a) t.width k)) (laneVal t (lane (s.me.rdV b) t.width k)))) ∧
    (s.Takes d → ∀ (c : FCond) (t : FType), ∃ v : Word, exec (.vfcmp d a b c t m) s = .next (s.gives d v) ∧
      ∀ k, k < 64 → (v.getLsbD k = true ↔ k < 512 / (floatOf t).width ∧ mask.getLsbD k = true ∧
        fcondHolds c ((floatOf t).decode (lane (s.me.rdV a) (floatOf t).width k))
          ((floatOf t).decode (lane (s.me.rdV b) (floatOf t).width k)) = true)) ∧
    (∀ (dst src : VType) (part : BitVec 5) (rm : Rnd), vcvtOk dst src part = true →
      ∃ v : VReg, exec (.vcvt d a dst src part rm m) s = .next ((s.setMe (s.me.wrV d v)).fell) ∧
        let n := 512 / max dst.width src.width
        let conv := fun k => convertTo dst rm (typeFVal src (lane (s.me.rdV a) src.width k)) % 2 ^ dst.width
        (src.width ≤ dst.width → ∀ k, k < 512 / dst.width →
          lane v dst.width k = if mask.getLsbD k then conv (part.toNat * n + k) else lane (s.me.rdV d) dst.width k) ∧
        (dst.width < src.width → ∀ k, k < 512 / dst.width →
          lane v dst.width k = if part.toNat * n ≤ k ∧ k < part.toNat * n + n ∧ mask.getLsbD (k - part.toNat * n) = true
            then conv (k - part.toNat * n) else lane (s.me.rdV d) dst.width k)) ∧
    (s.Takes d → ∀ (t : VType) (rm : Rnd), t.isInt = true →
      exec (.vrsum d a t rm m) s = .next (s.gives d (.ofInt 64 (activeVals (s.me.rdV a) t mask).sum)) ∧
      (∃ v : Int, exec (.vrmax d a t m) s = .next (s.gives d (.ofInt 64 v)) ∧ (∀ x ∈ activeVals (s.me.rdV a) t mask, x ≤ v) ∧
        (v ∈ activeVals (s.me.rdV a) t mask ∨ activeVals (s.me.rdV a) t mask = [] ∧ v = (laneRange t).1)) ∧
      (∃ v : Int, exec (.vrmin d a t m) s = .next (s.gives d (.ofInt 64 v)) ∧ (∀ x ∈ activeVals (s.me.rdV a) t mask, v ≤ x) ∧
        (v ∈ activeVals (s.me.rdV a) t mask ∨ activeVals (s.me.rdV a) t mask = [] ∧ v = (laneRange t).2))) ∧
    (s.Takes d → ∀ (t : VType) (f : FloatFmt) (rm : Rnd), typeFloat t = some f →
      let l := activeLanes (s.me.rdV a) t mask
      exec (.vrsum d a t rm m) s = .next (s.gives d (.ofNat 64 (reduceF f l (.zero false)
        (fun acc x => f.decode (f.round rm (FVal.add rm acc x)))))) ∧
      exec (.vrmax d a t m) s = .next (s.gives d (.ofNat 64 (reduceF f l (.inf true) FVal.max))) ∧
      exec (.vrmin d a t m) s = .next (s.gives d (.ofNat 64 (reduceF f l (.inf false) FVal.min))))

/-- R169, R170, R171: Permutes, moves, lane extraction and insertion, and the select by a lane mask. -/
def Obligations.VectorPermutesAndMoves : Prop :=
  ∀ (d a b c : R) (t : VType) (h reuse : Bool) (m : VCtl) (s : State), t.isMove = true →
    let w := t.width
    let n := 512 / w
    let x := lane (s.me.rdV a) w
    let y := lane (s.me.rdV b) w
    WritesLanes (.vshuf d a b t m) s d w m (fun k => x (y k % n)) ∧
    (∀ g, s.Reads b g → WritesLanes (.vslide d a b t m) s d w m
      (fun k => if 0 ≤ k + g.toInt ∧ k + g.toInt < n then x (k + g.toInt).toNat else 0)) ∧
    (∀ g, s.Reads a g → WritesLanes (.vbcast d a t m) s d w m (fun _ => g.toNat)) ∧
    WritesLanes (.vzip d a b h t m) s d w m (fun k => (if k % 2 = 0 then x else y) (k / 2 + if h then n / 2 else 0)) ∧
    WritesLanes (.vunzip d a b h t m) s d w m
      (fun k => if 2 * k + h.toNat < n then x (2 * k + h.toNat) else y (2 * k + h.toNat - n)) ∧
    WritesLanes (.vmov d a t m) s d w m x ∧
    (∀ g, s.Reads c g → WritesLanes (.vsel d a b c t m) s d w m (fun k => if g.getLsbD k then x k else y k)) ∧
    (∀ k : BitVec 3, s.Takes d → exec (.vmovg d a k reuse) s = .next (s.gives d (.ofNat 64 (lane (s.me.rdV a) 64 k.toNat)))) ∧
    (∀ g, s.Reads b g → s.Takes d → exec (.vext d a b t reuse) s =
      .next (s.gives d (if t.isInt then .ofInt 64 (laneVal t (x (g.toNat % n))) else .ofNat 64 (x (g.toNat % n))))) ∧
    (∀ g i, s.Reads a g → s.Reads b i →
      ∃ v : VReg, exec (.vins d a b t reuse) s = .next ((s.setMe (s.me.wrV d v)).fell) ∧
        ∀ k, k < n → lane v w k = if k = i.toNat % n then g.toNat % 2 ^ w else lane (s.me.rdV d) w k)

/-- R172, R173, R175: Modular lanes and butterflies on residues below QMOD, and the dot products; the sign of a zero sum of VDOT is that of
log entry 11 (DEDUCED). -/
def Obligations.VectorModularAndDot : Prop :=
  ∀ (d a b c : R) (m : VCtl) (rm : Rnd) (s : State),
    let q := s.me.sys.qmod.toNat
    let x := lane (s.me.rdV a) 64
    let y := lane (s.me.rdV b) 64
    let z := lane (s.me.rdV c) 64
    ((∀ k, k < 8 → x k < q ∧ y k < q ∧ z k < q) →
      WritesLanes (.vmulq d a b m) s d 64 m (fun k => x k * y k % q) ∧
      WritesLanes (.vaddq d a b m) s d 64 m (fun k => (x k + y k) % q) ∧
      WritesLanes (.vsubq d a b m) s d 64 m (fun k => (x k + q - y k) % q) ∧
      (d.toNat % 2 = 0 → ∀ mask, s.me.maskOf m.sel = .ok mask → ∀ i : Instr, i = .vbfly d a b c m ∨ i = .vibfly d a b c m →
        ∃ u v : VReg, exec i s = .next ((s.setMe ((s.me.wrV d u).wrV (d + 1) v)).fell) ∧
          ∀ k, k < 8 →
            (mask.getLsbD k = false → lane u 64 k = lane (s.me.rdV d) 64 k ∧ lane v 64 k = lane (s.me.rdV (d + 1)) 64 k) ∧
            (mask.getLsbD k = true →
              (i = .vbfly d a b c m → lane u 64 k = (x k + z k * y k) % q ∧ lane v 64 k = (x k + q - z k * y k % q) % q) ∧
              (i = .vibfly d a b c m → lane u 64 k = (x k + y k) % q ∧ lane v 64 k = z k * ((x k + q - y k) % q) % q)))) ∧
    (let e := fun r k => lane (s.me.rdV r) 8 k
     let acc := lane (s.me.rdV d) 32
     WritesLanes (.vdot d a b .n8 rm m) s d 32 m (fun k => acc k + (e a (4 * k) * e b (4 * k) + e a (4 * k + 1) * e b (4 * k + 1) +
       e a (4 * k + 2) * e b (4 * k + 2) + e a (4 * k + 3) * e b (4 * k + 3))) ∧
     WritesLanes (.vdot d a b .i8 rm m) s d 32 m (fun k => codeOf 32 (acc k + (asI 8 (e a (4 * k)) * asI 8 (e b (4 * k)) +
       asI 8 (e a (4 * k + 1)) * asI 8 (e b (4 * k + 1)) + asI 8 (e a (4 * k + 2)) * asI 8 (e b (4 * k + 2)) +
       asI 8 (e a (4 * k + 3)) * asI 8 (e b (4 * k + 3)))))) ∧
    (∀ t f, t = .fp16 ∧ f = fmtFP16 ∨ t = .bf16 ∧ f = fmtBF16 →
      let p := fun k => FVal.mul (f.decode (lane (s.me.rdV a) 16 k)) (f.decode (lane (s.me.rdV b) 16 k))
      WritesLanes (.vdot d a b t rm m) s d 32 m (fun k => fmtFP32.round rm
        (FVal.add rm (FVal.add rm (fmtFP32.decode (lane (s.me.rdV d) 32 k)) (p (2 * k))) (p (2 * k + 1)))))

/-- R196, R197: A vector load replaces the active lanes of vd with what lies in the checked line; a vector store writes the bytes of the
active lanes and no others; with no active lane neither touches memory. VLDA and VSTA then advance their pointer. R198, R199, R326, R327:
Gathers check every active lane before they read any; scatters and the vector atomics act lane by lane in ascending order from VRESUME on,
and leave VRESUME 0 when they complete. -/
def Obligations.VectorMemoryResults : Prop :=
  (∀ (d a : R) (p : P) (off : BitVec 16) (post : Bool) (t : VType) (m : VCtl) (o : LdOrd) (so : StOrd) (b mask : Word) (pl : Place)
    (x : Nat) (s s0 s1 s2 : State), s.Reads a b → s.me.maskOf m.sel = .ok mask →
    let w := t.width
    let va : Word := b + .ofInt 64 off.toInt
    let pa := ptrAddr (s.me.rdP p) (.ofInt 64 off.toInt)
    let bad := ptrBad (s.me.rdP p)
    let filled := fun (s : State) (va : Word) => (s.modMe (fun th =>
      th.wrV d (blend (th.rdV d) w mask (lane (.ofNat 512 x) w)))).dataMatch va false (laneParts w mask)
    let stored := fun (t : State) (va : Word) (reg : Nat) => (t.writeAt pl (laneBytes (t.me.rdV d) w mask) (va, reg)).dataMatch va true (laneParts w mask)
    (s.checkLine false false w mask va = .ok (some pl, s1) → s1.read pl 64 (laneParts w mask) = .ok (x, s2) →
      exec (.vld d a off t m o) s = .next (filled s2 va).fell) ∧
    (s.checkLine false bad w mask pa = .ok (some pl, s1) → s1.read pl 64 (laneParts w mask) = .ok (x, s2) →
      exec (.vlda d p off post t m o) s = .next ((filled s2 pa).modMe (fun th => th.bump p post)).fell) ∧
    (s.stOrder so = .ok s0 → s0.me.maskOf m.sel = .ok mask → s0.checkLine true false w mask va = .ok (some pl, s1) →
      s1.unmarked pl va a.toNat (laneParts w mask) = .ok () → exec (.vst d a off t m so) s = .next (stored s1 va a.toNat).fell) ∧
    (s.stOrder so = .ok s0 → s0.me.maskOf m.sel = .ok mask → s0.checkLine true bad w mask pa = .ok (some pl, s1) →
      s1.unmarked pl pa p.toNat (laneParts w mask) = .ok () →
      exec (.vsta d p off post t m so) s = .next ((stored s1 pa p.toNat).modMe (fun th => th.bump p post)).fell) ∧
    ((∀ k, k < 512 / w → mask.getLsbD k = false) → va.toNat % 64 = 0 →
      exec (.vld d a off t m o) s = .next s.fell ∧ exec (.vst d a off t m .rlx) s = .next s.fell)) ∧
  (∀ (d a b : R) (shift : BitVec 2) (off : BitVec 16) (m : VCtl) (x mask : Word) (s : State), s.Reads a x → s.me.maskOf m.sel = .ok mask →
    let addr := fun (k : Nat) => x + .ofInt 64 off.toInt + (BitVec.ofInt 64 (asI 32 (lane (s.me.rdV b) 32 k)) <<< shift.toNat : Word)
    let ok := fun (t : VType) (s : State) (k : Nat) (va : Word) (prop : Word → Nat → Option Nat) =>
      (do let (pl, s) ← s.check { write := true, size := t.width / 8, align := t.width / 8, lane := some k, prop := prop } va
          s.unmarked pl va a.toNat [(0, t.width / 8)]
          .ok (pl, s) : Ex (Place × State))
    (∀ (t : GType) (o : LdOrd) (pls : List (Nat × Place)) (vals : List (Nat × Nat)) (s1 s2 : State),
      let w := t.toV.width
      s.checkLanes w addr (maskLanes w mask) = .ok (pls, s1) → s1.readLanes w addr pls = .ok (vals, s2) →
      exec (.vgath d a b shift off t m o) s =
        .next (s2.modMe (fun th => th.wrV d (blend (th.rdV d) w mask (fun k => getKey k 0 vals)))).fell) ∧
    (∀ (t : GType) (o : StOrd) (s0 s1 : State),
      let w := t.toV.width
      s.stOrder o = .ok s0 → s0.me = s.me →
      s0.perLane (fun s k => do
        let (pl, s) ← ok t.toV s k (addr k) (fun _ _ => none)
        .ok ((s.write pl (w / 8) (lane (s0.me.rdV d) w k) (addr k, a.toNat)).dataMatch (addr k) true [(0, w / 8)])) (s0.me.lanesFrom w mask) = (s1, none) →
      exec (.vscat d a b shift off t m o) s = .next s1.fell ∧ s1.me.sys.vresume = 0) ∧
    (∀ (t : VAType) (o : Order) (sc : XScope) (op : RedOp) (i : Instr) (s0 s1 : State),
      let w := t.toV.width
      i = .vaadd d a b shift off t m o sc ∧ op = (if t = .fp32 then .fadd else .add) ∨ i = .vamin d a b shift off t m o sc ∧ op = .min ∨
        i = .vamax d a b shift off t m o sc ∧ op = .max →
      s.atOrder o sc = .ok s0 → s0.me = s.me →
      s0.perLane (fun s k => do
        let (pl, s) ← ok t.toV s k (addr k) (fun _ _ => none)
        let s ← atomicLane op t.toV s pl (addr k) k (lane (s0.me.rdV d) w k)
        .ok (s.dataMatch (addr k) true [(0, w / 8)])) (s0.me.lanesFrom w mask) = (s1, none) →
      exec i s = .next s1.fell ∧ s1.me.sys.vresume = 0) ∧
    (∀ (t : VAType) (s1 : State),
      let w := t.toV.width
      let v := s.me.rdV d
      s.perLane (fun s k => do
        let (pl, s) ← ok t.toV s k (addr k) notHost
        let s ← s.reduce pl (classOf (addr k) = .window) (if t = .fp32 then .fadd else .add) t.toV (lane v w k) (addr k, a.toNat)
        .ok (s.dataMatch (addr k) true [(0, w / 8)])) (s.me.lanesFrom w mask) = (s1, none) →
      exec (.vradd d a b shift off t m) s = .next s1.fell ∧ s1.me.sys.vresume = 0) ∧
    (∀ (s : State) (f : State → Nat → Ex State) (k : Nat) (r : List Nat) (e : Flt),
      (f s k = .error (.fault e) → s.perLane f (k :: r) = (s.setVresume k, some (.fault e))) ∧
      (∀ t, f s k = .error (.faultIn t e) → s.perLane f (k :: r) = (t.setVresume k, some (.fault e))) ∧
      (∀ w, f s k = .error (.hold w) → s.perLane f (k :: r) = (s.setVresume k, some (.hold w)))))

/-- R190, R191, R200: VLDW decodes the elements of a window of the own pool, with their blocks' scale entries, and rounds each to the
lane type. -/
def Obligations.WindowDecodeResults : Prop :=
  ∀ (d : R) (p : P) (off : BitVec 16) (post : Bool) (t : FType) (m : VCtl) (wt : VType) (mask : Word) (s : State),
    s.me.maskOf m.sel = .ok mask →
    let ptr := s.me.rdP p
    let o := (ptr.toNat % 2 ^ 22 + (BitVec.ofInt 64 off.toInt).toNat) % 2 ^ 22
    let w := (floatOf t).width
    let n := 512 / w * wt.width / 8
    ptr.getLsbD 39 = false → windowType (ptr.toNat / 2 ^ 32 % 16) = some wt → o % n = 0 → ptrBad ptr = false → s.poolBarred = false → s.PoolSound →
    s.core.decodeBad wt o n = none →
    ∃ v : VReg, exec (.vldw d p off post t m) s = .next ((s.setMe ((s.me.wrV d v).bump p post)).fell) ∧
      ∀ k, k < 512 / w → lane v w k = if mask.getLsbD k then (floatOf t).round .rn (s.core.element wt o k) % 2 ^ w
        else lane (s.me.rdV d) w k

/-! ### Engines and groups (spec/11_fed_engines.md, spec/12_fed_groups.md) -/

/-- R225, R226, R232 to R237: The products are issued once their checks pass: the command enters the matrix queue behind the others with
its operands as they were, the pointers advance, and the thread goes on. R239, R240, R245: AZERO, ASTORE, ALOAD and SGEMV are issued once
their checks pass. -/
def Obligations.MatrixEngineIssue : Prop :=
  (∀ (t : BitVec 4) (pa pb : P) (postA postB clear : Bool) (e : EngF) (s : State),
    s.engReady .matrix = .ok () → s.needTile t = .ok () →
    let a := s.me.rdP pa
    let b := s.me.rdP pb
    let issue := fun (op : CmdOp) => Host.Outcome.next (ρ := Refusal) (φ := Fault) (((s.bump2 pa pb postA postB).submit .matrix op e [] []).fell)
    (s.panels a b 1 true = .ok () →
      exec (.mma t pa pb postA postB e) s = issue (.mma t.toNat ⟨ptrWindow a, ptrOffset a⟩ ⟨ptrWindow b, ptrOffset b⟩ false) ∧
      exec (.mmaz t pa pb postA postB e) s = issue (.mma t.toNat ⟨ptrWindow a, ptrOffset a⟩ ⟨ptrWindow b, ptrOffset b⟩ true)) ∧
    (s.panels a b 2 false = .ok () →
      exec (.mmas t pa pb postA postB e) s = issue (.mmas t.toNat ⟨ptrWindow a, ptrOffset a⟩ ⟨ptrWindow b, ptrOffset b⟩)) ∧
    (s.poolSpan a (ptrOffset a) 2048 128 (fun w => w = 0) [1] false = .ok () →
      s.poolSpan b (ptrOffset b) 2048 128 (fun w => w = 0) [1] false = .ok () →
      exec (.mmaq t pa pb postA postB clear e) s = issue (.mmaq t.toNat (ptrOffset a) (ptrOffset b) clear s.me.sys.qmod))) ∧
  (∀ (t : BitVec 4) (p : P) (k : Kind) (rm : Rnd) (e : EngF) (s : State),
    (s.engReady .matrix = .ok () → s.needTile t = .ok () →
      exec (.azero t k e) s = .next (s.submit .matrix (.azero t.toNat) e [] []).fell) ∧
    (s.engReady .matrix = .ok () →
      let o : PoolOp := ⟨ptrWindow (s.me.rdP p), ptrOffset (s.me.rdP p)⟩
      (s.tileMove t (s.me.rdP p) k true = .ok () →
        exec (.astore t p k rm e) s = .next (s.submit .matrix (.astore t.toNat o k rm) e [] []).fell) ∧
      (s.tileMove t (s.me.rdP p) k false = .ok () →
        exec (.aload t p k e) s = .next (s.submit .matrix (.aload t.toNat o k) e [] []).fell)) ∧
    (∀ (a c : R) (x : SgemvX) (n y : Word) (mx : Matrix) (pages : List (Nat × Nat)) (s1 : State),
      s.engReady .grotto = .ok () → s.Reads a n → s.matrix n = some mx →
      x.row0.toNat + x.nrows.toNat + 1 ≤ mx.rows → x.col0.toNat + x.ncols.toNat + 1 ≤ mx.cols / 32 →
      let o := ptrOffset (s.me.rdP p)
      let bytes := (x.nvec.toNat + 1) * yPitch x
      s.sgemvSpan (s.me.rdP p) ((x.nvec.toNat + 1) * xPitch x) false = .ok () →
      (x.ydst = true → s.Reads c y → y.toNat % 128 = 0 →
        s.globalSpan { write := true, size := 1, align := 1 } y bytes = .ok (pages, s1) →
        exec (.sgemv a p c x e) s =
          .next (s1.submit .grotto (.sgemv mx.stack mx.slot o false y.toNat x) e pages (spanLines pages y.toNat bytes)).fell) ∧
      (x.ydst = false →
        let q := s.me.rdP (c.extractLsb' 0 3)
        s.sgemvSpan q bytes true = .ok () →
        exec (.sgemv a p c x e) s =
          .next (s.submit .grotto (.sgemv mx.stack mx.slot o true (spanAddr q (ptrOffset q)).toNat x) e [] []).fell)))

/-- R246 to R249: The copy engine's commands are issued once their rows and elements have passed the checks made at issue. -/
def Obligations.CopyIssue : Prop :=
  ∀ (a b : R) (p pd : P) (e : EngF) (far : Word) (l : Layout) (x : List (Nat × Nat)) (s s1 s2 : State),
    s.engReady .copy = .ok () → s.Reads a far →
    let ptr := s1.me.rdP p
    let rows := l.rows far (ptrOffset ptr)
    (s.copyLayout b = .ok (l, s1) →
      (s1.copyRows (nearPool l ptr true) (farGlobal l false) rows = .ok (x, s2) →
        exec (.cpyin a b p e) s = .next (s2.submit .copy (.cpyin far l (spanAddr ptr (ptrOffset ptr)).toNat) e x []).fell) ∧
      (s1.copyRows (nearPool l ptr false) (farGlobal l true) rows = .ok (x, s2) →
        exec (.cpyout a b p e) s = .next (s2.submit .copy (.cpyout far l (ptrOffset ptr)) e x
          ((rows.map (fun r => spanLines x r.1.toNat l.rowBytes)).flatten)).fell) ∧
      (s1.copyRows (nearPool l ptr false) (farPool l) rows = .ok (x, s2) →
        exec (.cpypp a b p e) s = .next (s2.submit .copy (.cpypp (s2.poolCore far) far.toNat l (ptrOffset ptr)) e [] []).fell) ∧
      (l.esz = 1 → s1.copyRows (nearScale l ptr) (farGlobal l false) rows = .ok (x, s2) →
        exec (.cpysc a b p e) s = .next (s2.submit .copy (.cpysc far l ⟨ptrWindow ptr, ptrOffset ptr⟩) e x []).fell)) ∧
    (∀ n : BitVec 8, far.toNat % 256 = 0 → s.globalSpan { size := 1, align := 1 } far (256 * n.toNat) = .ok (x, s1) →
      exec (.cpymq a n e) s = .next (s1.submit .copy (.cpymq far n.toNat) e x []).fell) ∧
    (∀ w : IndexX,
      let i := s.me.rdP p
      let d := s.me.rdP pd
      (s.indexSpans i d w true = .ok () →
        exec (.gather a p pd w e) s =
          .next (s.submit .copy (.gather far (ptrOffset i) (spanAddr d (ptrOffset d)).toNat w) e [] []).fell) ∧
      (s.indexSpans i d w false = .ok () →
        exec (.scatter a p pd w e) s = .next (s.submit .copy (.scatter far (ptrOffset i) (ptrOffset d) w) e [] []).fell)) ∧
    (∀ (op : CredOp) (t : CredType) (n : Word) (pl : Place), s.Reads b n → n.toNat ≤ 65536 →
      let w := t.toV.width / 8
      let q := s.me.rdP p
      s.poolSpan q (ptrOffset q) (n.toNat * w) w anyWindow [1, 3] false = .ok () →
      s.check { write := true, size := n.toNat * w, align := w, deny := poolOnly, regions := some [1, 3] } far = .ok (pl, s1) →
      exec (.cred op t a b p e) s = .next (s1.submit .copy (.cred (s1.poolCore far) far.toNat n.toNat (ptrOffset q) t op) e [] []).fell)

/-- R225 to R229: What issuing a command leaves: it stands last in its core's queue with the thread's launch, owner, domain, level and
depth, its start is due, and no register, no pool byte and no byte of memory has changed. -/
def Obligations.CommandIssueFrame : Prop :=
  ∀ (e : EngineId) (op : CmdOp) (f : EngF) (xlat : List (Nat × Nat)) (owned : List Nat) (s : State),
    let t := (s.submit e op f xlat owned).fell
    (∃ x : Cmd, t.core.cmds = s.core.cmds ++ [x] ∧ x.eng = e ∧ x.op = op ∧ x.f = f ∧ x.cont = s.cont ∧ x.launch = s.me.launch ∧
      x.owner = s.core.owner ∧ x.dom = s.me.domid ∧ x.level = s.me.level ∧ x.depth = s.me.frames.length ∧ x.running = false ∧
      x.done = false ∧ x.xlat = xlat ∧ x.owned = owned ∧ x.fault = none ∧ x.stall = none ∧ x.sent = []) ∧
    t.agenda = s.agenda ++ [.commandStart s.act.core e] ∧ t.me = { s.me with pc := s.act.next, wait := none } ∧
    (∀ c i, ¬(c = s.act.core ∧ i = s.act.thr) → t.getThread c i = s.getThread c i) ∧ (∀ c o, t.poolByte c o = s.poolByte c o) ∧
    t.mem = s.mem

/-- R226, R227, R246 to R249, R342: COMMAND_START starts the oldest command of the engine that has not started, when it may: the core is
not halted, the engine has a place, and it waits on no semaphore or its threshold is met, which it then takes; then one of the
started commands makes its effects. That they come at once is log entry 52. Then, where every resource grants the command's owner a slot
(R54) and what the thread of an HCPY.OUT has posted before it has been performed: what the commands of the copy engine and HCPY.OUT
write, element by element, when nothing stops them, and that no other byte of memory or of a pool changes. -/
def Obligations.CommandStarts : Prop :=
  (∀ (c : Nat) (e : EngineId) (s : State),
    exec (.commandStart c e) s = .next ((s.startNext c e).performOne c e) ∧
    (((s.getCore c).engine e).find? (fun x => !x.running) = none → s.startNext c e = s) ∧
    (∀ x : Cmd, ((s.getCore c).engine e).find? (fun x => !x.running) = some x →
      ((s.getCore c).dbg.halted = true ∨ (s.getCore c).crowded e = true → s.startNext c e = s) ∧
      ((s.getCore c).dbg.halted = false → (s.getCore c).crowded e = false →
        (x.f.thr = 0 → s.startNext c e = s.startCmd c x.id) ∧
        (x.f.thr ≠ 0 → (s.getCore c).semq = [] → x.f.thr.toNat ≤ (s.getCore c).sem x.f.kwait →
          s.startNext c e = (s.modCore c (fun k => k.setSem x.f.kwait (k.sem x.f.kwait - x.f.thr.toNat))).startCmd c x.id) ∧
        (x.f.thr ≠ 0 → (s.getCore c).semq = [] → (s.getCore c).sem x.f.kwait < x.f.thr.toNat →
          s.startNext c e = s.modCore c (fun k => { k with semq := [⟨x.f.kwait, x.f.thr.setWidth 16, .command x.id⟩] })))) ∧
    (s.startable c e = [] → s.performOne c e = s) ∧ (∀ x, s.startable c e = [x] → s.performOne c e = s.perform c x) ∧
    (∀ x y l, s.startable c e = x :: y :: l → ∃ z ∈ x :: y :: l, s.performOne c e = s.spent.perform c z)) ∧
  (∀ (c : Nat) (x : Cmd) (s t : State), x.fault = none →
    (s.effects c x = (t, none) → (s.perform c x).mem = t.mem ∧ (∀ d o, (s.perform c x).poolByte d o = t.poolByte d o) ∧
      (∀ y ∈ ((s.perform c x).getCore c).cmds, y.id = x.id → y.done = true ∧ y.fault = none) ∧
      (x.eng ≠ .group → .commandComplete c x.id ∈ (s.perform c x).agenda)) ∧
    (∀ cause addr elem, s.effects c x = (t, some (.fault cause addr elem)) →
      (s.perform c x).mem = t.mem ∧ (∀ d o, (s.perform c x).poolByte d o = t.poolByte d o) ∧
      (∀ y ∈ ((s.perform c x).getCore c).cmds, y.id = x.id → y.done = true ∧ y.fault = some ⟨cause, addr, .ofNat 64 elem⟩) ∧
      (x.eng ≠ .group → .commandComplete c x.id ∈ (s.perform c x).agenda))) ∧
  (∀ (c : Nat) (x : Cmd) (s : State), s.EngineClear → (s.getCore c).PoolClear → s.Served x.owner →
    let k := s.getCore c
    let r := s.effects c x
    let cell := fun (va : Word) => cellOf (paUnder x.xlat va.toNat)
    (∀ far l o, x.op = .cpyin far l o →
      let n := 2 ^ l.esz
      let es := l.elems far o n
      Apart n (es.map (fun e => poolOff e.2)) → r.2 = none ∧ r.1.mem = s.mem ∧
        (∀ e ∈ es, ∀ i, i < n → r.1.poolByte c (poolOff e.2 + i) = s.byteAt (cell e.1 + i)) ∧
        (∀ e ∈ es, ∀ w ∈ spanWords (poolOff e.2) n, regionOf k w = 1 → w ∈ (r.1.getCore c).full) ∧
        (∀ d a, (d = c → ∀ e ∈ es, a < poolOff e.2 ∨ poolOff e.2 + n ≤ a) → r.1.poolByte d a = s.poolByte d a)) ∧
    (∀ far l o, x.op = .cpyout far l o →
      let n := 2 ^ l.esz
      let es := l.elems far o n
      Apart n (es.map (fun e => cell e.1)) → (∀ e ∈ es, ∀ i, i < n → paSpace (cell e.1 + i) ≠ 3) → r.2 = none ∧
        (∀ e ∈ es, ∀ i, i < n → r.1.byteAt (cell e.1 + i) = s.poolByte c (e.2 + i)) ∧
        (∀ a, (∀ e ∈ es, a < cell e.1 ∨ cell e.1 + n ≤ a) → r.1.byteAt a = s.byteAt a) ∧ (∀ d a, r.1.poolByte d a = s.poolByte d a)) ∧
    (∀ far y l o, x.op = .cpypp far y l o →
      let n := 2 ^ l.esz
      let es := l.elems (.ofNat 64 y) o n
      let core := fun (e : Word × Nat) => farCore c e.1
      let at_ := fun (e : Word × Nat) => poolOff e.1.toNat
      s.reachAll x c (((l.rows (.ofNat 64 y) o).map (fun r => farCore c r.1)).eraseDups) = (s, none) →
      (∀ e ∈ es, s.lands x (core e) = true ∧ s.copyBad x c (core e) = none ∧ (s.getCore (core e)).PoolClear) →
      es.Pairwise (fun e f => core e ≠ core f ∨ at_ e + n ≤ at_ f ∨ at_ f + n ≤ at_ e) →
      (∀ e ∈ es, ∀ f ∈ es, core e = c → at_ e + n ≤ f.2 ∨ f.2 + n ≤ at_ e) → r.2 = none ∧ r.1.mem = s.mem ∧
        (∀ e ∈ es, ∀ i, i < n → r.1.poolByte (core e) (at_ e + i) = s.poolByte c (e.2 + i)) ∧
        (∀ d a, (∀ e ∈ es, core e = d → a < at_ e ∨ at_ e + n ≤ a) → r.1.poolByte d a = s.poolByte d a)) ∧
    (∀ far l o, x.op = .cpysc far l o →
      let ty := (windowType o.win).getD .e4m3
      let es := l.elems far o.off (blockBytes ty)
      Apart 2 (es.map (fun e => k.entryAt ty e.2)) → r.2 = none ∧ r.1.mem = s.mem ∧
        (∀ e ∈ es, ∀ i, i < 2 → r.1.poolByte c (k.entryAt ty e.2 + i) = s.byteAt (cell e.1 + i)) ∧
        (∀ d a, (d = c → ∀ e ∈ es, a < k.entryAt ty e.2 ∨ k.entryAt ty e.2 + 2 ≤ a) → r.1.poolByte d a = s.poolByte d a)) ∧
    (∀ far n, x.op = .cpymq far n →
      let m := min n (64 - k.mq.length)
      let va := fun i => far + .ofNat 64 (256 * i)
      r.2 = (if m < n then some .stall else none) ∧ r.1.mem = s.mem ∧ (∀ d a, r.1.poolByte d a = s.poolByte d a) ∧
      (r.1.getCore c).mq = k.mq ++ (List.range m).map (fun i =>
        .ofNat 2048 (s.bytesAt (cell (va i)) 128 + 2 ^ 1024 * s.bytesAt (cellOf (paUnder x.xlat ((va i).toNat + 128))) 128))) ∧
    (∀ base idx dense w (pa : Nat → Nat), x.op = .gather base idx dense w →
      let n := 2 ^ w.esz.toNat
      let dest := poolOff dense
      (∀ i, i < w.n.toNat → ∀ u : State, u = { s with cores := u.cores, fresh := u.fresh } →
        u.elemPa x false n (k.indexed1 base idx w i) i = .ok (pa i, u)) →
      (dest + n * w.n.toNat ≤ idx ∨ idx + (if w.iw then 8 else 4) * w.n.toNat ≤ dest) → r.2 = none ∧ r.1.mem = s.mem ∧
        (∀ i j, i < w.n.toNat → j < n → r.1.poolByte c (dest + i * n + j) = s.byteAt (cellOf (pa i) + j)) ∧
        (∀ d a, (d = c → a < dest ∨ dest + n * w.n.toNat ≤ a) → r.1.poolByte d a = s.poolByte d a)) ∧
    (∀ core va n o ty op, x.op = .cred core va n o ty op →
      let b := ty.toV.width / 8
      let at_ := fun i => poolOff va + i * b
      s.reachAll x c [core] = (s, none) → s.lands x core = true → s.copyBad x c core = none → (s.getCore core).PoolClear →
      (core = c → poolOff va + n * b ≤ o ∨ o + n * b ≤ poolOff va) → r.2 = none ∧ r.1.mem = s.mem ∧
        (∀ i, i < n → memRead (r.1.getCore core).pool (at_ i) b =
          credCode op ty.toV (memRead (s.getCore core).pool (at_ i) b) (memRead k.pool (o + i * b) b) % 2 ^ (8 * b)) ∧
        (∀ d a, (d = core → a < poolOff va ∨ poolOff va + n * b ≤ a) → r.1.poolByte d a = s.poolByte d a)) ∧
    (∀ die entry o g, x.op = .hcpyOut die entry o g → (∀ m ∈ s.msgs, ¬(m.src = c ∧ m.cont = x.cont ∧ m.id < x.id)) →
      let dest := fun i => cellOf (paUnder x.xlat (g.addr i))
      let is := List.range g.count
      Apart g.size (is.map dest) → (∀ i ∈ is, ∀ j, j < g.size → paSpace (dest i + j) ≠ 3) → r.2 = none ∧
        (∀ i ∈ is, ∀ j, j < g.size → r.1.byteAt (dest i + j) = s.poolByte c (o + i * g.size + j)) ∧
        (∀ a, (∀ i ∈ is, a < dest i ∨ dest i + g.size ≤ a) → r.1.byteAt a = s.byteAt a) ∧ (∀ d a, r.1.poolByte d a = s.poolByte d a))) ∧
  (∀ (c : Nat) (x : Cmd) (base : Word) (idx dense m : Nat) (w : IndexX) (s u : State), x.op = .scatter base idx dense w →
    u.Served x.owner →
    (w.n = 0 → s.effects c x = (s, none)) ∧
    (w.n.toNat = m + 1 → s.effects c { x with op := .scatter base idx dense { w with n := .ofNat 16 m } } = (u, none) →
      (u.getCore c).worn = [] →
      let n := 2 ^ w.esz.toNat
      let va := (u.getCore c).indexed1 base idx w m
      (∀ h, u.elemPa x true n va m = .error h → s.effects c x = (u, some h)) ∧
      (∀ pa v, u.elemPa x true n va m = .ok (pa, v) → v.EngineClear → v.Served x.owner → (v.getCore c).worn = [] → (∀ i, i < n → paSpace (cellOf pa + i) ≠ 3) →
        ∃ t, s.effects c x = (t, none) ∧ (∀ i, i < n → t.byteAt (cellOf pa + i) = v.poolByte c (dense + m * n + i)) ∧
          (∀ a, a < cellOf pa ∨ cellOf pa + n ≤ a → t.byteAt a = v.byteAt a) ∧ (∀ d a, t.poolByte d a = v.poolByte d a))))

/-- R231, R234 to R237, R239, R240, R245: What a started command of the matrix engine leaves in its tile or writes from it, what it takes
from the metadata queue, and what SGEMV writes, and that no other byte changes. Tiles hold 64 by 64 elements of four bytes, or
16 by 16 of eight for MMAQ. That ALOAD's conversion to FP32 rounds to nearest, and that a block in which no element is finite takes scale
127 where none is a NaN, is the model's choice (log entry 78, DESIGN CHOICE). -/
def Obligations.TileEffects : Prop :=
  ∀ (c : Nat) (x : Cmd) (s : State), (s.getCore c).worn = [] → Memory.wf (s.getCore c).pool = true →
    let k := s.getCore c
    let r := s.effects c x
    let q := (r.1.getCore c).pool
    let tile := fun t i j => t * 16384 + 4 * (64 * i + j)
    let kept := fun a n => (∀ o, o < a ∨ a + n ≤ o → memGet q o = memGet k.pool o) ∧ r.1.mem = s.mem
    let ofWin := fun w => (windowType w).getD .fp32
    (∀ t, x.op = .azero t → r.2 = none ∧ (∀ o, t * 16384 ≤ o → o < (t + 1) * 16384 → memGet q o = 0) ∧ kept (t * 16384) 16384) ∧
    (∀ t a b zero, x.op = .mma t a b zero →
      let pitch := if a.win = 6 then 64 else 128
      r.2 = none ∧ kept (t * 16384) 16384 ∧ ∀ i j, i < 64 → j < 64 → memRead q (tile t i j) 4 =
        productCode a.win (pitch * 8 / (ofWin a.win).width) (fun x => k.element (ofWin a.win) (a.off + i * pitch) x)
          (fun x => k.element (ofWin b.win) (b.off + j * pitch) x) (if zero then 0 else memRead k.pool (tile t i j) 4) % 2 ^ 32) ∧
    (∀ t a b, x.op = .mmas t a b →
      let pitch := if a.win = 6 then 64 else 128
      let n := 2 * (pitch * 8 / (ofWin a.win).width)
      let taken := min (n / 32 - x.popped.length) k.mq.length
      let popped := x.popped ++ k.mq.take taken
      (r.1.getCore c).mq = k.mq.drop taken ∧
      (popped.length < n / 32 → r.2 = some .stall ∧ kept 0 0) ∧
      (n / 32 ≤ popped.length → r.2 = none ∧ kept (t * 16384) 16384 ∧ ∀ i j, i < 64 → j < 64 → memRead q (tile t i j) 4 =
        productCode a.win n (k.sparse (ofWin a.win) (a.off + i * pitch) i popped)
          (fun x => k.element (ofWin b.win) (b.off + j * (2 * pitch)) x) (memRead k.pool (tile t i j) 4) % 2 ^ 32)) ∧
    (∀ t a b clear m, x.op = .mmaq t a b clear m →
      r.2 = none ∧ kept (t * 16384) 2048 ∧ ∀ i j, i < 16 → j < 16 → memRead q (t * 16384 + 8 * (16 * i + j)) 8 =
        (List.range 16).foldl (fun sum l => addMod m.toNat sum (mulMod m.toNat (memRead k.pool (a + 128 * i + 8 * l) 8)
          (memRead k.pool (b + 128 * j + 8 * l) 8))) (if clear then 0 else memRead k.pool (t * 16384 + 8 * (16 * i + j)) 8) % 2 ^ 64) ∧
    (∀ t o kd, x.op = .aload t o kd → r.2 = none ∧
      (windowType o.win = none →
        let n := if kd = .n64 then 2048 else 16384
        kept (t * 16384) n ∧ ∀ i, i < n → memGet q (t * 16384 + i) = memGet k.pool (o.off + i)) ∧
      (∀ ty, windowType o.win = some ty → kept (t * 16384) 16384 ∧ ∀ i j, i < 64 → j < 64 →
        memRead q (tile t i j) 4 = convertTo (if ty = .i8 then .i32 else .fp32) .rn (k.element ty o.off (64 * i + j)) % 2 ^ 32)) ∧
    (∀ t o kd rm, x.op = .astore t o kd rm → k.marks = [] →
      let size := match windowType o.win with
        | none => if kd = .n64 then 2048 else 16384
        | some ty => 512 * ty.width
      let val := fun i j => typeFVal (if kd = .i32 then .i32 else .fp32) (memRead k.pool (tile t i j) 4)
      (o.off + size ≤ t * 16384 ∨ (t + 1) * 16384 ≤ o.off) →
      (windowType o.win = none → r.2 = none ∧ kept o.off size ∧ ∀ i, i < size → memGet q (o.off + i) = memGet k.pool (t * 16384 + i)) ∧
      (∀ ty, windowType o.win = some ty → kd ≠ .n64 →
        let row := 8 * ty.width
        (isScaled ty = false → r.2 = none ∧ kept o.off size ∧ ∀ i, i < 64 →
          memRead q (o.off + i * row) row = packCodes ty.width ((List.range 64).map (fun j => convertTo ty rm (val i j))) % 2 ^ (8 * row)) ∧
        (isScaled ty = true →
          let entry := fun i h => k.entryAt ty (o.off + i * row + h * (row / 2))
          let block := fun i h => scaledBlock ty rm ((List.range 32).map (fun j => val i (32 * h + j)))
          Apart 2 (((List.range 64).map (fun i => [entry i 0, entry i 1])).flatten) →
          (∀ i h, i < 64 → h < 2 → (entry i h + 2 ≤ o.off ∨ o.off + size ≤ entry i h) ∧
            (entry i h + 2 ≤ t * 16384 ∨ (t + 1) * 16384 ≤ entry i h)) → r.2 = none ∧
          (∀ i, i < 64 → memRead q (o.off + i * row) row = packCodes ty.width ((block i 0).2 ++ (block i 1).2) % 2 ^ (8 * row)) ∧
          (∀ i h, i < 64 → h < 2 → memRead q (entry i h) 2 = (block i h).1 % 2 ^ 16) ∧
          (∀ a, (a < o.off ∨ o.off + size ≤ a) → (∀ i h, i < 64 → h < 2 → a < entry i h ∨ entry i h + 2 ≤ a) →
            memGet q a = memGet k.pool a)))) ∧
    (∀ st sl xo pool y w m, x.op = .sgemv st sl xo pool y w → s.matrices.find? (fun m => m.stack = st && m.slot = sl) = some m →
      s.EngineClear → s.Served x.owner →
      let nr := w.nrows.toNat + 1
      let nb := w.ncols.toNat + 1
      let count := (w.nvec.toNat + 1) * nr
      let out := fun n => n / nr * yPitch w + 4 * (n % nr)
      let xe := fun v i => if w.xfp32 then fmtFP32.decode (listRead x.sent (v * xPitch w + 4 * i) 4)
        else fmtBF16.decode (listRead x.sent (v * xPitch w + 2 * i) 2)
      let val := fun n old => fmtFP32.round .rn (accumulate false (32 * nb)
        (fun i => s.matrixElem m (w.row0.toNat + n % nr) (32 * w.col0.toNat + i)) (xe (n / nr))
        (if w.acc then fmtFP32.decode old else .zero false))
      (pool = true → k.PoolClear → r.2 = none ∧ r.1.mem = s.mem ∧
        (∀ n, n < count → memRead q (poolOff y + out n) 4 = val n (memRead k.pool (poolOff y + out n) 4) % 2 ^ 32) ∧
        (∀ o, (∀ n, n < count → o < poolOff y + out n ∨ poolOff y + out n + 4 ≤ o) → memGet q o = memGet k.pool o)) ∧
      (pool = false →
        let dest := fun n => cellOf (paUnder x.xlat (y + out n))
        Apart 4 ((List.range count).map dest) → (∀ n, n < count → ∀ i, i < 4 → paSpace (dest n + i) ≠ 3) →
        (∀ va n, n < count → cellOf (paUnder m.xlat va) < dest n ∨ dest n + 4 ≤ cellOf (paUnder m.xlat va)) → r.2 = none ∧
        (∀ n, n < count → r.1.bytesAt (dest n) 4 = val n (s.bytesAt (dest n) 4) % 2 ^ 32) ∧
        (∀ a, (∀ n, n < count → a < dest n ∨ dest n + 4 ≤ a) → r.1.byteAt a = s.byteAt a) ∧ (∀ d a, r.1.poolByte d a = s.poolByte d a)))

/-- R226: COMMAND_COMPLETE removes a command that has made its effects; one that no fault stopped adds its increment to its signal
semaphore; and the engine's next command may start. -/
def Obligations.CommandCompletes : Prop :=
  ∀ (c : Nat) (x : Cmd) (s : State), (s.getCore c).cmds.find? (fun y => y.id = x.id && y.done && y.eng != .group) = some x →
    x.fault = none → (∀ d n o r, x.op ≠ .hcpyOut d n o r) → (s.getCore c).semq = [] →
    (s.getCore c).sem x.f.ksig + x.f.inc.toNat ≤ 0xFFFF →
    ∃ t : State, exec (.commandComplete c x.id) s = .next t ∧ (t.getCore c).cmds = (s.getCore c).cmds.filter (fun y => y.id != x.id) ∧
      (t.getCore c).sem x.f.ksig = (s.getCore c).sem x.f.ksig + x.f.inc.toNat ∧
      (∀ k, k ≠ x.f.ksig → (t.getCore c).sem k = (s.getCore c).sem k) ∧ (t.getCore c).pool = (s.getCore c).pool ∧
      .commandStart c x.eng ∈ t.agenda

/-- R236, R243, R250: The status and control instructions of the engines. -/
def Obligations.EngineControl : Prop :=
  ∀ (d a : R) (s : State), s.poolBarred = false →
    exec .mqclr s = .next ((s.modCore1 (fun k => { k with mq := [] })).post (.commandStart s.act.core .copy)).fell ∧
    (s.Takes d →
      exec (.mqstat d) s = .next (s.gives d (.ofNat 64 s.core.mq.length)) ∧
      (∀ (x : Word) (mx : Matrix), s.Reads a x → (s.matrix x = none → exec (.sstat d a) s = .next (s.gives d 0)) ∧
        (s.matrix x = some mx → exec (.sstat d a) s = .next (s.gives d (.ofNat 64 (2 ^ 63 + min (s.pendingOn mx) 64 * 2 ^ 56 +
          mx.stack % 16 * 2 ^ 52 + mx.format.toNat * 2 ^ 48 + mx.cols / 32 % 2 ^ 16 * 2 ^ 32 + mx.rows % 2 ^ 32))))) ∧
      (∀ (x : Word) (mx : Matrix), s.Reads a x → x.getLsbD 63 = true →
        (s.matrix (x &&& 0xFFF) = none → exec (.smap d a) s = .next (s.gives d 0x8000000000000004)) ∧
        (s.matrix (x &&& 0xFFF) = some mx → s.pendingOn mx = 0 →
          ∃ t : State, exec (.smap d a) s = .next t ∧ t.matrices = s.matrices.erase mx ∧ t.me.rdG d = .ok 0)) ∧
      (∀ (x v : Word) (w : List Word) (pages : List (Nat × Nat)) (s1 s2 s3 : State), s.Reads a x → x.getLsbD 63 = false → x.toNat % 8 = 0 →
        s.readWords globalOnly x 4 = .ok (w, s1) → descriptorOk w = true → s1.matrixPages (matrixOf w s1.me.domid) = .ok (pages, s2) →
        (∀ p ∈ pages, s2.inMotion (cellOf p.2) = false) → s2.mapMatrix (matrixOf w s1.me.domid) pages = (v, s3) →
        exec (.smap d a) s = .next (s3.modMe (fun t => t.setG d v)).fell) ∧
      (∃ t : State, exec (.estat d 3) s = .next t ∧ t.me.rdG d = (if d = 0 then .ok 0 else .ok ((s.core.frec.map recordWord).getD 0)) ∧
        t.core.frec = none) ∧
      exec (.estat d 4) s = .next (s.gives d ((s.core.frec.map FaultRec.addr).getD 0)) ∧
      (∀ n : Fin 6, n ≠ 3 → n ≠ 4 → ∃ t : State, exec (.estat d n) s = .next t ∧
        t.me.rdG d = (if d = 0 then .ok 0 else .ok (s.core.engineStat (engineOf n) s.cont)) ∧ t.core.frec = s.core.frec ∧
        t.core.cmds = s.core.cmds) ∧
      (∀ mask : BitVec 3, s.core.cancels mask s.cont = [] → s.core.semq = [] →
        ∃ t : State, exec (.ecancel d mask) s = .next t ∧ t.me.rdG d = .ok 0 ∧ t.core.cmds = s.core.cmds ∧ t.core.pool = s.core.pool) ∧
      (∀ (mask : BitVec 3) (x : Cmd), s.core.cancels mask s.cont = [x] → (∀ t' a' b', x.op ≠ .mmas t' a' b') →
        (∀ d' n o r, x.op ≠ .hcpyOut d' n o r) → s.core.semq = [] →
        ∃ t : State, exec (.ecancel d mask) s = .next t ∧ t.me.rdG d = (if d = 0 then .ok 0 else .ok 1) ∧ x ∉ t.core.cmds ∧
          (∀ y ∈ s.core.cmds, y ≠ x → y ∈ t.core.cmds) ∧ t.core.pool = s.core.pool))

/-- R254 to R256, R264, R265: GJOIN enrols the member once, from the next round on where the open round is being released or its timer has
run out; GLEAVE lets it leave, GSTAT reports, and GLOAD sends one request, waits, and ends as the round decided. Log entry 48 (DEDUCED)
says when a timer has run out, and 24 (DESIGN CHOICE) over which links a GLOAD and a fill travel. R257 to R262: The slice opens a round
with the first request, releases it by count or by its timer, and answers a late one from what it remembers (a round is released by its
timer from the cycle after the one in which it runs out, so that a release by count in that cycle goes first, and what comes later no
longer counts: log entry 48, DEDUCED); a release gives every asker a fill and counts the round; a fill writes the member's pool, its words
become full, and its semaphore is signalled. -/
def Obligations.MulticastGroups : Prop :=
  (∀ (d a b : R) (p : P) (e : EngF) (x : Word) (g : Group) (i : Nat) (mem : Member) (s : State), s.Reads a x →
    (s.member x false = .ok (g, i, mem) → s.Takes d →
      (mem.enrolled = true → exec (.gjoin d a) s = .next (s.gives d 1)) ∧
      (g.expired s.cycle = false → s.releaseExpired g = s) ∧
      (mem.enrolled = false → ∀ u : State, s.releaseExpired g = u →
        exec (.gjoin d a) s = .next ((u.modGroup g (fun g => g.modMember i (fun m =>
          { m with
            enrolled := true
            core := some u.act.core
            counter := if g.releasing u.cycle then g.round + 1 else g.round }))).modMe (fun t => t.setG d 0)).fell) ∧
      (∃ v : Word, exec (.gstat d a) s = .next (s.gives d v) ∧ (v.extractLsb' 16 16).toNat = mem.counter % 65536 ∧
        v.getLsbD 40 = mem.enrolled ∧ v.getLsbD 35 = mem.skipped ∧ v.getLsbD 34 = mem.aged ∧ v.getLsbD 33 = mem.part ∧
        v.getLsbD 32 = mem.late ∧ (v.extractLsb' 8 8).toNat = min 255 mem.asked)) ∧
    (s.member x true = .ok (g, i, mem) → exec (.gleave a) s = .next (s.leaveGroup g i).fell) ∧
    (s.core.cmds.find? (fun x => x.eng = .group && x.cont = s.cont) = none → s.engReady .group = .ok () → s.member x true = .ok (g, i, mem) →
      ∀ (len src : Word) (pages : List (Nat × Nat)) (s1 s2 : State), s.Reads d len → s.Reads b src → len.toNat % 128 = 0 →
      128 ≤ len.toNat → len.toNat ≤ 65536 → src.toNat % 128 = 0 →
      s.poolSpan (s.me.rdP p) (ptrOffset (s.me.rdP p)) len.toNat 128 (fun _ => true) [1] true = .ok () →
      s.globalSpan { size := 1, align := 1 } src len.toNat = .ok (pages, s1) →
      s1.barred s1.core.owner (toSlice s1.act.core g.die.toNat (sliceOf (paUnder pages src.toNat))) = false → s1.release (scopeOf e.sc) = .ok s2 →
      exec (.gload d a b p e) s = .next ((s2.submit .group (.gload g.die g.slot g.gen i src len.toNat (ptrOffset (s.me.rdP p))) e [] []).waits
        (some .ground))) ∧
    (∀ y : Cmd, s.core.cmds.find? (fun x => x.eng = .group && x.cont = s.cont) = some y → y.served = .done →
      exec (.gload d a b p e) s = .next (s.modCore1 (fun k => { k with cmds := k.cmds.filter (fun z => z.id != y.id) })).fell)) ∧
  ((∀ (q : GReq) (g : Group) (s : State), s.greqs.find? (fun r => r.id = q.id) = some q → s.groupAt q.die q.slot q.gen = some g →
    let s1 := { s with greqs := s.greqs.erase q }
    (g.expired s.cycle = false → q.round < g.round → exec (.groupRequest q.id) s = .next (s1.lateRequest g q).freeGroups) ∧
    (g.round ≤ q.round → g.open_ = none → exec (.groupRequest q.id) s =
      .next ((s1.modGroup g (fun g => { g with open_ := some ⟨q.src, q.len, q.off, s.cycle, [q], none, none⟩ })).releaseByCount g).freeGroups) ∧
    (∀ o : Round, g.round ≤ q.round → g.open_ = some o → o.timed ≠ none → (g.timer = 0 ∨ s.cycle ≤ o.since + g.timer) →
      exec (.groupRequest q.id) s = .next ({ s with greqs := q :: s.greqs.erase q }.post (.groupRequest q.id)).freeGroups) ∧
    (∀ o : Round, g.round ≤ q.round → g.open_ = some o → o.timed = none → (g.timer = 0 ∨ s.cycle ≤ o.since + g.timer) →
      ((o.src, o.len, o.off) = (q.src, q.len, q.off) → exec (.groupRequest q.id) s =
        .next ((s1.modGroup g (fun g => { g with open_ := some { o with askers := o.askers ++ [q] } })).releaseByCount g).freeGroups) ∧
      ((o.src, o.len, o.off) ≠ (q.src, q.len, q.off) → exec (.groupRequest q.id) s =
        .next (s1.serveGload q (.fault ⟨.groupMismatch, q.src, 0⟩)).freeGroups)) ∧
    (∀ (o : Round) (g' : Group), g.open_ = some o → g.timer ≠ 0 → o.since + g.timer < s.cycle → o.askers.length < g.required g.round →
      (s1.releaseRound g o true).groupAt q.die q.slot q.gen = some g' →
      exec (.groupRequest q.id) s = .next ((s1.releaseRound g o true).takeRequest g' q).freeGroups)) ∧
  (∀ (die : Nat) (slot : BitVec 8) (g : Group) (o : Round) (s : State),
    s.groups.find? (fun g => g.die.toNat = die && g.slot = slot) = some g → g.open_ = some o →
    (g.required g.round ≤ o.askers.length ∨ o.timed ≠ none →
      exec (.groupTimerExpiry die slot) s = .next (s.releaseRound g o false).freeGroups) ∧
    (o.askers.length < g.required g.round → o.timed = none →
      (g.timer ≠ 0 → o.since + g.timer < s.cycle → exec (.groupTimerExpiry die slot) s = .next (s.releaseRound g o true).freeGroups) ∧
      (g.timer = 0 ∨ s.cycle ≤ o.since + g.timer → exec (.groupTimerExpiry die slot) s = .next s))) ∧
  (∀ (g : Group) (o : Round) (timer : Bool) (bytes : List Byte × Nat) (s u : State), s.readSource g o.src o.len = .ok (bytes, u) →
    u.groupAt g.die g.slot g.gen = some g →
    let t := s.releaseRound g o timer
    (∃ h : Group, t.groupAt g.die g.slot g.gen = some h ∧ h.round = g.round + 1 ∧ h.open_ = none) ∧
    t.fills.map (fun f => (f.core, f.off, f.bytes, f.pa, f.round, f.member, f.ksig, f.inc)) =
      u.fills.map (fun f => (f.core, f.off, f.bytes, f.pa, f.round, f.member, f.ksig, f.inc)) ++
        o.askers.map (fun q => (q.core, o.off, bytes.1, bytes.2, q.round, q.member, q.ksig, q.inc))) ∧
  (∀ (f : Fill) (s : State), s.MemOk → s.fills.find? (fun x => x.id = f.id) = some f → (s.getCore f.core).dbg.halted = false →
    let k := s.getCore f.core
    s.portOf f.core = [] → k.valid = true → k.scrub = none → s.fillBarred f k.owner = false →
    (s.launchOf f.launch = none ∨ ∃ l : Launch, s.launchOf f.launch = some l ∧ l.owner = k.owner) →
    k.marks = [] → k.deferred = [] → k.semq = [] → f.bytes.length % 8 = 0 → f.off % 8 = 0 → k.sem f.ksig + f.inc.toNat ≤ 0xFFFF →
    ∃ t : State, exec (.groupFill f.id) s = .next t ∧ t.fills = s.fills.erase f ∧
      (∀ n, n < f.bytes.length → t.poolByte f.core (f.off + n) = f.bytes.getD n 0) ∧
      (∀ o, o < f.off ∨ f.off + f.bytes.length ≤ o → t.poolByte f.core o = s.poolByte f.core o) ∧
      (∀ n, n < f.bytes.length / 8 → f.off + 8 * n ∈ (t.getCore f.core).full) ∧
      (t.getCore f.core).sem f.ksig = k.sem f.ksig + f.inc.toNat))

/-! ### Continuations, launches and gangs (spec/01_described_work.md, spec/02_launched.md, spec/03_placed.md, spec/20_retired.md) -/

/-- R27, R137 to R140: END, SPAWN on any core it places its record on, SPAWNL, YIELD, PARK and WFI. That WFI waits whatever records the
core's queue holds already, since only one that comes afterwards ends it, is the model's choice (log entry 76, DESIGN CHOICE), and so is
that what PARK puts away is resumable at once where a cause is held that its safe point takes (log entry 79, DESIGN CHOICE). -/
def Obligations.ContinuationInstructions : Prop :=
  (∀ (j : Word) (s : State), s.me.frames = [] → s.me.handleMask = 0 → s.openChannel 0 = none → s.me.run.bind Cont.group = none →
    s.Reads 3 j →
    (j = 0 → ∃ t : State, exec .endC s = .next t ∧ t.act.out = .retired) ∧
    (j = 0 → (∀ d, (s.domain d).state ≠ .revoked) →
      ∃ t : State, exec .endC s = .next t ∧ t.me = s.me.idle ∧ t.core.pool = s.core.pool ∧
        t.launches = s.launches.map (fun l => if l.serial = s.me.launch then
          { l with run := l.run + 1, faults := l.faults + (s.me.held.filter (fun h => h.frame.isSome)).length } else l) ∧
        t.dieq = s.dieq ∧ t.agenda = s.agenda) ∧
    (∀ off : Nat, j ≠ 0 → j = poolAddr off → s.PoolSpan off 8 → s.PoolSpan (off + 8) 8 → s.PoolSpan (off + 16) 8 → s.PoolSpan (off + 24) 8 →
      s.PoolSpan (off + 32) 8 → s.NonePosted → s.MemOk → s.PoolSound → off ∉ s.core.marks → (∀ d, (s.domain d).state ≠ .revoked) →
      ∃ t : State, exec .endC s = .next t ∧ t.me = s.me.idle ∧ t.core.word off = s.core.word off - 1 ∧
        (∀ o : Nat, o < off ∨ off + 8 ≤ o → t.poolByte s.act.core o = s.poolByte s.act.core o) ∧
        (s.core.word off ≠ 1 → t.dieq = s.dieq) ∧
        (s.core.word off = 1 → ∃ c : Nat, ∃ r : Record, t.dieq = s.dieq ++ [(c, r)] ∧ r.code = s.core.word (off + 8) ∧ r.frame = s.core.word (off + 16) ∧
          r.join = s.core.word (off + 24) ∧ r.workId = s.core.word (off + 32) ∧ r.launch = s.me.launch ∧ r.group = none))) ∧
  (∀ (s : State), s.me.frames ≠ [] → exec .endC s = .next (s.trap ⟨.gateInvalid, 0, .ofNat 64 s.me.frames.length⟩)) ∧
  (∀ (d a : R) (x : Word) (s : State), s.Reads a x → x.toNat % 32 = 0 → s.Takes d →
    (s.me.frames ≠ [] → exec (.spawn d a) s = .next (s.gives d 3) ∧ exec (.spawnl d a) s = .next (s.gives d 3)) ∧
    (∀ (w : List Word) (t : State), s.me.frames = [] → s.readWords (fun _ => none) x 4 = .ok (w, t) →
      (t.core.queueFull = true → exec (.spawnl d a) s = .next (t.gives d 1)) ∧
      (t.core.queueFull = false → t.NonePosted →
        ∃ u : State, ∃ r : Record, exec (.spawnl d a) s = .next u ∧ u.me.g = (t.me.setG d 0).g ∧ u.core.records = t.core.records ++ [r] ∧
          (t.core.queueRoom = true → u.core.queue = t.core.queue ++ [r]) ∧
          [r.code, r.frame, r.join, r.workId] = (List.range 4).map (fun i => w.getD i 0) ∧ r.launch = t.me.launch ∧
          r.prio = (t.me.run.map Cont.base).getD 0 ∧ r.group = none ∧ u.core.pool = t.core.pool) ∧
      (∀ c : Nat, (t.isCompute t.act.core = true → t.hashTarget t.core.owner (w.getD 3 0) = some c) →
          (t.isCompute t.act.core = false → c = t.act.core) →
        ((t.getCore c).queueFull = true → exec (.spawn d a) s = .next (t.gives d 1)) ∧
        ((t.getCore c).queueFull = false → t.NonePosted →
          ∃ u : State, ∃ r : Record, exec (.spawn d a) s = .next u ∧ u.me.g = (t.me.setG d 0).g ∧ (u.getCore c).records = (t.getCore c).records ++ [r] ∧
            [r.code, r.frame, r.join, r.workId] = (List.range 4).map (fun i => w.getD i 0) ∧ r.launch = t.me.launch ∧ r.target = c)))) ∧
  (∀ (s : State),
    let other := s.eligible s.act.core ((s.me.run.map Cont.prio).getD 0) ||
      s.core.parked.any (fun p => p.resumable && !p.frozen && decide ((s.me.run.map Cont.prio).getD 0 ≤ p.prio))
    (other = false ∨ s.core.slotFree = false → exec .yield s = .next s.fell.safeAll ∧ s.fell.safeAll.me.atSafePoint = true ∧
      s.fell.safeAll.me.mask = none) ∧
    (other = true → s.core.slotFree = true → (∀ m : Fin 3, s.me.lc[m].active = false) →
      ∃ t : State, ∃ p : Parked, exec .yield s = .next t ∧ t.me.run = none ∧ t.core.parked = s.core.parked ++ [p] ∧ p.resumable = true ∧
        p.th.g = s.me.g ∧ p.th.v = s.me.v ∧ p.th.pc = s.act.next ∧ p.prio = (s.me.run.map Cont.base).getD 0)) ∧
  (∀ (s : State), s.me.wait = none →
    (s.core.slotFree = true → (∀ m : Fin 3, s.me.lc[m].active = false) →
      ∃ t : State, ∃ p : Parked, exec .park s = .next t ∧ t.me.run = none ∧ t.core.parked = s.core.parked ++ [p] ∧
        p.resumable = (s.unwindPends s.me || (!s.me.active && !s.me.held.isEmpty)) ∧
        p.th.g = s.me.g ∧ p.th.pc = s.act.next) ∧
    (s.core.slotFree = false → exec .park s = .next (s.waits (some .parked)))) ∧
  (∀ (s : State) (a b : Nat), s.me.wait = some ⟨.parked, .done, a, b⟩ → exec .park s = .next s.fell.safeAll) ∧
  (∀ (s : State),
    (s.me.level.atLeast .hyper = true →
      (∀ a b : Nat, s.me.wait = some ⟨.wfi, .done, a, b⟩ → exec .wfi s = .next s.fell) ∧
      (s.me.wait = none → s.me.held = [] → s.core.dbg.request = none → exec .wfi s = .next (s.waits (some .wfi))) ∧
      (s.me.wait = none → s.me.held ≠ [] → exec .wfi s = .next s.fell)) ∧
    (s.me.level.atLeast .hyper = false → exec .wfi s = .next (s.trap ⟨.privilege, s.me.pc, .ofNat 64 (s.act.head.toNat + 0x20000)⟩)))

/-- R37, R20, R33 to R35, R38: LAUNCH answers 0 and puts the header into its device queue, or says why not; an accepted header becomes a
live launch; a write of a queue's tail has its entries taken. -/
def Obligations.LaunchSubmission : Prop :=
  (∀ (d a : R) (x : Word) (s : State), s.Reads a x → x.toNat % 8 = 0 → s.Takes d →
    (s.me.frames ≠ [] → exec (.launch d a) s = .next (s.gives d 3)) ∧
    (∀ (h : List Word) (t : State), s.me.frames = [] → s.readWords (fun _ => none) x 16 = .ok (h, t) →
      (h.getD 13 0 = 0 ∨ (h.getD 13 0).toNat % 32 ≠ 0 → exec (.launch d a) s = .next (t.gives d 2)) ∧
      (∀ (die : Nat) (o : BitVec 4), h.getD 13 0 ≠ 0 → (h.getD 13 0).toNat % 32 = 0 → t.launchQueue h = some (die, o) →
        (Config.deviceQueueSize ≤ (t.devq.filter (fun e => e.die = die && e.owner = o)).length →
          exec (.launch d a) s = .next (t.gives d 1)) ∧
        ((t.devq.filter (fun e => e.die = die && e.owner = o)).length < Config.deviceQueueSize → t.NonePosted →
          ∃ u : State, exec (.launch d a) s = .next u ∧ u.me.g = (t.me.setG d 0).g ∧ u.devq = t.devq ++ [⟨die, o, h, x⟩] ∧
            u.agenda = t.agenda ++ [.launchAccept (.device die o)] ∧ u.launches = t.launches)))) ∧
  (∀ (e : DevEntry) (s : State), s.devq.find? (fun x => x.die = e.die && x.owner = e.owner) = some e →
    (s.gangStalls e.header = true → exec (.launchAccept (.device e.die e.owner)) s = .next (s.post (.launchAccept (.device e.die e.owner)))) ∧
    (s.gangStalls e.header = false → s.headerCheck e.owner e.header = none →
      ∃ t : State, ∃ l : Launch, exec (.launchAccept (.device e.die e.owner)) s = .next t ∧ t.devq = s.devq.erase e ∧ t.launches = s.launches ++ [l] ∧
        l.header = e.header ∧ l.owner = e.owner ∧ l.die = e.die ∧ l.created = [] ∧ l.run = 0 ∧ l.faults = 0 ∧ l.status = 0 ∧
        ((e.header.getD 8 0).getLsbD 18 = false → t.agenda = s.agenda) ∧
        ((e.header.getD 8 0).getLsbD 19 = true → (t.ownerRec e.owner).mode = .strict)) ∧
    (s.gangStalls e.header = false → s.headerCheck e.owner e.header ≠ none →
      ∃ t : State, exec (.launchAccept (.device e.die e.owner)) s = .next t ∧ t.devq = s.devq.erase e ∧ t.launches = s.launches)) ∧
  (∀ (q : Nat) (x : HostQueue) (s : State), s.hostq.find? (fun y => y.number = q) = some x → x.stopped = false →
    (s.ownerRec x.owner).frozen = none → s.ctlUp = true → (x.tail - x.head).toNat ≠ 0 →
    (x.entries.toNat < (x.tail - x.head).toNat →
      ∃ t : State, exec (.launchAccept (.host q)) s = .next t ∧ t.launches = s.launches ∧
        { x with errCode := 2, errIdx := x.head.setWidth 56, stopped := true } ∈ t.hostq) ∧
    ((x.tail - x.head).toNat ≤ x.entries.toNat → s.entryStalls x = true →
      exec (.launchAccept (.host q)) s = .next (s.post (.launchAccept (.host x.number)))) ∧
    ((x.tail - x.head).toNat ≤ x.entries.toNat → s.entryStalls x = false → s.headerCheck x.owner (s.entryHeader x).1 = none →
      ∃ t : State, ∃ l : Launch, exec (.launchAccept (.host q)) s = .next t ∧ { x with head := x.head + 1 } ∈ t.hostq ∧ t.launches = s.launches ++ [l] ∧
        l.header = (s.entryHeader x).1 ∧ l.owner = x.owner ∧ l.src = .host q ∧ l.producer = x.head.toNat)) ∧
  (∀ (q : Nat) (tail : Word) (x : HostQueue) (s : State), s.ctlUp = true → x ∈ s.hostq → x.number = q →
    ∃ t : State, exec (.queueTailWrite q tail) s = .next t ∧ { x with tail := tail } ∈ t.hostq ∧
      t.agenda = s.agenda ++ [.launchAccept (.host q)] ∧ (∀ y ∈ s.hostq, y.number ≠ q → y ∈ t.hostq)) ∧
  (∀ (q : Nat) (tail : Word) (s : State), s.ctlUp = false → exec (.queueTailWrite q tail) s = .next s)

/-- R24, R56, R59 to R63: Records are created where placement puts them, held back once they have waited 65,536 cycles on a core whose
boundaries differ, promoted, and taken by an idle thread, which then runs the record with its start values (on a core that is no compute
core at hypervisor level: log entry 49, DEDUCED); a continuation blocked past the limit is parked, and resumable at once where a cause is
held for it (log entry 79, DESIGN CHOICE). -/
def Obligations.RecordsAndSelection : Prop :=
  (∀ (n k c : Nat) (l : Launch) (d : Option Nat) (s t : State), s.launchOf l.serial = some l → s.released l = true →
    l.nextItem n = some k → groupFields l.header = [] → s.targetOf l k = ((some c, d), t) → t.supplies c = true →
    ∃ u : State, ∃ r : Record, exec (.recordCreate l.serial n) s = .next u ∧ (u.getCore c).records = (t.getCore c).records ++ [r] ∧ r.code = l.header.getD 1 0 ∧
      r.frame = l.header.getD 2 0 + .ofNat 64 (k * ((l.header.getD 3 0).toNat % 2 ^ 32)) ∧ r.join = 0 ∧ r.workId = hdrWorkId l.header k ∧
      r.launch = l.serial ∧ r.owner = l.owner ∧ r.target = c ∧ r.group = none) ∧
  (∀ (core rec : Nat) (s : State), (∀ r ∈ (s.getCore core).records, r.id = rec → r.group ≠ none ∨ r.waited < 65536 ∨ s.pbMatch core r.launch = true) →
    exec (.recordHoldBack core rec) s = .next s) ∧
  (∀ (core rec : Nat) (r : Record) (s : State),
    (s.getCore core).records.find? (fun r => r.id = rec && r.group.isNone && 65536 ≤ r.waited && !s.pbMatch core r.launch) = some r →
    ∃ t : State, exec (.recordHoldBack core rec) s = .next t ∧
      (t.getCore core).records = (s.getCore core).queue.erase r ++ (s.getCore core).ring.erase r ∧
      t.dieq = s.dieq ++ [(coreDie core, { r with heldBack := true })]) ∧
  (∀ (core rec : Nat) (r : Record) (s : State), r ∈ (s.getCore core).records → r.id = rec →
    ∃ t : State, exec (.priorityPromotion core rec) s = .next t ∧
      (r.prio < 3 → r.promo + Config.promoteCycles ≤ s.cycle →
        { r with prio := min 3 (r.prio + 1), promo := s.cycle } ∈ (t.getCore core).records) ∧
      (3 ≤ r.prio ∨ s.cycle < r.promo + Config.promoteCycles → r ∈ (t.getCore core).records) ∧
      (∀ x ∈ (s.getCore core).records, x.id ≠ rec → x ∈ (t.getCore core).records)) ∧
  (∀ (core i : Nat) (r : Record) (k : Option Nat) (s : State), s.maySelect core = true →
    (s.getThread core (.ofNat 2 i)).run = none → s.chooseOwn core = (some (.start r), k) → s.pbMatch core r.launch = true →
    (s.domain (s.startThread core r).domid).state ≠ .revoked →
    ∃ t : State, exec (.continuationSelect core i) s = .next t ∧
      (t.getCore core).records = (s.getCore core).queue.erase r ++ (s.getCore core).ring.erase r ∧
      let th := t.getThread core (.ofNat 2 i)
      (th.run.map Cont.id) = some r.id ∧ th.pc = r.code ∧ th.rdG 1 = .ok r.workId ∧ th.rdG 2 = .ok r.frame ∧ th.rdG 3 = .ok r.join ∧
      (∀ n : R, 5 ≤ n.toNat → th.rdG n = .ok 0) ∧ (∀ n : R, th.rdV n = 0) ∧ (∀ n : P, th.rdP n = 0) ∧
      th.frames = [] ∧ th.lc = Vector.replicate 3 zeroLoop ∧ th.level = (if s.isCompute core then .user else .hyper)) ∧
  (∀ (core i : Nat) (w : WaitRec) (s : State), (s.getThread core (.ofNat 2 i)).wait = some w → w.kind.parks = true →
    (s.getThread core (.ofNat 2 i)).run ≠ none → s.clocked core = true → Config.parkCycles < w.resident → s.eligible core 0 = true →
    (s.getCore core).slotFree = true →
    ∃ t : State, ∃ p : Parked, exec (.blockedPark core i) s = .next t ∧ (t.getThread core (.ofNat 2 i)).run = none ∧
      (t.getCore core).parked = (s.getCore core).parked ++ [p] ∧ 
      p.resumable = (s.eventCome (s.getThread core (.ofNat 2 i)) w || s.unwindPends (s.getThread core (.ofNat 2 i)) ||
        (!(s.getThread core (.ofNat 2 i)).active && !(s.getThread core (.ofNat 2 i)).held.isEmpty)) ∧
      p.th.g = (s.getThread core (.ofNat 2 i)).g ∧ p.th.pc = (s.getThread core (.ofNat 2 i)).pc ∧ p.th.wait = some w)

/-- R22, R39 to R42, R401 to R404: The steps of the gang protocol on one member, from the acceptance of its header on, the completion
record, and two equal sweeps that end a launch. Log entries 44 (DEDUCED: what a sweep has read) and 45 (DEDUCED: member 0 posts its own
PREPARE) say what the model chose of it, and 25 (DESIGN CHOICE) that a descriptor which cannot be read makes the member refuse, and which
digests a reply leaves. A message of a member whose module has come back with other digests is refused (R45). -/
def Obligations.GangsAndQuiescence : Prop :=
  (∀ (e : DevEntry) (s : State), s.devq.find? (fun x => x.die = e.die && x.owner = e.owner) = some e → s.gangStalls e.header = false →
    s.headerCheck e.owner e.header = none → (e.header.getD 8 0).getLsbD 18 = true →
    ∃ l : Launch, l.header = e.header ∧
      let u := { ({ s with devq := s.devq.erase e }.newId).2 with launches := s.launches ++ [l] }.remode e.owner
      (u.readGang l = none → exec (.launchAccept (.device e.die e.owner)) s = .next (u.post (.prepare e.die l.serial))) ∧
      (∀ g v, u.readGang l = some (g, v) →
        exec (.launchAccept (.device e.die e.owner)) s = .next (if g.self = 0 then v.post (.prepare e.die l.serial) else v))) ∧
  (∀ (l : Launch) (g : Gang) (s t : State), s.launches.find? (fun x => x.serial = l.serial && x.die = l.die && x.pending) = some l →
    l.gang.phase = .none →
    (s.gangStalls l.header = true → exec (.prepare l.die l.serial) s = .next (s.post (.prepare l.die l.serial))) ∧
    (s.gangStalls l.header = false → s.readGang l = some (g, t) → exec (.prepare l.die l.serial) s =
      .next (if t.gangRefuses g 0 then t
        else (t.modGang l.serial (fun _ => { g with phase := .prepared t.ns })).post (.prepared l.serial g.self))) ∧
    (s.gangStalls l.header = false → s.readGang l = none → exec (.prepare l.die l.serial) s = .next (s.abortLaunch l))) ∧
  (∀ (l : Launch) (m at_ : Nat) (s : State), s.launchOf l.serial = some l → l.gang.phase = .prepared at_ →
    (s.gangRefuses l.gang m = true → exec (.prepared l.serial m) s = .next s ∧ exec (.committed l.serial m) s = .next s) ∧
    (s.gangRefuses l.gang 0 = true → exec (.commit l.serial) s = .next s ∧ exec (.abort l.serial) s = .next s) ∧
    (l.gang.self = 0 → m < l.gang.table.length → s.ns < l.gang.sentAt + 2000000 → s.gangRefuses l.gang m = false →
      ∃ t : State, exec (.prepared l.serial m) s = .next t ∧
        t.launches = s.launches.map (fun x => if x.serial = l.serial then
          { x with gang := { x.gang with prepared := (m :: l.gang.prepared).eraseDups, digests := putKey m (s.digestsOf l m) x.gang.digests } }
          else x) ∧
        ((m :: l.gang.prepared).eraseDups.length = l.gang.table.length → t.agenda = s.agenda ++ [.commit l.serial]) ∧
        ((m :: l.gang.prepared).eraseDups.length ≠ l.gang.table.length → t.agenda = s.agenda)) ∧
    (l.gang.sentAt + 2000000 ≤ s.ns → exec (.prepared l.serial m) s = .next s) ∧
    (l.gang.self = 0 → l.gang.prepared.length < l.gang.table.length → l.gang.sentAt + 2000000 ≤ s.ns →
      exec (.prepareTimeout l.serial) s = .next (s.post (.abort l.serial))) ∧
    (at_ + 2000000 ≤ s.ns → exec (.preparedHoldTimeout l.serial) s = .next (s.abortLaunch l)) ∧
    (s.gangRefuses l.gang 0 = false → at_ + 2000000 ≤ s.ns → exec (.commit l.serial) s = .next (s.abortLaunch l)) ∧
    (s.gangRefuses l.gang 0 = false → s.ns < at_ + 2000000 → exec (.commit l.serial) s = .next { s with launches := s.launches.map (fun x => if x.serial = l.serial then
      { x with gang := { x.gang with phase := .committed s.ns, commits := (x.gang.self :: x.gang.commits).eraseDups } } else x) }) ∧
    (s.gangRefuses l.gang m = false → exec (.committed l.serial m) s = .next { s with launches := s.launches.map (fun x => if x.serial = l.serial then
      { x with gang := { x.gang with commits := (m :: x.gang.commits).eraseDups } } else x) }) ∧
    (s.gangRefuses l.gang 0 = false → (l.header.getD 8 0).getLsbD 18 = true → exec (.abort l.serial) s = .next (s.abortLaunch l))) ∧
  (∀ (l : Launch) (m at_ : Nat) (s : State), s.launchOf l.serial = some l → l.gang.phase = .committed at_ → m ∉ l.gang.lost →
    (at_ + 2000000 ≤ s.ns ∨ s.gangRefuses l.gang m = true → exec (.committed l.serial m) s = .next s) ∧
    (s.gangRefuses l.gang m = false → s.ns < at_ + 2000000 → exec (.committed l.serial m) s = .next { s with launches := s.launches.map (fun x => if x.serial = l.serial then
      { x with gang := { x.gang with commits := (m :: x.gang.commits).eraseDups } } else x) }) ∧
    (at_ + 2000000 ≤ s.ns → m < l.gang.table.length → m ∉ l.gang.commits →
      exec (.committedTimeout l.serial m) s = .next (s.post (.lost l.serial m))) ∧
    (m < l.gang.table.length → s.collects = [] →
      ∃ t : State, exec (.lost l.serial m) s = .next t ∧ (∀ x : Launch, t.launchOf l.serial = some x → x.status = 4 ∧ x.gang.lost = l.gang.lost ++ [m]) ∧
        ∀ c ∈ s.coreNums, ∀ i : BitVec 2, ((s.getThread c i).run.map Cont.launch) = some l.serial →
          (t.getThread c i).held.getLast? = some ⟨⟨.gangMemberLost, 0, .ofNat 64 m⟩, none, false⟩)) ∧
  (∀ (l : Launch) (s : State), (s.abortLaunch l).launches = s.launches.filter (fun x => x.serial != l.serial)) ∧
  (∀ (o : BitVec 4) (src : LaunchSrc) (producer run faults pa : Nat) (h : List Word) (st ck : BitVec 8) (s u : State),
    (s.recordPlace o h = .ok (pa, u) → s.writeRecord o src producer h st ck run faults =
      u.pokeWords pa [h.getD 0 0, .ofNat 64 (st.toNat + 256 * ck.toNat), .ofNat 64 run, .ofNat 64 faults]) ∧
    (∀ f, s.recordPlace o h = .error (.fault f) → s.writeRecord o src producer h st ck run faults =
      match src with
      | .host q => s.modQueue q (fun x => { x with errCode := 4, errIdx := .ofNat 56 producer })
      | .device _ _ => s) ∧
    (∀ w, s.recordPlace o h = .error (.hold w) → s.writeRecord o src producer h st ck run faults =
      { s with late := s.late ++ [⟨o, src, producer, h, st, ck, run, faults⟩] })) ∧
  (∀ (l : Launch) (n : Word × Word) (s : State), s.launches = [l] →
    (s.sweep l = none → exec (.quiescenceSweep l.die) s = .next { s with launches := [{ l with sums := none, seen := [] }] }) ∧
    (s.sweep l = some n → l.sums ≠ some n →
      exec (.quiescenceSweep l.die) s = .next { s with launches := [{ l with sums := some n, seen := [] }] }) ∧
    (s.sweep l = some n → l.sums = some n → ∃ t : State, exec (.quiescenceSweep l.die) s = .next t ∧ t.launches = [] ∧ t.groups.all (fun g => g.launch != l.serial)))

/-! ### Routes, streams and handles (spec/13_fed_routes.md, spec/16_synchronised_handles.md) -/

/-- R272, R277 to R283: The route instructions and those of a stream channel. RTSET enters a descriptor that passes the check and faults
with its verdict on one that does not; RTCHK answers the verdict; RTGET reads an entry back; SOPEN takes the links of the entry's path, the
port to the destination's cluster among them; a word is sent only with a credit. -/
def Obligations.RouteInstructions : Prop :=
  ∀ (s : State), s.poolBarred = false →
  (∀ (d a : R) (sel : BitVec 2) (x : Word), s.Reads a x → x.toNat < 64 → s.Takes d →
    let e := s.core.route (x.extractLsb' 0 6)
    (e.valid = true → exec (.rtget d a sel) s = .next (s.gives d
      (if sel = 0 then e.route else if sel = 1 then e.ext else if sel = 2 then e.dside
       else e.desc ||| .ofNat 64 (2 ^ 62) ||| .ofNat 64 (if e.stale then 2 ^ 61 else 0)))) ∧
    (e.valid = false → e.stale = false → exec (.rtget d a sel) s = .next (s.gives d 0))) ∧
  (∀ (a b : R) (x va : Word) (w : List Word) (t : State), s.Reads a x → s.Reads b va → x.toNat < 64 → va.toNat % 8 = 0 →
    s.readWords (fun _ => none) va 4 = .ok (w, t) →
    let e : RouteEntry := ⟨w.getD 0 0, w.getD 1 0, w.getD 2 0, w.getD 3 0, true, false, t.mapVer⟩
    let check := t.checkRoute t.core.owner t.act.core none e.route e.ext e.dside e.desc
    (e.desc.getLsbD 63 = true → t.me.level.atLeast .hyper = true) →
    (∀ cls : Nat, check = .ok cls → exec (.rtset a b) s = .next (t.modCore1 (fun k => k.setRoute (x.extractLsb' 0 6) e)).fell) ∧
    (∀ v : Word, check = .error v → exec (.rtset a b) s = .next (s.trap (verdictFault v))) ∧
    (∀ d : R, s.Takes d → exec (.rtchk d b) s = .next (t.gives d (verdictOf check)))) ∧
  (∀ (ch : BitVec 2) (a b : R) (c dst : Word) (core off cls : Nat) (s1 s2 : State), s.streamAt s.act.core ch = none →
    s.Reads a c → s.Reads b dst → c.extractLsb' 28 36 = 0 → c.extractLsb' 6 10 = 0 → (s.core.route (c.extractLsb' 0 6)).valid = true →
    s.recheck s.act.core (c.extractLsb' 0 6) = .ok s1 →
    let n := (c.extractLsb' 16 12).toNat + 1
    s1.check { write := true, size := 8 * n, align := 8, deny := remoteOnly, regions := some [1], noRoute := true } dst =
      .ok (.pool core off, s2) →
    let e := s2.core.route (c.extractLsb' 0 6)
    s2.checkRoute s2.core.owner s2.act.core (some (core / 4 % 4)) e.route e.ext e.dside (endAt e.desc core) = .ok cls →
    ∃ t : State, ∃ x : Stream, exec (.sopen ch a b) s = .next t ∧ t.streams = s2.streams ++ [x] ∧ t.core.chan ch = some x.id ∧ x.cont = s2.cont ∧
      x.dstCore = core ∧ x.dstOff = off ∧ x.links = s2.entryPath s2.act.core e ∧ x.n = n ∧ x.sent = 0 ∧ x.words = [] ∧ x.credits = 16 ∧ x.broken = none ∧ x.held = 0 ∧
      t.agenda = s2.agenda ++ [.setupFlit x.id] ∧ t.me = { s2.me with pc := s2.act.next, wait := none }) ∧
  (∀ (ch : BitVec 2) (x : Stream), s.streamAt s.act.core ch = some x → x.cont = s.cont →
    let sent := fun (ws : List Word) => s.streams.map (fun y : Stream => if y.id = x.id then
      { y with words := y.words ++ ws, sent := y.sent + ws.length, credits := y.credits - ws.length } else y)
    (∀ (a : R) (v : Word), s.Stores a v → x.broken = none →
      (1 ≤ x.credits → s.NonePosted → ∃ t : State, exec (.ssend ch a) s = .next t ∧ t.streams = sent [v] ∧
        t.agenda = s.agenda ++ [.streamWordArrival x.id] ∧ t.me = { s.me with pc := s.act.next, wait := none } ∧
        t.core.pool = s.core.pool) ∧
      (x.credits = 0 → exec (.ssend ch a) s = .next (s.waits none))) ∧
    (∀ (a : R) (v : Word) (b : BitVec 28), s.Stores a v → x.broken = some b →
      exec (.ssend ch a) s = .next (s.trap ⟨.routeDead, 0, b.setWidth 64⟩)) ∧
    (∀ (p : P) (post : Bool) (b : BitVec 28), x.broken = some b → s.PoolSound →
      s.poolSpan (s.me.rdP p) (ptrOffset (s.me.rdP p)) 64 8 anyWindow [1, 3] false = .ok () →
      exec (.ssendp ch p post) s = .next (s.trap ⟨.routeDead, 0, b.setWidth 64⟩)) ∧
    (∀ (p : P) (post : Bool), (s.me.rdP p).getLsbD 39 = true →
      exec (.ssendp ch p post) s = .next (s.trap (if (ptrAddr (s.me.rdP p) 0).toNat % 8 = 0 then ⟨.pageRights, ptrAddr (s.me.rdP p) 0, 0x20⟩
        else ⟨.misaligned, ptrAddr (s.me.rdP p) 0, 0⟩))) ∧
    (∀ (p : P) (post : Bool), x.broken = none → 8 ≤ x.credits → s.NonePosted → s.PoolSound →
      let off := ptrOffset (s.me.rdP p)
      s.poolSpan (s.me.rdP p) off 64 8 anyWindow [1, 3] false = .ok () →
      ∃ t : State, exec (.ssendp ch p post) s = .next t ∧ t.streams = sent ((List.range 8).map (fun i => s.core.word (off + 8 * i))) ∧
        t.agenda = s.agenda ++ List.replicate 8 (.streamWordArrival x.id) ∧
        t.me = { (s.me.bump p post) with pc := s.act.next, wait := none }) ∧
    (∀ d : R, s.Takes d → ∃ t : State, exec (.sclose d ch) s = .next t ∧ t.me.g = (s.me.setG d (if x.broken.isSome then 1 else 0)).g ∧
      (∀ n : BitVec 2, t.core.chan n ≠ some x.id) ∧ t.agenda = s.agenda ++ [.closingMarker x.id] ∧
      t.streams = s.streams.map (fun y : Stream => if y.id = x.id then { y with closing := true } else y))) ∧
  (∀ (ch : BitVec 2) (a : R), s.streamAt s.act.core ch = none → exec (.ssend ch a) s = .next (s.trap ⟨.streamState, 0, 1⟩))

/-- R185, R273, R276 to R278, R280 to R284: The steps of the network: a setup flit takes a hop, a link direction only while fewer than
four of the owner's routes hold it; a word fills an empty pool word and waits at a full one; a posted message is performed; one that a
router refuses is not, and faults at its sender; a change of the map makes the entries that cross a changed record stale. Log entries 40
(DEDUCED: a message, a setup flit and a stream's word are checked by the hops of their route where they act; a REFUSED_PACKET is the same
refusal, its hop counted through the whole route; LINK_DOWN posts the map's change; dies 0 to 3 of these operands name links, 4 fabric
ports, 5 switch ports), 70 (DESIGN CHOICE: a reduction that meets a word with an error is returned, and so would be a message that met a
marked word) and 77 (DEDUCED: the hops to a cluster are checked like any other). -/
def Obligations.NetworkSteps : Prop :=
  (∀ (x : Stream) (l : PathHop) (s : State), s.streams.find? (fun y => y.id = x.id) = some x →
    x.links[x.held]? = some l → x.broken = none →
    (∀ v : Word, s.linkBad x x.held = some v → exec (.setupFlit x.id) s = .next (s.breakStream x.id v)) ∧
    (s.linkBad x x.held = none → (∃ die key p, l.port = .router die key p) → 4 ≤ s.routesHeld x.owner l.port →
      exec (.setupFlit x.id) s = .next (s.post (.setupFlit x.id))) ∧
    (s.linkBad x x.held = none → ((∀ die key p, l.port ≠ .router die key p) ∨ s.routesHeld x.owner l.port < 4) →
      exec (.setupFlit x.id) s = .next ({ s with streams := s.streams.map (fun y : Stream =>
      if y.id = x.id then { y with held := y.held + 1 } else y) }.post (.setupFlit x.id)))) ∧
  (∀ (x : Stream) (v : Word) (r : List Word) (s : State), s.streams.find? (fun y => y.id = x.id) = some x → x.words = v :: r →
    let k := s.getCore x.dstCore
    let off := x.dstOff + 8 * (x.arrived % x.n)
    x.links.length ≤ x.held →
    (∀ w : Word, x.broken = none → x.waiting = false → s.streamBad x = some w →
      exec (.streamWordArrival x.id) s = .next ((s.breakStream x.id w).post (.streamWordArrival x.id))) ∧
    ((x.broken ≠ none ∨ x.waiting = true ∨ s.streamBad x = none) → k.dbg.halted = false → s.portOf x.dstCore = [] → k.valid = true →
      k.owner = x.owner → k.scrub = none →
    (off ∈ k.full ∨ off ∈ k.marks → exec (.streamWordArrival x.id) s = .next ({ s with streams := s.streams.map (fun y : Stream =>
      if y.id = x.id then { y with waiting := true } else y) }.post (.streamWordArrival x.id))) ∧
    (off ∉ k.full → off ∉ k.marks → k.deferred = [] → s.MemOk →
      ∃ t : State, exec (.streamWordArrival x.id) s = .next t ∧ (t.getCore x.dstCore).word off = v ∧ off ∈ (t.getCore x.dstCore).full ∧
        (∀ o : Nat, o < off ∨ off + 8 ≤ o → t.poolByte x.dstCore o = s.poolByte x.dstCore o) ∧
        t.streams = s.streams.map (fun y : Stream => if y.id = x.id then
          { y with words := y.words.drop 1, arrived := y.arrived + 1, credits := y.credits + 1, waiting := false } else y)))) ∧
  (∀ (x : Stream) (s : State), s.streams.find? (fun y => y.id = x.id) = some x →
    (x.words = [] → (x.broken ≠ none ∨ x.links.length ≤ x.held) →
      exec (.closingMarker x.id) s = .next { s with streams := s.streams.filter (fun y => y.id != x.id) }) ∧
    (x.words ≠ [] → exec (.closingMarker x.id) s = .next (s.post (.closingMarker x.id)))) ∧
  (∀ (m : Msg) (s : State), s.msgs.find? (fun y => y.id = m.id) = some m → m.refused = none →
    s.msgs.find? (fun y => y.refused.isNone && y.src = m.src && y.dst = m.dst) = some m → (s.getCore m.dst).dbg.halted = false →
    s.portOf m.dst = [] →
    let k := s.getCore m.dst
    let mine : Prop := k.valid = true ∧ k.owner = m.owner ∧ k.scrub = none
    let becomes := fun (pool : Nat → Mem) (left : List Msg) => ∃ t : State, exec (.remoteAccess m.id) s = .next t ∧ t.msgs = left ∧
      ∀ c : Nat, (t.getCore c).pool = pool c
    let writes := fun (bs : List (Nat × Byte)) (c : Nat) => if c = m.dst then memWriteAt k.pool m.off bs else (s.getCore c).pool
    let returned := fun (f : Flt) => becomes (fun c => (s.getCore c).pool) (s.msgs.erase m ++ [{ m with refused := some f }])
    (∀ v : Word, s.pathBad m.owner m.path = some v → returned (netFault v)) ∧
    (s.pathBad m.owner m.path = none → ¬mine → becomes (fun c => (s.getCore c).pool) (s.msgs.erase m)) ∧
    (∀ w : Nat, s.pathBad m.owner m.path = none → mine → m.words.find? (fun w => k.marks.contains w) = some w →
      returned (markFault (m.at_.1 - .ofNat 64 m.off + .ofNat 64 w) m.at_.2)) ∧
    (s.pathBad m.owner m.path = none → mine → (∀ w ∈ m.words, w ∉ k.marks) →
      (∀ bs : List (Nat × Byte), m.op = .store bs → becomes (writes bs) (s.msgs.erase m)) ∧
      (∀ (op : RedOp) (ty : VType) (v : Nat), m.op = .reduce op ty v →
        let n := ty.width / 8
        ((∀ w ∈ k.worn, meets (m.off / 8 * 8) 8 w 8 = false) →
          becomes (writes (placed 0 n (redApply op ty (memRead k.pool m.off n) v))) (s.msgs.erase m)) ∧
        ((∃ w ∈ k.worn, meets (m.off / 8 * 8) 8 w 8 = true) → returned (flt .integrity 2))))) ∧
  (∀ (m : Msg) (f : Flt) (s : State), s.msgs.find? (fun y => y.id = m.id) = some m → m.refused = some f →
    exec (.remoteAccess m.id) s = .next (s.refuseMsg m f)) ∧
  (∀ (m : Msg) (hop : BitVec 4) (h : PathHop) (reason : BitVec 8) (i : BitVec 2) (s : State),
    s.msgs.find? (fun y => y.id = m.id && y.refused.isNone) = some m → m.path[hop.toNat]? = some h → reason ≠ 0 →
    (s.getCore m.src).runner m.cont = some i → (s.getThread m.src i).domAt m.depth = some m.dom →
    let f := netFault (h.refusal reason.toNat)
    (f.cause = .routeDead ∨ f.cause = .routeIllegal) ∧ f.info.extractLsb' 8 8 = (if h.word = 2 then 12 else reason) ∧
      f.info.extractLsb' 16 4 = .ofNat 4 h.idx ∧
    ∃ t : State, exec (.refusedPacket m.id hop reason) s = .next t ∧ t.msgs = s.msgs.erase m ∧
      (t.getThread m.src i).held = (s.getThread m.src i).held ++ [⟨f, some (m.depth, m.dom), false⟩] ∧
      ∀ c : Nat, (t.getCore c).pool = (s.getCore c).pool) ∧
  (∀ (changes : List (Nat × Nat × Nat × LinkState)) (s : State),
    ∃ t : State, exec (.topologyMapChange changes) s = .next t ∧ t.mapVer = s.mapVer + 2) ∧
  (∀ (die key port : Nat) (st : LinkState) (s : State), s.hasItem (mapItem die key port) = true →
    let i := mapItem die key port
    ∃ t : State, exec (.topologyMapChange [(die, key, port, st)]) s = .next t ∧ t.itemState i = st ∧
      (∀ j : MapItem, j ≠ i → t.itemState j = s.itemState j) ∧
      (∀ c (n : BitVec 6), c ∈ s.coreNums → ((s.getCore c).route n).valid = true →
        (∃ h ∈ s.entryPath c ((s.getCore c).route n), i ∈ h.items) → ((t.getCore c).route n).stale = true) ∧
      (st ≠ .up → s.streams.Pairwise (fun x y => x.id ≠ y.id) → ∀ x ∈ t.streams, (∃ h ∈ x.links, i ∈ h.items) → x.broken ≠ none)) ∧
  (∀ (die key port : Nat) (s : State),
    let i := mapItem die key port
    (s.itemState i ≠ .up → exec (.linkDown die key port) s = .next s) ∧
    (s.itemState i = .up → ∃ t : State, exec (.linkDown die key port) s = .next t ∧
      t.agenda = s.agenda ++ [.topologyMapChange [(die, key, port, .down)]] ∧
      (s.streams.Pairwise (fun x y => x.id ≠ y.id) → ∀ x ∈ t.streams, (∃ h ∈ x.links, i ∈ h.items) → x.broken ≠ none)))

/-- R329 to R344: The handle instructions on a handle that passes its checks: a new root, its end, its two parts and their joining, the
move to another register, what HINFO reads, and the copies of its tile (those into the pool where every resource grants the owner a slot,
R54). R345: PUTH moves a handle into an empty word of its die, to which nothing is posted, and TAKEH takes it out again, with the entry's
state. -/
def Obligations.HandleInstructions : Prop :=
  (∀ (s : State), s.isCompute s.act.core = true →
  (∀ (d a : R) (va : Word) (w : List Word) (x : List (Nat × Nat)) (n : BitVec 16) (s1 s2 s3 : State), s.Takes d → s.Reads a va →
    va.toNat % 8 = 0 → s.readWords (fun _ => none) va 4 = .ok (w, s1) → tileOk w = true →
    let type := (w.getD 2 0).extractLsb' 0 4
    let ext := w.getD 1 0
    let size := tileElem type * axisOf ext 0 * axisOf ext 1 * axisOf ext 2 * axisOf ext 3
    s1.globalSpan { write := true, size := 1, align := 1, ex := true } (w.getD 0 0) size = .ok (x, s2) →
    s2.overlaps (w.getD 0 0) size = false → s2.takeEntry s2.die none = .ok (n, s3) →
    ∃ t : State, exec (.halloc d a) s = .next t ∧
      let gen := (s3.entry s3.die n).gen + 1
      t.entry s3.die n = ⟨w.getD 0 0, 0, ext, n, n, gen, s3.me.domid, type, (w.getD 2 0).extractLsb' 4 2, 0, .held, [], none⟩ ∧
      t.me.greg d = (if d = 0 then s3.me.greg 0 else ⟨n ++ gen ++ 0#40, .handle⟩) ∧ t.me.pc = s3.act.next ∧
      (∀ k : Nat, k ≠ entryKey s3.die n → getKey k freeEntry t.trellis = getKey k freeEntry s3.trellis)) ∧
  (∀ (a : R) (n : BitVec 16) (e : TEntry), s.heldHandle a = .ok (n, e) →
    (e.parent = n → e.pending = [] → ∃ t : State, exec (.hfree a) s = .next t ∧ (t.entry s.die n).state = .free ∧ (t.entry s.die n).gen = e.gen ∧
      (t.me.greg a).tag = .movedFrom ∧ t.me.pc = s.act.next) ∧
    (e.parent = n → e.pending ≠ [] → exec (.hfree a) s = .next (s.waits (some (.handle s.die [n])))) ∧
    (e.parent ≠ n → (s.entry s.die e.sibling).state ≠ .lost →
      exec (.hfree a) s = .next (s.trap ⟨.handleMismatch, 0, .ofNat 64 (5 + 256 * a.toNat)⟩)) ∧
    (∀ d : R, d ≠ a → s.Takes d → exec (.hmov d a) s =
      .next (s.setMe ((s.me.setG d (s.me.greg a).val .handle).setG a 0 .movedFrom)).fell) ∧
    (exec (.hmov a a) s = .next s.fell) ∧
    (∀ (d : R) (sel : BitVec 2), s.Takes d → exec (.hinfo d a sel) s = .next (s.gives d
      (if sel = 0 then e.parent ++ e.sibling ++ e.gen ++ e.domain ++ e.type ++ e.rank ++ e.axis ++ 0#5 ++ e.state.code
       else if sel = 1 then e.org else if sel = 2 then e.ext else e.base)))) ∧
  (∀ (d a b : R) (p l u : BitVec 16) (e : TEntry) (x : Word) (s1 s2 : State), s.heldHandle a = .ok (p, e) → s.Reads b x →
    (d = a ∨ s.Takes d) → (d + 1 = a ∨ s.Takes (d + 1)) → d ≠ 0 → d + 1 ≠ 0 →
    let axis := (x.extractLsb' 16 2).toNat
    let at_ := (x.extractLsb' 0 16).toNat
    x.extractLsb' 18 46 = 0 → axis ≤ e.rank.toNat → 0 < at_ → at_ < axisOf e.ext axis →
    s.takeEntry s.die none = .ok (l, s1) → s1.takeEntry s.die (some l.toNat) = .ok (u, s2) → p ≠ l → p ≠ u →
    ∃ t : State, exec (.hsplit d a b) s = .next t ∧ (t.entry s.die p).state = .split ∧
      (let y := t.entry s.die l; y.state = .held ∧ y.parent = p ∧ y.sibling = u ∧ axisOf y.ext axis = at_ ∧ y.org = e.org) ∧
      (let y := t.entry s.die u; y.state = .held ∧ y.parent = p ∧ y.sibling = l ∧ axisOf y.ext axis = axisOf e.ext axis - at_ ∧
        axisOf y.org axis = (axisOf e.org axis + at_) % 65536) ∧
      (t.me.greg d).tag = .handle ∧ (t.me.greg d).val.extractLsb' 48 16 = l ∧ (t.me.greg (d + 1)).val.extractLsb' 48 16 = u ∧
      (a ≠ d → a ≠ d + 1 → (t.me.greg a).tag = .movedFrom)) ∧
  (∀ (d a b : R) (m n : BitVec 16) (x y : TEntry), s.heldHandle a = .ok (m, x) → s.heldHandle b = .ok (n, y) → d ≠ 0 →
    (d = a ∨ d = b ∨ s.Takes d) → m ≠ n → x.parent ≠ m → x.parent = y.parent → x.parent ≠ n → x.sibling = n → y.sibling = m →
    (x.pending = [] → y.pending = [] → ∃ t : State, exec (.hjoin d a b) s = .next t ∧ (t.entry s.die x.parent).state = .held ∧
      (t.entry s.die m).state = .free ∧ (t.entry s.die n).state = .free ∧
      t.me.greg d = ⟨x.parent ++ (s.entry s.die x.parent).gen ++ 0#40, .handle⟩) ∧
    (x.pending ≠ [] ∨ y.pending ≠ [] → exec (.hjoin d a b) s = .next (s.waits (some (.handle s.die [m, n]))))) ∧
  (∀ (a : R) (p : P) (post : Bool) (n : BitVec 16) (e : TEntry) (r : Region) (o : Nat) (x : List (Nat × Nat)) (s1 : State),
    (s.engReady .copy = .ok () → s.hcpyChecks a p true = .ok ((n, e, r, o), x, s1) →
      ∃ t : State, ∃ c : Cmd, exec (.hcpyOut a p post) s = .next t ∧ t.core.cmds = s1.core.cmds ++ [c] ∧ c.op = .hcpyOut s1.die n o r ∧
        (t.entry s1.die n).pending = (s1.entry s1.die n).pending ++ [c.id] ∧ t.agenda = s1.agenda ++ [.commandStart s1.act.core .copy] ∧
        t.me = { (s1.me.bump p post) with pc := s1.act.next, wait := none }) ∧
    (s.hcpyChecks a p false = .ok ((n, e, r, o), x, s1) → e.pending ≠ [] →
      exec (.hcpyIn a p post) s = .next (s.waits (some (.handle s1.die [n])))) ∧
    (s.hcpyChecks a p false = .ok ((n, e, r, o), x, s1) → e.pending = [] → s1.EngineClear →
      s1.Served s1.core.owner → s1.PoolSound → s1.core.deferred = [] →
      (∀ w ∈ spanWords o r.bytes, w ∉ s1.core.marks) →
      ∃ t : State, exec (.hcpyIn a p post) s = .next t ∧ t.mem = s1.mem ∧ t.me = { (s1.me.bump p post) with pc := s1.act.next, wait := none } ∧
        (∀ i j, i < r.count → j < r.size →
          t.poolByte s1.act.core (o + i * r.size + j) = s1.byteAt (cellOf (paUnder x (r.addr i)) + j)) ∧
        (∀ w ∈ spanWords o r.bytes, regionOf s1.core w = 1 → w ∈ t.core.full) ∧
        (∀ c b, (c = s1.act.core → b < o ∨ o + r.bytes ≤ b) → t.poolByte c b = s1.poolByte c b)))) ∧
  ((∀ (a b : R) (off : Nat) (n : BitVec 16) (e : TEntry) (v : Word) (s : State), WordAt s a off → s.isCompute s.act.core = true →
    s.heldHandle b = .ok (n, e) → s.Reads b v → s.core.marks.length < 64 → off ∉ s.core.full →
    (∀ m ∈ s.msgs, m.dst = s.act.core → off ∉ m.words) →
    ∃ t : State, exec (.puth a b) s = .next t ∧ t.core.word off = v ∧ off ∈ t.core.full ∧ off ∈ t.core.marks ∧
      (t.entry s.die n).state = .inWord ∧ (t.entry s.die n).word = some (s.act.core, off) ∧ (t.me.greg b).tag = .movedFrom ∧
      t.me.pc = s.act.next ∧ ∀ o : Nat, o < off ∨ off + 8 ≤ o → t.poolByte s.act.core o = s.poolByte s.act.core o) ∧
  (∀ (d a : R) (off : Nat) (s : State), WordAt s a off → s.isCompute s.act.core = true → s.Takes d → d ≠ 0 →
    let v := s.core.word off
    (off ∈ s.core.full → off ∈ s.core.marks → (s.entry s.die (v.extractLsb' 48 16)).domain = s.me.domid →
      ∃ t : State, exec (.takeh d a) s = .next t ∧ t.me.greg d = ⟨v, .handle⟩ ∧ off ∉ t.core.full ∧ off ∉ t.core.marks ∧
        (t.entry s.die (v.extractLsb' 48 16)).state = .held ∧ t.core.pool = s.core.pool ∧ t.me.pc = s.act.next) ∧
    (off ∈ s.core.full → off ∉ s.core.marks →
      exec (.takeh d a) s = .next (s.trap ⟨.handleMismatch, 0, .ofNat 64 (6 + 256 * d.toNat)⟩)) ∧
    (off ∉ s.core.full → exec (.takeh d a) s = .next ((s.modCore1 (fun k => { k with
      deferred := [⟨off, .takeh, s.cont, s.me.domid⟩] })).waits (some (.word s.act.core off))))))

/-! ### Gates, domains, traps at a boundary and pre-emption (spec/10_gates.md, spec/19_interrupted.md) -/

/-- R207 to R214, R217: The gate instructions. GCALL hides every register but the gate's arguments and saves the caller in a frame; GRET
gives it back, with g16 to g23 as results and g1 = 0; a gate that is not open to the caller is not entered. -/
def Obligations.GateInstructions : Prop :=
  (∀ (gate : BitVec 12) (a b : R) (s : State), s.me.level = .user → s.me.frames.length < 8 →
    let e := s.gate gate
    (e.state = .free ∨ e.callers.getLsbD s.me.domid.toNat = false →
      exec (.gcall gate a b) s = .next (s.trap ⟨.gateInvalid, 0, .ofNat 64 gate.toNat⟩)) ∧
    (e.callers.getLsbD s.me.domid.toNat = true → s.Takes 1 →
      (e.state = .revoked → exec (.gcall gate a b) s = .next (s.gives 1 1)) ∧
      (e.state = .closed → exec (.gcall gate a b) s = .next (s.gives 1 5))) ∧
    (∀ base len : Word, e.state = .opened → e.callers.getLsbD s.me.domid.toNat = true → s.Reads a base → s.Reads b len →
      len.toNat ≤ e.wmax.toNat → (len = 0 ∨ classOf base = .global) →
      let arg := fun (n : R) => 16 ≤ n.toNat ∧ n.toNat < 16 + e.nargs.toNat
      (∀ n : R, arg n → s.me.tagOf n ≠ .handle ∧ s.me.tagOf n ≠ .movedFrom) →
      ∃ t : State, ∃ f : Frame, exec (.gcall gate a b) s = .next t ∧ t.me.pc = e.entry ∧ t.me.domid = e.domain ∧ t.me.level = .user ∧
        (∀ n : R, arg n → t.me.greg n = s.me.greg n) ∧ (∀ n : R, ¬arg n → t.me.rdG n = .ok 0) ∧ (∀ n : R, t.me.rdV n = 0) ∧ (∀ n : P, t.me.rdP n = 0) ∧
        t.me.lc = Vector.replicate 3 zeroLoop ∧ t.me.sys = startSys ∧ t.me.frames = f :: s.me.frames ∧ f.ret = s.act.next ∧
        f.caller = s.me.domid ∧ f.gate = gate ∧ f.gbase = base ∧ f.glen = len ∧ f.g = s.me.g ∧ f.v = s.me.v ∧ f.p = s.me.p ∧
        f.lc = s.me.lc ∧ f.sys = s.me.sys ∧ f.left = (if e.budget = 0 then none else some e.budget.toNat) ∧ SameButTrace s t)) ∧
  (∀ (gate : BitVec 12) (a b : R) (s : State),
    (s.me.level ≠ .user → exec (.gcall gate a b) s = .next (s.trap ⟨.gateInvalid, 0, .ofNat 64 (0xF000 + gate.toNat)⟩)) ∧
    (s.me.level = .user → s.me.frames.length = 8 → exec (.gcall gate a b) s = .next (s.trap ⟨.gateDepth, 0, .ofNat 64 gate.toNat⟩))) ∧
  (∀ (s : State), s.me.level = .user →
    (s.me.frames = [] → exec .gret s = .next (s.trap ⟨.gateInvalid, 0, 0⟩)) ∧
    (∀ (f : Frame) (r : List Frame), s.me.frames = f :: r →
      (s.me.handleMask ≠ 0 → exec .gret s = .next (s.trap ⟨.handleLimit, 0, s.me.handleMask⟩)) ∧
      (s.me.handleMask = 0 → s.openChannel s.me.frames.length = none → f.intact = false →
        exec .gret s = .next ((s.breakSeal s.act.core s.act.thr).out .retired)) ∧
      (s.me.handleMask = 0 → s.openChannel s.me.frames.length = none → f.intact = true →
        ∃ t : State, exec .gret s = .next t ∧ t.act.out = .crossed) ∧
      (s.me.handleMask = 0 → s.openChannel s.me.frames.length = none → f.intact = true → (∀ d, (s.domain d).state ≠ .revoked) →
        ∃ t : State, exec .gret s = .next t ∧ t.me.pc = f.ret ∧ t.me.domid = f.caller ∧ t.me.frames = r ∧ t.me.level = .user ∧
          t.me.v = f.v ∧ t.me.p = f.p ∧ t.me.lc = f.lc ∧ t.me.sys = f.sys ∧
          (∀ n : R, 16 ≤ n.toNat → n.toNat < 24 → t.me.greg n = s.me.greg n) ∧ t.me.greg 1 = ⟨0, .plain⟩ ∧
          (∀ n : R, n ≠ 1 → ¬(16 ≤ n.toNat ∧ n.toNat < 24) → t.me.greg n = f.g[n.toNat]'n.isLt) ∧
          (∀ c : Nat, (t.getCore c).pool = (s.getCore c).pool) ∧ t.mem = s.mem))) ∧
  (∀ (d a : R) (x : Word) (w : List Word) (s t : State), s.me.level ≠ .user → s.Reads a x → x.toNat % 64 = 0 → s.Takes d →
    s.readWords (fun _ => none) x 8 = .ok (w, t) →
    let g := gateOf w
    (requestOk w = false → exec (.gopen d a) s = .next (t.gives d 0x8000000000000003)) ∧
    (requestOk w = true → ¬((t.domain g.domain).state = .live ∧ (t.domain g.domain).owner = t.core.owner) →
      exec (.gopen d a) s = .next (t.gives d 0x8000000000000002)) ∧
    (requestOk w = true → (t.domain g.domain).state = .live → (t.domain g.domain).owner = t.core.owner →
      (t.freeGates = [] → exec (.gopen d a) s = .next (t.gives d 0x8000000000000001)) ∧
      (t.freeGates ≠ [] → ∃ u : State, ∃ n : BitVec 12, exec (.gopen d a) s = .next u ∧ (t.gate n).state = .free ∧ u.gate n = g ∧
        g.state = .opened ∧ u.me.g = (t.me.setG d (n.setWidth 64)).g ∧ u.me.pc = t.act.next ∧ ∀ m : BitVec 12, m ≠ n → u.gate m = t.gate m))) ∧
  (∀ (a : R) (x : Word) (s : State), s.me.level ≠ .user → s.Reads a x →
    let n := x.extractLsb' 0 12
    let g := s.gate n
    (4096 ≤ x.toNat ∨ g.state = .free ∨ (s.domain g.domain).owner ≠ s.core.owner →
      exec (.gclose a) s = .next (s.trap ⟨.gateInvalid, 0, x⟩)) ∧
    (x.toNat < 4096 → g.state = .opened → (s.domain g.domain).owner = s.core.owner →
      ∃ t : State, exec (.gclose a) s = .next t ∧ t.gate n = { g with state := .closed } ∧ (∀ m : BitVec 12, m ≠ n → t.gate m = s.gate m) ∧
        t.me = { s.me with pc := s.act.next, wait := none }) ∧
    (x.toNat < 4096 → g.state ≠ .opened → g.state ≠ .free → (s.domain g.domain).owner = s.core.owner →
      exec (.gclose a) s = .next s.fell)) ∧
  (∀ (d a : R) (x : Word) (s : State), s.Reads a x → s.Takes d →
    let g := s.gate (x.extractLsb' 0 12)
    let may := g.state = .opened ∧ g.callers.getLsbD s.me.domid.toNat = true
    (4096 ≤ x.toNat → exec (.gquery d a) s = .next (s.gives d 0)) ∧
    (x.toNat < 4096 → (may → exec (.gquery d a) s =
        .next (s.gives d (.ofNat 64 (g.budget.toNat * 2 ^ 32 + g.nargs.toNat * 8 + 4 + g.state.code.toNat)))) ∧
      (¬may → exec (.gquery d a) s = .next (s.gives d (.ofNat 64 (g.budget.toNat * 2 ^ 32 + g.nargs.toNat * 8 + g.state.code.toNat)))))) ∧
  (∀ (d : R) (sel : BitVec 2) (s : State), s.Takes d →
    (s.me.frames = [] → exec (.dstat d sel) s = .next (s.gives d 0)) ∧
    (∀ (f : Frame) (r : List Frame), s.me.frames = f :: r → exec (.dstat d sel) s = .next (s.gives d
      (if sel = 0 then .ofNat 64 ((s.domain f.caller).owner.toNat * 256 + f.caller.toNat)
       else if sel = 1 then f.glen
       else if sel = 2 then (match f.left with | some n => .ofNat 64 n | none => 0xFFFFFFFF)
       else .ofNat 64 f.gate.toNat))))

/-- R215 to R222: Unwinding. GDONE and the expiries; an unwind starts the top frame's handler, or discards the frame and goes on at its
return location with the status in g1; a kill ends the continuation. Log entry 47 (DEDUCED): an expired budget and a give-up are due at
once, and the expiry of a handler's budget adds one to fault_count. -/
def Obligations.Unwinding : Prop :=
  (∀ (s : State), s.me.level ≠ .user →
    (s.me.inHandler = true → ∃ t : State, exec .gdoneUnwind s = .next t ∧ t.me.unwind = s.me.unwind.map (fun u => { u with handler := none }) ∧
      t.agenda = s.agenda ++ [.unwind s.act.core s.act.thr.toNat]) ∧
    (s.me.inHandler = false → exec .gdoneUnwind s = .next (s.trap ⟨.gateInvalid, 0, 0⟩)) ∧
    (s.me.active = true → s.me.frames ≠ [] → s.me.unwind = none → ∃ t : State, exec .gdoneGiveUp s = .next t ∧
      t.me.unwind = some ⟨s.me.frames.length - 1, .giveUp, 3, false, none, none, true⟩ ∧
      t.agenda = s.agenda ++ [.unwind s.act.core s.act.thr.toNat]) ∧
    (s.me.active = false ∨ s.me.frames = [] → exec .gdoneGiveUp s = .next (s.trap ⟨.gateInvalid, 0, 1⟩))) ∧
  (∀ (c i : Nat) (u : Unwind) (s : State),
    let t := s.getThread c (.ofNat 2 i)
    t.unwind = some u → t.run ≠ none → u.handler = none → u.due = true → (s.getCore c).dbg.halted = false → (s.getCore c).dbg.request = none → s.clocked c = true → t.wait = none →
    t.handleMask = 0 → s.streams = [] → t.held = [] → (∀ e ∈ s.domains, e.2.state ≠ .revoked) → t.run.bind Cont.group = none →
    (∀ (f : Frame) (r : List Frame), t.frames = f :: r → u.down = r.length → u.kill = false → (s.gate f.gate).unwind = 0 → f.intact = true →
      ∃ s' : State, exec (.unwind c i) s = .next s' ∧
        let t' := s'.getThread c (.ofNat 2 i)
        t'.pc = f.ret ∧ t'.domid = f.caller ∧ t'.frames = r ∧ t'.greg 1 = ⟨u.status, .plain⟩ ∧ t'.unwind = none ∧ t'.level = .user ∧
        (∀ n : R, 16 ≤ n.toNat → n.toNat < 24 → t'.greg n = ⟨0, .zero⟩) ∧
        (∀ n : R, n ≠ 1 → ¬(16 ≤ n.toNat ∧ n.toNat < 24) → t'.greg n = f.g[n.toNat]'n.isLt)) ∧
    (∀ (f : Frame) (r : List Frame), t.frames = f :: r → u.down ≤ r.length → (s.domain t.domid).state = .live → (s.gate f.gate).unwind ≠ 0 → f.gaveUp = false →
      ∃ s' : State, exec (.unwind c i) s = .next s' ∧
        let t' := s'.getThread c (.ofNat 2 i)
        t'.pc = (s.gate f.gate).unwind ∧ t'.level = .guest ∧ t'.domid = t.domid ∧ t'.frames = { f with gaveUp := true } :: r ∧
        t'.greg 1 = ⟨if u.why = .killed then 0x1B else 0x1A, .plain⟩ ∧ t'.greg 2 = ⟨.ofNat 64 f.gate.toNat, .plain⟩ ∧
        t'.greg 4 = ⟨u.status, .plain⟩ ∧ (∀ n : R, n ≠ 1 → n ≠ 2 → n ≠ 4 → t'.rdG n = .ok 0) ∧
        t'.unwind = some { u with handler := some Config.handlerBudget, notice := none }) ∧
    (t.frames = [] → u.down = 0 → u.kill = true →
      ∃ s' : State, exec (.unwind c i) s = .next s' ∧ s'.getThread c (.ofNat 2 i) = zeroThread)) ∧
  (∀ (c i : Nat) (u : Unwind) (s : State),
    let t := s.getThread c (.ofNat 2 i)
    t.unwind = some u →
    (u.handler = some 0 → ∃ s' : State, exec (.unwindHandlerExpiry c i) s = .next s' ∧
      (s'.getThread c (.ofNat 2 i)).unwind = some { u with handler := none } ∧ s'.agenda = s.agenda ++ [.unwind c i] ∧
      s'.launches = s.launches.map (fun l => if l.serial = t.launch then { l with faults := l.faults + 1 } else l)) ∧
    (∀ n : Nat, u.due = false → u.handler = none → t.run ≠ none → u.notice = some n → n + Config.forcedSaveCycles ≤ s.cycle →
      ∃ s' : State, exec (.forcedSave c i) s = .next s' ∧ (s'.getThread c (.ofNat 2 i)).unwind = some { u with due := true } ∧
        s'.agenda = s.agenda ++ [.unwind c i]) ∧
    ((∀ n : Nat, u.notice = some n → s.cycle < n + Config.forcedSaveCycles) → exec (.forcedSave c i) s = .next s)) ∧
  (∀ (c i n : Nat) (f : Frame) (s : State),
    let t := s.getThread c (.ofNat 2 i)
    0 < n → n ≤ t.frames.length → t.frames[t.frames.length - n]? = some f → f.left = some 0 → t.run ≠ none → t.unwind = none →
    ∃ s' : State, exec (.budgetExpiry c i n) s = .next s' ∧
      (s'.getThread c (.ofNat 2 i)).unwind = some ⟨n - 1, .expired, 4, false, none, none, true⟩ ∧
      s'.agenda = s.agenda ++ [.unwind c (BitVec.ofNat 2 i).toNat])

/-- R180, R204, R206, R218, R222: What the Lodge and the hypervisor do to domains, gates and continuations. Revoking a domain revokes its
gates, unmaps its matrices, and asks every thread that names it to unwind. Log entries 19 (when the Lodge's checks are made) and 47
(DEDUCED: a kill is due at once). -/
def Obligations.DomainSteps : Prop :=
  (∀ (dom : BitVec 8) (s : State),
    ((s.domain dom).state ≠ .live → exec (.revokeDomain dom) s = .next s) ∧
    ((s.domain dom).state = .live → ∃ t : State, exec (.revokeDomain dom) s = .next t ∧ (t.domain dom).state = .revoked ∧
      (t.domain dom).owner = (s.domain dom).owner ∧ (∀ d : BitVec 8, d ≠ dom → t.domain d = s.domain d) ∧
      (∀ n : BitVec 12, (s.gate n).domain = dom → (s.gate n).state = .opened ∨ (s.gate n).state = .closed → (t.gate n).state = .revoked) ∧
      (∀ m ∈ t.matrices, m.dom = dom → s.pendingOn m ≠ 0) ∧ .shootdown dom ∈ t.agenda ∧
      ∀ c ∈ s.coreNums, ∀ i : BitVec 2, (s.getThread c i).names dom = true → (t.getThread c i).unwind ≠ none)) ∧
  (∀ (cont c : Nat) (k : Core) (i : BitVec 2) (s : State), s.cores.find? (fun e => (e.2.runner cont).isSome) = some (c, k) →
    s.getCore c = k → k.runner cont = some i → (k.thread i).unwind = none →
    ∃ t : State, exec (.kill cont) s = .next t ∧ (t.getThread c i).unwind = some ⟨0, .killed, 6, true, none, some s.cycle, true⟩ ∧
      t.agenda = s.agenda ++ [.unwind c i.toNat]) ∧
  (∀ (g : BitVec 12) (s : State),
    ((s.gate g).state = .closed ∨ (s.gate g).state = .revoked → s.gateNamed g = false →
      ∃ t : State, exec (.gateFree g) s = .next t ∧ t.gate g = freeGate ∧ ∀ m : BitVec 12, m ≠ g → t.gate m = s.gate m) ∧
    ((s.gate g).state = .opened ∨ s.gateNamed g = true → exec (.gateFree g) s = .next s)) ∧
  (∀ (dom : BitVec 8) (owner : BitVec 4) (root : Word) (s : State),
    ((s.domain dom).state = .free ∨ s.goneDomain dom = true → ∃ t : State, exec (.domainCreate dom owner root) s = .next t ∧ t.domain dom = ⟨owner, root, 0, 0, .live⟩ ∧
      ∀ d : BitVec 8, d ≠ dom → t.domain d = s.domain d) ∧
    ((s.domain dom).state = .live → exec (.domainCreate dom owner root) s = .next s) ∧
    ((s.domain dom).state = .revoked → s.domainNamed dom = true → exec (.domainCreate dom owner root) s = .next s)) ∧
  (∀ (dom : BitVec 8) (s : State),
    let held := ∃ e ∈ s.cores, ∃ x ∈ e.2.cmds, x.dom = dom ∧ (x.xlat ≠ [] ∨ x.op.stack ≠ none)
    (held → exec (.shootdown dom) s = .next (s.post (.shootdown dom))) ∧
    (¬held → ∃ t : State, exec (.shootdown dom) s = .next t ∧ t.tlb = s.tlb.filter (fun e => e.dom != dom)) ∧
    (¬held → (s.domain dom).state = .free → (∀ d, (s.domain d).state ≠ .revoked) →
      exec (.shootdown dom) s = .next { s with tlb := s.tlb.filter (fun e => e.dom != dom) }))

/-- R374 to R390: A held cause is delivered at a boundary as an asynchronous trap; the watchdog holds its cause; a request to pre-empt
saves the continuation at a safe point under its live mask, or with everything once its time is over. -/
def Obligations.BoundariesAndPreemption : Prop :=
  (∀ (c i : Nat) (h : Held) (s : State),
    let t := s.getThread c (.ofNat 2 i)
    s.takesHeld c t = true → t.nextHeld = some h → (s.domain t.domid).tvec ≠ 0 →
    ∃ s' : State, exec (.asyncTrapDelivery c i) s = .next s' ∧
      let t' := s'.getThread c (.ofNat 2 i)
      t'.pc = (s.domain t.domid).tvec ∧ t'.sys.tpc = t.pc ∧ t'.sys.taddr = h.flt.addr ∧ t'.sys.tinfo = h.flt.info ∧
      t'.sys.tcause.toNat = 0x8200 + 0x800 * t.level.code.toNat + h.flt.cause.code.toNat ∧ t'.held = t.held.erase h ∧
      t'.level.code.toNat = max t.level.code.toNat 1 ∧ t'.shadow = t.lc ∧ t'.g = t.g ∧ t'.v = t.v ∧ t'.p = t.p ∧ t'.frames = t.frames) ∧
  (∀ (c i : Nat) (s : State),
    let t := s.getThread c (.ofNat 2 i)
    (t.wdog ≠ 0x100000000 → exec (.watchdog c i) s = .next s) ∧
    (t.wdog = 0x100000000 → t.run ≠ none → t.frames = [] → ∃ s' : State, exec (.watchdog c i) s = .next s' ∧
      (s'.getThread c (.ofNat 2 i)).wdog = 0 ∧ (s'.getThread c (.ofNat 2 i)).held = t.held ++ [⟨⟨.watchdog, 0, 0⟩, none, false⟩] ∧
      s'.agenda = s.agenda ++ [.unwind c i, .asyncTrapDelivery c i]) ∧
    (t.run ≠ none → t.preempt = none →
      exec (.preemptionRequest c i) s = .next (s.setThread c (.ofNat 2 i) { t with preempt := some 0 }))) ∧
  (∀ (c : Nat) (s : State),
    ((∀ r ∈ (s.getCore c).queue, s.pressing c r = false) → exec (.corePreemptionRequest c) s = .next s) ∧
    ((∃ r ∈ (s.getCore c).queue, s.pressing c r = true) → (∀ j : BitVec 2, (s.getThread c j).prio ≤ 3) →
      ∃ i : BitVec 2, (s.getThread c i).run ≠ none ∧
        (∀ j : BitVec 2, (s.getThread c j).run ≠ none → (s.getThread c i).prio ≤ (s.getThread c j).prio) ∧
        exec (.corePreemptionRequest c) s = .next (s.setThread c i { (s.getThread c i) with
          preempt := some ((s.getThread c i).preempt.getD 0) }))) ∧
  (∀ (c i : Nat) (s : State),
    let t := s.getThread c (.ofNat 2 i)
    s.mayPreempt c t = true →
    (t.atSafePoint = true → ∃ s' : State, ∃ p : Parked, exec (.safePointPreemption c i) s = .next s' ∧ (s'.getThread c (.ofNat 2 i)).run = none ∧
      (s'.getCore c).parked = (s.getCore c).parked ++ [p] ∧ p.resumable = true ∧ p.th.pc = t.pc ∧ p.th.frames = t.frames ∧
      (t.inWait = true ∨ t.mask = none → p.th.g = t.g ∧ p.th.v = t.v) ∧ (t.inWait = false → p.th.wait = none) ∧
      (∀ m : Word, t.inWait = false → t.mask = some m →
        (∀ n : R, m.getLsbD n.toNat = true → p.th.greg n = t.greg n) ∧
        (∀ n : R, m.getLsbD n.toNat = false → (t.greg n).tag = .plain → p.th.greg n = ⟨0, .plain⟩) ∧
        (∀ n : R, (t.greg n).tag = .handle → p.th.greg n = t.greg n) ∧
        (∀ n : R, p.th.rdV n = if m.getLsbD (32 + n.toNat) then t.rdV n else 0))) ∧
    (t.overdue = true → ∃ s' : State, ∃ p : Parked, exec (.hardPreemption c i) s = .next s' ∧ (s'.getThread c (.ofNat 2 i)).run = none ∧
      (s'.getCore c).parked = (s.getCore c).parked ++ [p] ∧ p.resumable = true ∧ p.th.g = t.g ∧ p.th.v = t.v ∧ p.th.p = t.p ∧
      p.th.pc = t.pc ∧ p.th.frames = t.frames ∧ p.inRing = !(s.getCore c).slotFree))

/-! ### The Lodge, the host, debug and power (spec/02_launched.md, spec/03_placed.md, spec/14_fed_host_tiers.md, spec/19_interrupted.md, spec/21_package_power.md) -/

/-- R32, R42, R44 to R53, R303: What the Lodge does to owners, queues, cores, time slots and collective records. A scrub leaves a core's
pool and registers zero and gives it its new owner; a schedule takes effect in a step of its own. Log entries 19, 20, 21, 24 and 25 say
what the model chose of it. -/
def Obligations.LodgeSteps : Prop :=
  (∀ (o : BitVec 4) (cert : Nat) (sp : Option (BitVec 32)) (lending : Bool) (ev ring len : Nat) (s : State),
    ((s.ownerRec o).created = false → ∃ t : State, exec (.ownerCreate o cert sp lending ev ring len) s = .next t ∧
      (let r := t.ownerRec o; r.created = true ∧ r.cert = cert ∧ r.spDefault = sp.getD 65536 ∧ r.mode = (if lending then .lending else .keeping) ∧
        r.eventWord = ev ∧ r.traceRing = ring ∧ r.traceLen = len ∧ r.confirmed = true ∧ r.frozen = none) ∧
      ∀ p : BitVec 4, p ≠ o → t.ownerRec p = s.ownerRec p) ∧
    ((s.ownerRec o).created = true → exec (.ownerCreate o cert sp lending ev ring len) s = .next s)) ∧
  (∀ (q kiosk k : Nat) (o : BitVec 4) (ring : Word) (s : State), q < 1024 → 0x408 ≤ kiosk → kiosk < 0x448 → 4 ≤ k → k ≤ 12 →
    ring.toNat % 128 = 0 → (s.ownerRec o).created = true → (s.hostq.filter (fun x => x.kiosk = kiosk && x.number != q)).length < 16 →
    exec (.queueCreate q o kiosk ring (.ofNat 32 (2 ^ k))) s = .next { s with
      hostq := s.hostq.filter (fun x => x.number != q) ++ [⟨q, ring, o, kiosk, .ofNat 32 (2 ^ k), 0, 0, 0, 0, false⟩] }) ∧
  (∀ (q kiosk ns : Nat) (o : BitVec 4) (dom : BitVec 8) (ring tail : Word) (n : BitVec 32) (s : State), 0x408 ≤ kiosk → kiosk < 0x448 →
    n ≠ 0 → (s.domain dom).state = .live → (s.domain dom).owner = o →
    exec (.storageQueueCreate q o dom kiosk ns ring n tail) s = .next { s with
      storeqs := s.storeqs.filter (fun x => x.number != q) ++ [⟨q, o, dom, kiosk, ns, ring, n, tail, 0⟩] }) ∧
  (∀ (c : Nat) (v : Bool) (o : BitVec 4) (s : State), s.isCompute c = true →
    let k := s.getCore c
    let now := (k.scrub.map (fun x => (x.1, x.2.1))).getD (k.valid, k.owner)
    (s.idleCore c = false ∨ s.streamsTo c = true ∨ now = (v, o) → exec (.ownerChange c v o) s = .next s) ∧
    (s.idleCore c = true → s.streamsTo c = false → now ≠ (v, o) → ∃ t : State, exec (.ownerChange c v o) s = .next t ∧
      (t.getCore c).valid = false ∧ (t.getCore c).scrub = some (v, o, s.cycle) ∧ ∀ e ∈ t.excl, e.1 ≠ c) ∧
    (∀ since : Nat, (s.getCore c).scrub = some (v, o, since) →
      (s.cycle < since + 8192 → exec (.scrubEnd c) s = .next s) ∧
      (since + 8192 ≤ s.cycle → ∃ t : State, exec (.scrubEnd c) s = .next t ∧
        (let k := t.getCore c; k.valid = v ∧ k.owner = o ∧ k.scrub = none ∧ k.pool = [] ∧ k.full = [] ∧ k.marks = [] ∧
          (∀ j : BitVec 8, k.sem j = 0) ∧ k.pb1 = 2 ∧ k.pb2 = 22 ∧ k.pb3 = 46) ∧
        (∀ (i : BitVec 2) (n : R), (t.getThread c i).rdG n = .ok 0 ∧ (t.getThread c i).rdV n = 0) ∧
        (∀ d : Nat, d ≠ c → t.getCore d = s.getCore d)))) ∧
  (∀ (r : Resource) (slots : List Slot) (s : State),
    (slots.length = 64 → ∃ t : State, exec (.tdmScheduleWrite r slots) s = .next t ∧ t.written r = slots ∧ (r, slots, nextSlot0 s.cycle) ∈ t.schedNew ∧
      (∀ x : Resource, t.schedule x = s.schedule x) ∧ t.mapVer = s.mapVer + 2 ∧ ∀ x : Resource, x ≠ r → t.written x = s.written x) ∧
    (slots.length ≠ 64 → exec (.tdmScheduleWrite r slots) s = .next s) ∧
    (∀ e : Resource × List Slot × Nat, s.schedNew.find? (fun x => x.1 = r && x.2.2 ≤ s.cycle) = some e →
      ∃ t : State, exec (.scheduleTakesEffect r) s = .next t ∧ t.schedule r = e.2.1 ∧ s.schedule r = e.2.1 ∧ (∀ y ∈ t.schedNew, y.1 ≠ r) ∧
        ∀ x : Resource, x ≠ r → t.schedule x = s.schedule x) ∧
    (s.schedNew.find? (fun x => x.1 = r && x.2.2 ≤ s.cycle) = none → exec (.scheduleTakesEffect r) s = .next s)) ∧
  (∀ (l : Launch) (pa : Nat) (id : BitVec 16) (names : List Nat) (s : State), s.launchOf l.serial = some l →
    (∀ u : State, s.dropEnded.collective l pa = .ok (id, names, u) → ∃ t : State, exec (.collectiveRegister l.serial pa) s = .next t ∧
      t.collects = s.dropEnded.collects ++ [⟨l.serial, pa, id, names, names.map (u.digestsOf l), false⟩]) ∧
    (mustWait (s.dropEnded.collective l pa) = true → exec (.collectiveRegister l.serial pa) s = .next (s.post (.collectiveRegister l.serial pa))) ∧
    (∀ f : Flt, s.dropEnded.collective l pa = .error (.fault f) → exec (.collectiveRegister l.serial pa) s = .next s)) ∧
  (∀ (l : Launch) (m j d : Nat) (s : State), s.launches = [l] → l.gang.table.findIdx? (fun x => x = m) = some j →
    ((∃ x ∈ s.dropEnded.collects, x.launch = l.serial ∧ x.differs j d = true) →
      ∃ t : State, exec (.memberChanged m d) s = .next t ∧ t.refused = s.refused ++ [(m, l.gang.gangId)] ∧
        (∀ x ∈ t.collects, x.launch = l.serial → x.names.contains j = true → x.written = true) ∧
        (s.streams.Pairwise (fun x y => x.id ≠ y.id) → ∀ x ∈ t.streams, x.launch = l.serial → x.beyond.getD s.module.toNat = m → x.broken ≠ none)) ∧
    ((∀ x ∈ s.dropEnded.collects, x.launch = l.serial → x.differs j d = false) → exec (.memberChanged m d) s = .next s.dropEnded)) ∧
  (∀ (s : State), (∃ t : State, exec .hotReset s = .next t ∧ t.ctlUp = false ∧ t.sessions = [] ∧
      t.hostq = s.hostq.map (fun q : HostQueue => { q with head := q.tail, errCode := 3, errIdx := q.head.setWidth 56 }) ∧
      ∀ o : BitVec 4, (t.ownerRec o).confirmed = ((s.ownerRec o).confirmed && !s.liveContexts o)) ∧
    exec .controlLinkReturn s = .next { s with ctlUp := true, ctlBack := some s.ns }) ∧
  (∀ (o : BitVec 4) (s : State),
    (s.freezes o = true → ∃ t : State, exec (.ownerFreeze o) s = .next t ∧ (t.ownerRec o).frozen = some s.ns ∧
      ∀ c ∈ s.coreNums, ∀ i : BitVec 2, (s.getThread c i).run.map Cont.owner = some o → (t.getThread c i).preempt ≠ none) ∧
    (s.scrubs o = false → exec (.ownerScrub o) s = .next s) ∧
    (s.scrubs o = true → ∃ t : State, exec (.ownerScrub o) s = .next t ∧ (∀ l ∈ t.launches, l.owner ≠ o) ∧
      (∀ d : BitVec 8, (s.domain d).owner = o → (s.domain d).state ≠ .free → (t.domain d).state = .revoked ∧ (t.domain d).key = 0) ∧
      (s.ownerRuns o = true → t.ownerRec o = s.ownerRec o ∧
        ∀ c ∈ s.coreNums, ∀ i : BitVec 2, (s.getThread c i).ownedBy o = true →
          ∃ u : Unwind, (t.getThread c i).unwind = some u ∧ u.kill = true ∧ u.why = .killed ∧ u.due = true) ∧
      (s.ownerRuns o = false → (s.endOwner o).ownerRevoked o = false → t = s.endOwner o) ∧
      (s.ownerRuns o = false → (s.endOwner o).ownerRevoked o = true → (t.ownerRec o).created = false ∧
        ∀ c ∈ s.locked o, (t.getCore c).valid = false ∧ (t.getCore c).scrub = some (false, 0, s.cycle) ∧
          (t.getCore c).queue = [] ∧ (t.getCore c).ring = [] ∧ (t.getCore c).cmds = [])))

/-- R43, R44: A request of the SPDM standard that comes in its order advances the session and gets an answer, and one that comes early is
unexpected; the vendor's requests need the authenticated requester of the owner (log entry 22). -/
def Obligations.SpdmSessions : Prop :=
  (∀ e ∈ ([(.getCapabilities, 2), (.negotiateAlgorithms, 3), (.getDigests, 4), (.getCertificate, 4), (.challenge, 5)] :
      List ((Nat → Instr) × Nat)), ∀ (id : Nat) (s : State), s.answers = true →
    let x := s.session id
    (x.stage + 1 < e.2 → exec (e.1 id) s = .next (s.setSession { x with reply := .unexpected })) ∧
    (e.2 ≤ x.stage + 1 → ∃ n : Nat, exec (e.1 id) s = .next (s.setSession { x with stage := max x.stage e.2, reply := .answer n }))) ∧
  (∀ (id cert : Nat) (s : State), s.answers = true →
    let x := s.session id
    (5 ≤ x.stage → exec (.getMeasurements id) s = .next (s.setSession { x with stage := max x.stage 6, reply := .indices s.meas })) ∧
    (6 ≤ x.stage → ∃ n : Nat, exec (.keyExchange id) s = .next (s.setSession { x with stage := 7, cert := none, reply := .answer n })) ∧
    (x.stage = 7 → ∃ n : Nat, exec (.finish id cert) s =
      .next (s.setSession { x with stage := 8, cert := some cert, reply := .answer n })) ∧
    (x.stage ≠ 7 → exec (.finish id cert) s = .next (s.setSession { x with reply := .unexpected })) ∧
    exec (.endSession id) s = .next { s with sessions := s.sessions.filter (fun y => y.id != id) }) ∧
  (∀ (id : Nat) (s : State), s.tripped = false → s.ctlUp = true →
    ∃ n : Nat, exec (.getVersion id) s = .next (s.setSession ⟨id, 1, none, .answer n⟩)) ∧
  (∀ (id : Nat) (o : BitVec 4) (dom : BitVec 8) (key : BitVec 256) (s : State), s.answers = true →
    let x := s.session id
    let no := s.setSession { x with reply := .unexpected }
    let ours := fun (o : BitVec 4) => x.stage = 8 ∧ (s.ownerRec o).created = true ∧ x.cert = some (s.ownerRec o).cert
    (ours o → ∃ t : State, exec (.resumeOwner id o) s = .next t ∧ (t.ownerRec o).confirmed = true ∧ (t.ownerRec o).frozen = none) ∧
    (ours o → exec (.ownerDigest id o) s = .next (s.setSession { x with reply := .index (getKey (0x10 + o.toNat) 0 s.meas) })) ∧
    (¬ours o → exec (.resumeOwner id o) s = .next no ∧ exec (.ownerDigest id o) s = .next no) ∧
    ((s.domain dom).state = .live → ours (s.domain dom).owner → ∃ t : State, exec (.installKey id dom key) s = .next t ∧
      t.domain dom = { s.domain dom with key := key } ∧ ∀ d : BitVec 8, d ≠ dom → t.domain d = s.domain d) ∧
    (¬ours (s.domain dom).owner → exec (.installKey id dom key) s = .next no))

/-- R30, R31, R287 to R305: The host's side. A CXL.mem write reaches host-shared memory only and stands in memory after XFENCE, the last
of several in one half; a snoop of a host line answers what the device holds; a link loss strands the dirty halves; a page moves, with its
bytes, to its other tier; a storage command is taken from its queue and gets its record. Log entries 29 to 32, 60 and 73 say what the
model chose of it. -/
def Obligations.HostSteps : Prop :=
  (∀ (s : State),
    (s.ctlUp = false → exec .xfenceRead s = .next s) ∧
    (s.ctlUp = true → s.cxlUp = true → ∃ t : State, exec .xfenceRead s = .next t ∧ t.cxlBuf = [] ∧ t.xfence = 1 ∧
      t.xfences = s.xfences ++ [1] ∧
      (s.MemOk → s.ucopies = [] → (∀ e ∈ s.cxlBuf, halfOf e.1 = e.1 ∧ cellOf e.1 = e.1 ∧ paSpace e.1 ≤ 2) →
        (∀ (l r : List (Nat × BitVec 512)) (a : Nat) (v : BitVec 512), s.cxlBuf = l ++ (a, v) :: r → (∀ e ∈ r, e.1 ≠ a) → t.half a = v) ∧
        ∀ a : Nat, (∀ e ∈ s.cxlBuf, halfOf a ≠ e.1) → t.byteAt a = s.byteAt a)) ∧
    (s.ctlUp = true → s.cxlUp = false → exec .xfenceRead s = .next { s with xfence := 2, xfences := s.xfences ++ [2] }) ∧
    exec .strandedClear s = .next { s with stranded := [], strandOn := false } ∧
    exec .dataLinkReturn s = .next { s with cxlUp := true } ∧
    (s.cxlUp = false → exec .cxlLinkDown s = .next s) ∧
    (s.cxlUp = true → ∃ t : State, exec .cxlLinkDown s = .next t ∧ t.cxlUp = false ∧ t.strandOn = true ∧ t.hostLine = [] ∧
      t.stranded.map Stranded.pa = s.stranded.map Stranded.pa ++ s.hostLine.map Prod.fst ∧ (∀ e ∈ t.excl, paSpace e.2 ≠ 3))) ∧
  (∀ (pa : Nat) (v : BitVec 512) (s : State), s.cxlUp = true → paOk pa = true → paSpace pa ≤ 2 →
    let cell := cellOf (halfOf pa)
    (s.hostMay cell = true → s.inMotion cell = false → ∃ t : State, exec (.cxlMemAccess pa (some v)) s = .next t ∧
      t.cxlBuf = s.cxlBuf ++ [(cell, v)] ∧ t.mem = s.mem ∧ t.rasLog = s.rasLog) ∧
    (s.hostMay cell = true → s.inMotion cell = true → s.cxlBuf = [] →
      exec (.cxlMemAccess pa (some v)) s = .next ((s.countHost cell).poke (s.authority cell) 64 v.toNat)) ∧
    (s.hostMay cell = false →
      (∃ t : State, exec (.cxlMemAccess pa (some v)) s = .next t ∧ t.cxlBuf = s.cxlBuf ∧ t.mem = s.mem ∧ t.rasLog = s.rasLog ++ [pa]) ∧
      (∃ t : State, exec (.cxlMemAccess pa none) s = .next t ∧ t.hostRead = some 0 ∧ t.rasLog = s.rasLog ++ [pa])) ∧
    (s.hostMay cell = true → s.ucopies = [] → s.bad = [] → s.cxlBuf = [] →
      ∃ t : State, exec (.cxlMemAccess pa none) s = .next t ∧ t.hostRead = some (s.half (s.authority cell)) ∧ t.mem = s.mem)) ∧
  (∀ (pa : Nat) (s : State), paSpace pa = 3 → s.cxlUp = true → s.cxlBuf = [] → s.ucopies = [] →
    let seen := some (s.sealedHalf pa (s.half (s.authority pa)))
    (∃ t : State, exec (.snpData pa) s = .next t ∧ t.hostRead = seen ∧ (∀ e ∈ t.excl, e.2 ≠ lineOf pa) ∧ t.cores = s.cores ∧
      ∀ e ∈ t.hostLine, e.1 ≠ halfOf pa) ∧
    (∃ t : State, exec (.snpInv pa) s = .next t ∧ t.hostRead = seen ∧ (∀ e ∈ t.excl, e.2 ≠ lineOf pa) ∧
      ∀ e ∈ t.hostLine, e.1 ≠ halfOf pa) ∧
    (∃ t : State, exec (.snpCur pa) s = .next t ∧ t.hostRead = seen ∧ t.excl = s.excl ∧ t.hostLine = s.hostLine ∧ t.mem = s.mem)) ∧
  (∀ (s : State),
    (s.migctl.extractLsb' 8 8 = 0 → exec .migrationEpoch s = .next s) ∧
    (s.migctl.extractLsb' 8 8 ≠ 0 → ∃ t : State, exec .migrationEpoch s = .next t ∧
      (∀ p ∈ t.migTable, p.devHits = 0 ∧ p.hostHits = 0) ∧ t.migTable.map MigPage.id = s.migTable.map MigPage.id ∧
      (s.hostDown = true → t.migTable.map MigPage.moving = s.migTable.map MigPage.moving))) ∧
  (∀ (p : MigPage) (s : State), s.migTable.find? (fun x => x.id = p.id && x.moving) = some p →
    let src := if p.atHost then p.host else p.dev
    let dst := if p.atHost then p.dev else p.host
    let apart := fun (pa n : Nat) => ∀ j i : Nat, j < n → i < 65536 → cellOf pa + j ≠ cellOf (dst + i)
    let event := s.migRing + 16 * (s.migNext % migRingSize)
    let goes := s.hostDown = false ∧ s.movable p = true ∧ ∀ d ∈ s.leafDomains p, s.translating d = false
    (¬goes → exec (.pageMove p.id) s = .next (s.post (.pageMove p.id))) ∧
    (goes → ∃ t : State, exec (.pageMove p.id) s = .next t ∧ t.migNext = s.migNext + 1 ∧
      { p with atHost := !p.atHost, moving := false } ∈ t.migTable ∧
      (s.late = [] → ∀ e ∈ t.tlb, frameOf e.pa ≠ src ∧ e.dom ∉ s.leafDomains p) ∧
      (s.MemOk → s.ucopies = [] → s.cxlBuf = [] → s.late = [] → s.hostLine.Pairwise (fun x y => x.1 ≠ y.1) →
        (∀ e ∈ s.hostLine, halfOf e.1 = e.1 ∧ paSpace e.1 = 3) → frameOf p.dev = p.dev → frameOf p.host = p.host → paOk p.dev = true →
        (∀ a ∈ p.leaves, apart a 8) → (s.migRing = 0 ∨ apart event 8 ∧ apart (event + 8) 8) →
        ∀ i : Nat, i < 65536 → t.byteAt (cellOf (dst + i)) = s.byteAt (cellOf (src + i))))) ∧
  (∀ (c i since r : Nat) (va : Word) (s : State),
    let th := s.getThread c (.ofNat 2 i)
    th.wait = some ⟨.moving va, .no, since, r⟩ → th.run ≠ none → (s.getCore c).dbg.halted = false →
    (s.getCore c).dbg.request = none → s.clocked c = true →
    (s.ns < since + 50000 → exec (.migrationTimeout c i) s = .next s) ∧
    (since + 50000 ≤ s.ns → th.active = false → th.unwind = none → th.held = [] → th.preempt = none → (s.domain th.domid).tvec ≠ 0 →
      ∃ t : State, exec (.migrationTimeout c i) s = .next t ∧ (t.getThread c (.ofNat 2 i)).pc = (s.domain th.domid).tvec ∧
        (t.getThread c (.ofNat 2 i)).sys.tcause.toNat % 256 = 0x32 ∧ (t.getThread c (.ofNat 2 i)).sys.taddr = va ∧
        (t.getThread c (.ofNat 2 i)).sys.tpc = th.pc)) ∧
  (∀ (q : StorageQueue) (tail : List Word) (s s1 : State), s.storeqs.find? (fun x => x.number = q.number) = some q →
    (mustWait (s.storageWords q) = true → exec (.storageEntry q.number) s = .next (s.post (.storageEntry q.number))) ∧
    (s.domainWords q.dom q.tailVa 1 = .ok (tail, s1) → (tail.getD 0 0).toNat ≤ q.head → exec (.storageEntry q.number) s = .next s) ∧
    (∀ (w : List Word) (s2 : State), s.domainWords q.dom q.tailVa 1 = .ok (tail, s1) → q.head < (tail.getD 0 0).toNat →
      s1.domainWords q.dom (q.ring + .ofNat 64 (q.head % q.entries.toNat * 64)) 8 = .ok (w, s2) →
      let x : StorageCmd := ⟨s2.nextId, q.number, q.dom, w⟩
      let u : State := { s2 with
        nextId := s2.nextId + 1
        storeqs := s2.storeqs.map (fun y : StorageQueue => if y.number = q.number then { y with head := q.head + 1 } else y)
        agenda := if q.head + 1 < (tail.getD 0 0).toNat then s2.agenda ++ [.storageEntry q.number] else s2.agenda }
      (entryOk w = true → u.bufferMay x = .ok () → exec (.storageEntry q.number) s = .next { u with storing := u.storing ++ [x] }) ∧
      (∀ (f : Flt) (t : State), entryOk w = true → u.bufferMay x = .error (.fault f) → u.storageRecord x 3 0 0 = .ok t →
        exec (.storageEntry q.number) s = .next t) ∧
      (∀ t : State, entryOk w = false → u.storageRecord x 2 0 0 = .ok t → exec (.storageEntry q.number) s = .next t))) ∧
  (∀ (x : StorageCmd) (s : State), s.storing.find? (fun y => y.id = x.id) = some x →
    let u : State := { s with storing := s.storing.filter (fun y => y.id != x.id) }
    let ends := fun (r : StorageResult) (u : State) (status : BitVec 8) (moved : Nat) =>
      ∀ t : State, u.storageRecord x status 0 moved = .ok t → exec (.storageCompletion x.id r) s = .next t
    (∀ r : StorageResult, mustWait (u.storageEnd x r) = true → exec (.storageCompletion x.id r) s = .next (s.post (.storageCompletion x.id r))) ∧
    ends .notFound u 1 0 ∧ ends .unreachable u 5 0 ∧
    (∀ v : List Byte,
      (cmdOp x.words = 1 → ends (.success v) u 0 (valueLen x.words)) ∧
      (cmdOp x.words = 3 ∨ cmdOp x.words = 4 → ends (.success v) u 0 0) ∧
      (∀ w : State, cmdOp x.words = 2 → v.length ≤ valueLen x.words → u.domainPut x.dom (x.words.getD 3 0) v = .ok w →
        ends (.success v) w 0 v.length)) ∧
    (∀ (va : Word) (t : State), x.words.getD 5 0 = va → va.toNat % 16 = 0 →
      u.domainPut x.dom va (wordBytes [1, 0]) = .ok t → exec (.storageCompletion x.id .notFound) s = .next t))

/-- R391 to R397: The debug module. A halt takes effect once no instruction is in progress, a resume ends it; DBGDATA reads and writes the
state that DBGSEL names, for a requester of the owner, while the core is halted, a register of a thread with an instruction outstanding so
that what that returns does not replace the value; every refusal is recorded in DBGSTAT (log entry 42 says what an access without an owner
does). R381, R412 to R415: The sensors, the clocks, the power states and the steps of bring-up (log entries 33, 34 and 74 for what the
model chose there: 74, DESIGN CHOICE, counts the records that wait at cores and dies among the launch queues). -/
def Obligations.DebugAndPower : Prop :=
  (∀ (c : Nat) (q : Requester) (s : State), s.isCompute c = true →
    let d := (s.getCore c).dbg
    let error := fun (e : BitVec 4) => s.setCore c { s.getCore c with dbg := { d with error := e } }
    (q.level.toNat < 2 → exec (.debugHalt c q) s = .next (error 2) ∧ exec (.debugResume c q) s = .next (error 2)) ∧
    (2 ≤ q.level.toNat → d.attached = true → d.halted = false →
      ∃ t : State, exec (.debugHalt c q) s = .next t ∧ (t.getCore c).dbg.request = some 1 ∧ (t.getCore c).dbg.error = 0 ∧
        t.agenda = s.agenda ++ [.debugStop c]) ∧
    (2 ≤ q.level.toNat → d.halted = true → ∃ t : State, exec (.debugResume c q) s = .next t ∧ (t.getCore c).dbg.halted = false ∧
      (t.getCore c).dbg.request = none ∧ ∀ i : BitVec 2, (t.getThread c i).exempt = true ∧ (t.getThread c i).pc = (s.getThread c i).pc) ∧
    (∀ r : BitVec 8, d.request = some r →
      ((∀ i : BitVec 2, (s.getThread c i).inProgress = false) → ∃ t : State, exec (.debugStop c) s = .next t ∧
        (t.getCore c).dbg = { d with halted := true, request := none, reason := r, stepping := false } ∧
        ∀ i : BitVec 2, t.getThread c i = (s.getThread c i).queueEvent) ∧
      ((∃ i : BitVec 2, (s.getThread c i).inProgress = true) → exec (.debugStop c) s = .next (s.post (.debugStop c)))) ∧
    (s.stopOver c = true → ∃ t : State, exec (.debugStopRevocation c) s = .next t ∧ (t.getCore c).dbg.halted = false ∧
      (t.getCore c).dbg.reason = 6) ∧
    (s.stopOver c = false → exec (.debugStopRevocation c) s = .next s) ∧
    (∀ w : Option Word, (q.level = 0 → exec (.dbgData c q w) s = .next (error 2)) ∧
      (q.level ≠ 0 → d.halted = false → exec (.dbgData c q w) s = .next (error 1))) ∧
    (q.level ≠ 0 → d.halted = true →
      let i := d.sel.extractLsb' 14 2
      let n := d.sel.extractLsb' 0 5
      let mine := q.owner = some (s.domain (s.getThread c i).domid).owner
      (∃ y : Word, exec (.dbgData c q none) s = .next ((error 0).modDbg c (fun e => { e with data := y })) ∧ (¬mine → y = 0) ∧
        (mine → d.sel.extractLsb' 11 3 = 0 → (d.sel.extractLsb' 0 11).toNat < 32 →
          y = ((s.getThread c i).landed.greg n).val ∧ ((s.getThread c i).late = [] → y = ((s.getThread c i).greg n).val)) ∧
        (mine → d.sel.extractLsb' 11 3 = 4 → y = (s.getThread c i).pc)) ∧
      ∀ x : Word,
        (q.owner ≠ some (s.domain (s.getThread c i).domid).owner → exec (.dbgData c q (some x)) s = .next (error 4)) ∧
        (q.owner = some (s.domain (s.getThread c i).domid).owner → d.sel.extractLsb' 11 3 = 0 → (d.sel.extractLsb' 0 11).toNat < 32 →
          ((s.getThread c i).tagOf n = .handle → exec (.dbgData c q (some x)) s = .next (error 3)) ∧
          ((s.getThread c i).tagOf n ≠ .handle → n ≠ 0 → (s.getThread c i).wait = none → ∃ t : State, exec (.dbgData c q (some x)) s = .next t ∧
            (t.getThread c i).greg n = ⟨x, .plain⟩ ∧ (∀ m : R, m ≠ n → (t.getThread c i).greg m = (s.getThread c i).greg m) ∧
            (t.getCore c).dbg.error = 0) ∧
          ((s.getThread c i).tagOf n ≠ .handle → n ≠ 0 → (s.getThread c i).wait ≠ none → ∃ t : State, exec (.dbgData c q (some x)) s = .next t ∧
            t.getThread c i = { s.getThread c i with late := (s.getThread c i).late ++ [(d.sel, x)] } ∧
            (t.getThread c i).landed.greg n = ⟨x, .plain⟩ ∧ (t.getCore c).dbg.error = 0))) ∧
    (∀ v : Word,
      (2 ≤ q.level.toNat → v.getLsbD 2 = false → v.getLsbD 3 = false → ∃ t : State, exec (.registerWrite (.dbgctl c) q v) s = .next t ∧
        (let e := (t.getCore c).dbg; e.attached = v.getLsbD 0 ∧ e.brkHalt = v.getLsbD 4 ∧ e.stepThr = v.extractLsb' 5 2 ∧
          e.step = v.getLsbD 7 ∧ e.traceOn = v.getLsbD 8 ∧ e.halted = d.halted)) ∧
      (q.level ≠ 0 → ∃ t : State, exec (.registerWrite (.dbgsel c) q v) s = .next t ∧ (t.getCore c).dbg.sel = v.extractLsb' 0 16) ∧
      (∀ n : BitVec 2, (if v.getLsbD 61 then 1 else 2) ≤ q.level.toNat → ∃ t : State,
        exec (.registerWrite (.dbgm c n) q v) s = .next t ∧ (t.getCore c).dbg.m[n.toNat]'n.isLt = ⟨v, q.owner⟩))) ∧
  (∀ (q : Requester) (v : Word) (s : State), exec (.registerWrite .migctl q v) s = .next { s with migctl := v &&& 0xFFFFFF03 } ∧
    exec (.registerWrite .xfence q v) s = .next s) ∧
  (∀ (d : BitVec 2) (reading : BitVec 8) (s : State),
    let k := s.clock d.toNat
    (∃ t : State, exec (.sensorAlarm d .temperature reading) s = .next t ∧ t.clock d.toNat = { k with alarm := true, clear := none } ∧
      ∀ c ∈ s.coreNums, s.isCompute c = true → c / 256 % 4 = d.toNat → ∀ i : BitVec 2, (s.getThread c i).run ≠ none →
        (t.getThread c i).held.getLast? = some ⟨⟨.envAlarm, 0, .ofNat 64 (reading.toNat * 256 + d.toNat * 16 + 2)⟩, none, false⟩) ∧
    (∃ t : State, exec (.sensorAlarm d .clock reading) s = .next t ∧ t.clock d.toNat = { k with held := true }) ∧
    (∃ t : State, exec (.lossOfLock d.toNat) s = .next t ∧ t.clock d.toNat = { k with held := true }) ∧
    (∃ t : State, exec (.lockReturn d.toNat) s = .next t ∧ t.clock d.toNat = { k with held := false }) ∧
    (∃ t : State, exec (.alarmConditionClear d.toNat) s = .next t ∧ t.clock d.toNat = { k with alarm := false, clear := some s.ns }) ∧
    (k.alarm = true → ∃ t : State, exec (.clockThrottleStep d.toNat) s = .next t ∧ (t.clock d.toNat).mhz = max 625 (k.mhz - 125) ∧
      ∀ e : BitVec 2, e ≠ d → t.clock e.toNat = s.clock e.toNat) ∧
    (∀ since : Nat, k.alarm = false → k.clear = some since → since + 10000000 ≤ s.ns →
      ∃ t : State, exec (.clockRestoreStep d.toNat) s = .next t ∧ (t.clock d.toNat).mhz = min 1250 (k.mhz + 125))) ∧
  (∀ (s : State) (a b : Nat),
    (∀ e ∈ [(TripCause.overVoltage, (5 : BitVec 8)), (.thermal, 6)], exec (.trip e.1) s = .next { s with
      tripped := true, bootCause := e.2, booting := none, cores := []
      agenda := (match s.booting with | some r => s.agenda.erase (.fundamentalReset r) | none => s.agenda)
      mem := s.mem.filter (fun x => paSpace x.1 != 1 && paSpace x.1 != 2)
      tlb := [], ucopies := [], excl := [], hostLine := [] }) ∧
    exec .wake s = .next { s with power := .active } ∧ exec (.ltrMessage a b) s = .next { s with ltr := some (a, b) } ∧
    (s.power = .active → s.restful = true → s.ltr = some (a, b) → exec .powerStateEntry s = .next { s with power :=
      if 2000000 ≤ (min a b : Nat) then .sleep else if 40000 ≤ (min a b : Nat) then .doze else if 2000 ≤ (min a b : Nat) then .nap else .active }) ∧
    (s.power = .active → s.restful = true → s.ltr = none → exec .powerStateEntry s = .next { s with power := .nap }) ∧
    (s.restful = false → exec .powerStateEntry s = .next s)) ∧
  (∀ (r : BootResult) (s : State), s.booting ≠ some r → ∃ t : State, exec (.fundamentalReset r) s = .next t ∧ t.bootStep = 1 ∧
    t.ready = false ∧ t.tripped = false ∧ t.mem = s.mem ∧ t.power = .active ∧
    (r = .ok → t.bootCause = 0 ∧ ∃ x : BootResult, t.booting = some x ∧ t.agenda = s.resets ++ [.fundamentalReset x]) ∧
    (r ≠ .ok → t.bootCause = BootResult.code r ∧ t.booting = none ∧ t.agenda = s.resets)) ∧
  (∀ (r : BootResult) (s : State), s.booting = some r →
    (r ≠ .ok → ∃ t : State, exec (.fundamentalReset r) s = .next t ∧ t.bootCause = BootResult.code r ∧ t.ready = s.ready ∧ t.booting = none ∧
      t.agenda = s.agenda) ∧
    (r = .ok → s.bootStep.toNat < 6 → ∃ t : State, exec (.fundamentalReset r) s = .next t ∧ t.bootStep = s.bootStep + 1 ∧ t.ready = s.ready ∧
      ∃ x : BootResult, t.booting = some x ∧ t.agenda = s.agenda ++ [.fundamentalReset x]) ∧
    (r = .ok → s.bootStep = 6 → ∃ t : State, exec (.fundamentalReset r) s = .next t ∧ t.ready = true ∧ t.ctlUp = true ∧ t.cxlUp = true ∧
      t.booting = none ∧ t.agenda = s.agenda))

/-! ### The whole machine -/

/-- R70 to R76, R80 to R85, R99: A step whose issuing thread stands at a well-formed head runs the instruction that the head decodes to; the
location after it is the next slot, or slot 1 of the next line; a false guard completes without effect; a head that does not decode or
cannot be fetched takes its exception. A thread that begins to wait has issued, and the completion of one that waited is no issue (log
entry 16). -/
def Obligations.StepRunsDecodedInstruction : Prop :=
  ∀ (s : State),
    let u := s.tick
    let c := u.act.core
    let i := u.core.last + 1
    let pc := (u.getThread c i).pc
    let old := u.getThread c i
    let goes := fun (t : State) => Host.Outcome.next (ρ := Refusal) (φ := Fault) (((t.modCore c (fun k => { k with last := i })).stepped c i).turn)
    u.agenda = [] → u.ready = true → u.tripped = false → u.ready? c i = true → u.issueMatch c i = none →
    (∀ f : Flt, u.fetch c i pc = .error (.fault f) → old.inWait = false → step s = goes ((u.begin c i 0 pc).trap f)) ∧
    (∀ (f : Flt) (v : State), u.fetch c i pc = .error (.faultIn v f) → old.inWait = false → step s = goes ((v.begin c i 0 pc).trap f)) ∧
    ∀ (line : List Half) (u1 : State), u.fetch c i pc = .ok (line, u1) →
      let head := line.getD (slotOf pc) 0
      let u2 := u1.begin c i head (nextLoc line pc)
      (∀ x : Decoded, decodeHead (coreType c) head (lineTail line (slotOf pc)) = .ok x →
        (∀ t : State, u2.me.guardTrue x.guard = .ok true → exec x.instr u2 = .next t →
          (t.act.out ≠ .waits → old.inWait = false → step s = goes (t.close x.safe pc)) ∧
          (t.act.out = .waits → old.inWait = false → (t.getThread c i).inWait = true → step s = goes (t.settleWait c i old)) ∧
          (t.act.out ≠ .waits → t.act.out ≠ .trapped → old.inWait = true → step s = .next (t.close x.safe pc).turn)) ∧
        (u2.me.guardTrue x.guard = .ok false → old.inWait = false → step s = goes (u2.fell.close x.safe pc))) ∧
      (∀ e : DErr, decodeHead (coreType c) head (lineTail line (slotOf pc)) = .error e → old.inWait = false →
        step s = goes (u2.trap (u2.decodeFault e))) ∧
      u2.act.core = c ∧ u2.act.thr = i ∧ u2.act.head = head ∧
      u2.act.next = (if slotOf pc < (lineHeads line).length then pc + 2 else lineAddr pc + 66)

/-- R77 to R82, R111, R128, R194: A few words, each written out from the encodings of spec/, decode to the instructions that they stand
for. -/
def Obligations.WordsDecode : Prop :=
  decodeHalves [0b0000000000000000] = some .nop ∧
  decodeHalves [0b0100010000000110, 0b0000100010000000] = some (.add 3 1 2) ∧
  decodeHalves [0b0100010000000110, 0b0000100010000001] = some (.sub 3 1 2) ∧
  decodeHalves [0b0100010011001010, 0b0011011111111111] = some (.addi 5 6 (-1)) ∧
  decodeHalves [0b1000000010000000, 0b0000100010000000, 0b0000000000000100] = some (.beq 1 2 4) ∧
  decodeHalves [0b1000000010000000, 0b0000100010000100, 0b1111111111111100] = some (.bne 1 2 (-4)) ∧
  decodeHalves [0b1000101000001000, 0b0100100000001100, 0b0000000000001000] = some (.ld64 4 9 .rlx 8) ∧
  decodeHalves [0b1100011001001110, 0x1111, 0x2222, 0x3333, 0x4444] = some (.liw 7 0x4444333322221111) ∧
  decodeHalves [0b0100001100000000, 0b0000000000000101] = some (.trap 5) ∧
  decodeHalves [0b1000111000000000, 0b0000000000000000, 0x0703] = some (.swait 3 7) ∧
  decodeHalves [0b1001000000000110, 0b0000100010000000, 0b0000000100000000] = some (.vadd 3 1 2 .i32 false ⟨0, false⟩)

/-- R77 to R82: The encoder gives every well-formed instruction that words encode halfwords that decode to it, with every operand. -/
def Obligations.EncodeThenDecode : Prop :=
  ∀ i : Instr, WellFormed i = true → encode i ≠ [] → decodeHalves (encode i) = some i

/-- No instruction and no step of the machine ends in a fault or a refusal of the model: every exception of spec/ is a next state. -/
def Obligations.EveryStepAnswers : Prop :=
  (∀ (i : Instr) (s : State), ∃ t : State, exec i s = .next t) ∧ (∀ s : State, ∃ t : State, step s = .next t)

/-- Every step keeps the device's memory and every pool in canonical form, so that memories that read alike are equal (the form is the
model's own). -/
def Obligations.MemoryStaysCanonical : Prop :=
  ∀ s t : State, s.MemOk → step s = .next t → t.MemOk

/-- R1, R49, R58, R274, R291, R412, R414: What reset leaves: no core has an owner, the pool boundaries are 2, 22 and 46, every die's clock
runs at its full rate, and MIGCTL has its reset value. The model's choices: registers are zero (log entry 2), every byte of memory and of
the pools reads as zero, which the canonical form of both lists nowhere (log entries 3 and 5), and the first step of bring-up is due, on
the agenda (log entry 7). -/
def Obligations.ResetState : Prop :=
  State.reset.MemOk ∧ State.reset.ready = false ∧ State.reset.bootStep = 0 ∧ State.reset.agenda = [.fundamentalReset .ok] ∧
  State.reset.booting = some .ok ∧ (∀ a : Nat, State.reset.byteAt a = 0) ∧ (∀ c o : Nat, State.reset.poolByte c o = 0) ∧
  State.reset.migctl = 0x1000A00 ∧ State.reset.mapVer = 0 ∧ (∀ die : BitVec 2, (State.reset.clock die.toNat).mhz = 1250) ∧
  (∀ c : Nat, let k := State.reset.getCore c; k.valid = false ∧ k.pb1 = 2 ∧ k.pb2 = 22 ∧ k.pb3 = 46 ∧ k.dbg.attached = false ∧
    k.dbg.halted = false ∧ (∀ j : BitVec 8, k.sem j = 0) ∧ k.queue = [] ∧ k.cmds = []) ∧
  (∀ (c : Nat) (i : BitVec 2) (n : R), let t := State.reset.getThread c i
    t.run = none ∧ t.rdG n = .ok 0 ∧ t.rdV n = 0 ∧ t.sys.qmod = 0x3FFFFFFFFFFFFFFF ∧ t.sys.fetchctl = 4) ∧
  (∀ d : BitVec 8, (State.reset.domain d).state = .free) ∧ (∀ g : BitVec 12, (State.reset.gate g).state = .free)
end

