-- ==== Sys2Proof/Laws/State.lean ====
section
/-! SUPPORT. Access and update of cores, threads and registers: one lemma per field per update, and what an access gives
after an update. -/

namespace Sys2Proof.Machine

/-! ### Keyed lists -/

@[simp] theorem getKey_putKey {α : Type} (k : Nat) (v d : α) (l : List (Nat × α)) : getKey k d (putKey k v l) = v := by
  induction l with
  | nil => simp [putKey, getKey]
  | cons e r ih =>
    obtain ⟨a, b⟩ := e
    simp only [putKey]
    split
    · simp [getKey]
    · split <;> simp_all [getKey]

theorem getKey_putKey_ne {α : Type} {k j : Nat} (v d : α) (l : List (Nat × α)) (h : j ≠ k) :
    getKey j d (putKey k v l) = getKey j d l := by
  induction l with
  | nil => simp [putKey, getKey, h]
  | cons e r ih =>
    obtain ⟨a, b⟩ := e
    simp only [putKey]
    split
    · simp [getKey, h]
    · split <;> simp_all [getKey]

/-- An element of a list after putKey is the new one or an old one. -/
theorem mem_putKey {α : Type} {k : Nat} {v : α} {l : List (Nat × α)} {e : Nat × α} (h : e ∈ putKey k v l) : e = (k, v) ∨ e ∈ l := by
  induction l with
  | nil => simpa [putKey] using h
  | cons x r ih =>
    simp only [putKey] at h
    split at h
    · simpa using h
    · split at h
      · simp only [List.mem_cons] at h ⊢
        tauto
      · simp only [List.mem_cons] at h ⊢
        rcases h with h | h
        · exact .inr (.inl h)
        · rcases ih h with h | h <;> tauto

/-- The value under a key is the default or stands in the list. -/
theorem getKey_mem {α : Type} (k : Nat) (d : α) (l : List (Nat × α)) : getKey k d l = d ∨ (k, getKey k d l) ∈ l := by
  induction l with
  | nil => exact .inl rfl
  | cons e r ih =>
    obtain ⟨a, b⟩ := e
    simp only [getKey]
    split
    · rename_i h; subst h; simp
    · rcases ih with h | h
      · exact .inl h
      · exact .inr (List.mem_cons_of_mem _ h)

/-! ### Fields of the machine after an update -/

@[simp] theorem State.setCore_act (s : State) (c : Nat) (k : Core) : (s.setCore c k).act = s.act := rfl
@[simp] theorem State.setCore_agenda (s : State) (c : Nat) (k : Core) : (s.setCore c k).agenda = s.agenda := rfl
@[simp] theorem State.setCore_fresh (s : State) (c : Nat) (k : Core) : (s.setCore c k).fresh = s.fresh := rfl
@[simp] theorem State.setCore_nextId (s : State) (c : Nat) (k : Core) : (s.setCore c k).nextId = s.nextId := rfl
@[simp] theorem State.setCore_bin (s : State) (c : Nat) (k : Core) : (s.setCore c k).bin = s.bin := rfl
@[simp] theorem State.setCore_module (s : State) (c : Nat) (k : Core) : (s.setCore c k).module = s.module := rfl
@[simp] theorem State.setCore_mem (s : State) (c : Nat) (k : Core) : (s.setCore c k).mem = s.mem := rfl
@[simp] theorem State.setCore_tlb (s : State) (c : Nat) (k : Core) : (s.setCore c k).tlb = s.tlb := rfl
@[simp] theorem State.setCore_ucopies (s : State) (c : Nat) (k : Core) : (s.setCore c k).ucopies = s.ucopies := rfl
@[simp] theorem State.setCore_excl (s : State) (c : Nat) (k : Core) : (s.setCore c k).excl = s.excl := rfl
@[simp] theorem State.setCore_bad (s : State) (c : Nat) (k : Core) : (s.setCore c k).bad = s.bad := rfl
@[simp] theorem State.setCore_denied (s : State) (c : Nat) (k : Core) : (s.setCore c k).denied = s.denied := rfl
@[simp] theorem State.setCore_domains (s : State) (c : Nat) (k : Core) : (s.setCore c k).domains = s.domains := rfl
@[simp] theorem State.setCore_gates (s : State) (c : Nat) (k : Core) : (s.setCore c k).gates = s.gates := rfl
@[simp] theorem State.setCore_owners (s : State) (c : Nat) (k : Core) : (s.setCore c k).owners = s.owners := rfl
@[simp] theorem State.setCore_launches (s : State) (c : Nat) (k : Core) : (s.setCore c k).launches = s.launches := rfl
@[simp] theorem State.setCore_devq (s : State) (c : Nat) (k : Core) : (s.setCore c k).devq = s.devq := rfl
@[simp] theorem State.setCore_dieq (s : State) (c : Nat) (k : Core) : (s.setCore c k).dieq = s.dieq := rfl
@[simp] theorem State.setCore_hostq (s : State) (c : Nat) (k : Core) : (s.setCore c k).hostq = s.hostq := rfl
@[simp] theorem State.setCore_groups (s : State) (c : Nat) (k : Core) : (s.setCore c k).groups = s.groups := rfl
@[simp] theorem State.setCore_ggens (s : State) (c : Nat) (k : Core) : (s.setCore c k).ggens = s.ggens := rfl
@[simp] theorem State.setCore_greqs (s : State) (c : Nat) (k : Core) : (s.setCore c k).greqs = s.greqs := rfl
@[simp] theorem State.setCore_fills (s : State) (c : Nat) (k : Core) : (s.setCore c k).fills = s.fills := rfl
@[simp] theorem State.setCore_streams (s : State) (c : Nat) (k : Core) : (s.setCore c k).streams = s.streams := rfl
@[simp] theorem State.setCore_msgs (s : State) (c : Nat) (k : Core) : (s.setCore c k).msgs = s.msgs := rfl
@[simp] theorem State.setCore_trellis (s : State) (c : Nat) (k : Core) : (s.setCore c k).trellis = s.trellis := rfl
@[simp] theorem State.setCore_matrices (s : State) (c : Nat) (k : Core) : (s.setCore c k).matrices = s.matrices := rfl
@[simp] theorem State.setCore_grotto (s : State) (c : Nat) (k : Core) : (s.setCore c k).grotto = s.grotto := rfl
@[simp] theorem State.setCore_scheds (s : State) (c : Nat) (k : Core) : (s.setCore c k).scheds = s.scheds := rfl
@[simp] theorem State.setCore_schedNew (s : State) (c : Nat) (k : Core) : (s.setCore c k).schedNew = s.schedNew := rfl
@[simp] theorem State.setCore_mapVer (s : State) (c : Nat) (k : Core) : (s.setCore c k).mapVer = s.mapVer := rfl
@[simp] theorem State.setCore_links (s : State) (c : Nat) (k : Core) : (s.setCore c k).links = s.links := rfl
@[simp] theorem State.setCore_fports (s : State) (c : Nat) (k : Core) : (s.setCore c k).fports = s.fports := rfl
@[simp] theorem State.setCore_switches (s : State) (c : Nat) (k : Core) : (s.setCore c k).switches = s.switches := rfl
@[simp] theorem State.setCore_migctl (s : State) (c : Nat) (k : Core) : (s.setCore c k).migctl = s.migctl := rfl
@[simp] theorem State.setCore_migTable (s : State) (c : Nat) (k : Core) : (s.setCore c k).migTable = s.migTable := rfl
@[simp] theorem State.setCore_migRing (s : State) (c : Nat) (k : Core) : (s.setCore c k).migRing = s.migRing := rfl
@[simp] theorem State.setCore_migNext (s : State) (c : Nat) (k : Core) : (s.setCore c k).migNext = s.migNext := rfl
@[simp] theorem State.setCore_cxlUp (s : State) (c : Nat) (k : Core) : (s.setCore c k).cxlUp = s.cxlUp := rfl
@[simp] theorem State.setCore_cxlBuf (s : State) (c : Nat) (k : Core) : (s.setCore c k).cxlBuf = s.cxlBuf := rfl
@[simp] theorem State.setCore_shared (s : State) (c : Nat) (k : Core) : (s.setCore c k).shared = s.shared := rfl
@[simp] theorem State.setCore_pageKeys (s : State) (c : Nat) (k : Core) : (s.setCore c k).pageKeys = s.pageKeys := rfl
@[simp] theorem State.setCore_regions (s : State) (c : Nat) (k : Core) : (s.setCore c k).regions = s.regions := rfl
@[simp] theorem State.setCore_hostLine (s : State) (c : Nat) (k : Core) : (s.setCore c k).hostLine = s.hostLine := rfl
@[simp] theorem State.setCore_rasLog (s : State) (c : Nat) (k : Core) : (s.setCore c k).rasLog = s.rasLog := rfl
@[simp] theorem State.setCore_corrected (s : State) (c : Nat) (k : Core) : (s.setCore c k).corrected = s.corrected := rfl
@[simp] theorem State.setCore_strandOn (s : State) (c : Nat) (k : Core) : (s.setCore c k).strandOn = s.strandOn := rfl
@[simp] theorem State.setCore_stranded (s : State) (c : Nat) (k : Core) : (s.setCore c k).stranded = s.stranded := rfl
@[simp] theorem State.setCore_ctlUp (s : State) (c : Nat) (k : Core) : (s.setCore c k).ctlUp = s.ctlUp := rfl
@[simp] theorem State.setCore_ctlBack (s : State) (c : Nat) (k : Core) : (s.setCore c k).ctlBack = s.ctlBack := rfl
@[simp] theorem State.setCore_xfence (s : State) (c : Nat) (k : Core) : (s.setCore c k).xfence = s.xfence := rfl
@[simp] theorem State.setCore_xfences (s : State) (c : Nat) (k : Core) : (s.setCore c k).xfences = s.xfences := rfl
@[simp] theorem State.setCore_hostRead (s : State) (c : Nat) (k : Core) : (s.setCore c k).hostRead = s.hostRead := rfl
@[simp] theorem State.setCore_storeqs (s : State) (c : Nat) (k : Core) : (s.setCore c k).storeqs = s.storeqs := rfl
@[simp] theorem State.setCore_storing (s : State) (c : Nat) (k : Core) : (s.setCore c k).storing = s.storing := rfl
@[simp] theorem State.setCore_late (s : State) (c : Nat) (k : Core) : (s.setCore c k).late = s.late := rfl
@[simp] theorem State.setCore_collects (s : State) (c : Nat) (k : Core) : (s.setCore c k).collects = s.collects := rfl
@[simp] theorem State.setCore_refused (s : State) (c : Nat) (k : Core) : (s.setCore c k).refused = s.refused := rfl
@[simp] theorem State.setCore_sessions (s : State) (c : Nat) (k : Core) : (s.setCore c k).sessions = s.sessions := rfl
@[simp] theorem State.setCore_meas (s : State) (c : Nat) (k : Core) : (s.setCore c k).meas = s.meas := rfl
@[simp] theorem State.setCore_clocks (s : State) (c : Nat) (k : Core) : (s.setCore c k).clocks = s.clocks := rfl
@[simp] theorem State.setCore_power (s : State) (c : Nat) (k : Core) : (s.setCore c k).power = s.power := rfl
@[simp] theorem State.setCore_ltr (s : State) (c : Nat) (k : Core) : (s.setCore c k).ltr = s.ltr := rfl
@[simp] theorem State.setCore_tripped (s : State) (c : Nat) (k : Core) : (s.setCore c k).tripped = s.tripped := rfl
@[simp] theorem State.setCore_bootCause (s : State) (c : Nat) (k : Core) : (s.setCore c k).bootCause = s.bootCause := rfl
@[simp] theorem State.setCore_booting (s : State) (c : Nat) (k : Core) : (s.setCore c k).booting = s.booting := rfl
@[simp] theorem State.setCore_bootStep (s : State) (c : Nat) (k : Core) : (s.setCore c k).bootStep = s.bootStep := rfl
@[simp] theorem State.setCore_ready (s : State) (c : Nat) (k : Core) : (s.setCore c k).ready = s.ready := rfl
@[simp] theorem State.setCore_cycle (s : State) (c : Nat) (k : Core) : (s.setCore c k).cycle = s.cycle := rfl
@[simp] theorem State.setCore_ns (s : State) (c : Nat) (k : Core) : (s.setCore c k).ns = s.ns := rfl

@[simp] theorem State.setMe_act (s : State) (t : Thread) : (s.setMe t).act = s.act := rfl
@[simp] theorem State.setMe_agenda (s : State) (t : Thread) : (s.setMe t).agenda = s.agenda := rfl
@[simp] theorem State.setMe_fresh (s : State) (t : Thread) : (s.setMe t).fresh = s.fresh := rfl
@[simp] theorem State.setMe_nextId (s : State) (t : Thread) : (s.setMe t).nextId = s.nextId := rfl
@[simp] theorem State.setMe_bin (s : State) (t : Thread) : (s.setMe t).bin = s.bin := rfl
@[simp] theorem State.setMe_module (s : State) (t : Thread) : (s.setMe t).module = s.module := rfl
@[simp] theorem State.setMe_mem (s : State) (t : Thread) : (s.setMe t).mem = s.mem := rfl
@[simp] theorem State.setMe_tlb (s : State) (t : Thread) : (s.setMe t).tlb = s.tlb := rfl
@[simp] theorem State.setMe_ucopies (s : State) (t : Thread) : (s.setMe t).ucopies = s.ucopies := rfl
@[simp] theorem State.setMe_excl (s : State) (t : Thread) : (s.setMe t).excl = s.excl := rfl
@[simp] theorem State.setMe_bad (s : State) (t : Thread) : (s.setMe t).bad = s.bad := rfl
@[simp] theorem State.setMe_denied (s : State) (t : Thread) : (s.setMe t).denied = s.denied := rfl
@[simp] theorem State.setMe_domains (s : State) (t : Thread) : (s.setMe t).domains = s.domains := rfl
@[simp] theorem State.setMe_gates (s : State) (t : Thread) : (s.setMe t).gates = s.gates := rfl
@[simp] theorem State.setMe_owners (s : State) (t : Thread) : (s.setMe t).owners = s.owners := rfl
@[simp] theorem State.setMe_launches (s : State) (t : Thread) : (s.setMe t).launches = s.launches := rfl
@[simp] theorem State.setMe_devq (s : State) (t : Thread) : (s.setMe t).devq = s.devq := rfl
@[simp] theorem State.setMe_dieq (s : State) (t : Thread) : (s.setMe t).dieq = s.dieq := rfl
@[simp] theorem State.setMe_hostq (s : State) (t : Thread) : (s.setMe t).hostq = s.hostq := rfl
@[simp] theorem State.setMe_groups (s : State) (t : Thread) : (s.setMe t).groups = s.groups := rfl
@[simp] theorem State.setMe_ggens (s : State) (t : Thread) : (s.setMe t).ggens = s.ggens := rfl
@[simp] theorem State.setMe_greqs (s : State) (t : Thread) : (s.setMe t).greqs = s.greqs := rfl
@[simp] theorem State.setMe_fills (s : State) (t : Thread) : (s.setMe t).fills = s.fills := rfl
@[simp] theorem State.setMe_streams (s : State) (t : Thread) : (s.setMe t).streams = s.streams := rfl
@[simp] theorem State.setMe_msgs (s : State) (t : Thread) : (s.setMe t).msgs = s.msgs := rfl
@[simp] theorem State.setMe_trellis (s : State) (t : Thread) : (s.setMe t).trellis = s.trellis := rfl
@[simp] theorem State.setMe_matrices (s : State) (t : Thread) : (s.setMe t).matrices = s.matrices := rfl
@[simp] theorem State.setMe_grotto (s : State) (t : Thread) : (s.setMe t).grotto = s.grotto := rfl
@[simp] theorem State.setMe_scheds (s : State) (t : Thread) : (s.setMe t).scheds = s.scheds := rfl
@[simp] theorem State.setMe_schedNew (s : State) (t : Thread) : (s.setMe t).schedNew = s.schedNew := rfl
@[simp] theorem State.setMe_mapVer (s : State) (t : Thread) : (s.setMe t).mapVer = s.mapVer := rfl
@[simp] theorem State.setMe_links (s : State) (t : Thread) : (s.setMe t).links = s.links := rfl
@[simp] theorem State.setMe_fports (s : State) (t : Thread) : (s.setMe t).fports = s.fports := rfl
@[simp] theorem State.setMe_switches (s : State) (t : Thread) : (s.setMe t).switches = s.switches := rfl
@[simp] theorem State.setMe_migctl (s : State) (t : Thread) : (s.setMe t).migctl = s.migctl := rfl
@[simp] theorem State.setMe_migTable (s : State) (t : Thread) : (s.setMe t).migTable = s.migTable := rfl
@[simp] theorem State.setMe_migRing (s : State) (t : Thread) : (s.setMe t).migRing = s.migRing := rfl
@[simp] theorem State.setMe_migNext (s : State) (t : Thread) : (s.setMe t).migNext = s.migNext := rfl
@[simp] theorem State.setMe_cxlUp (s : State) (t : Thread) : (s.setMe t).cxlUp = s.cxlUp := rfl
@[simp] theorem State.setMe_cxlBuf (s : State) (t : Thread) : (s.setMe t).cxlBuf = s.cxlBuf := rfl
@[simp] theorem State.setMe_shared (s : State) (t : Thread) : (s.setMe t).shared = s.shared := rfl
@[simp] theorem State.setMe_pageKeys (s : State) (t : Thread) : (s.setMe t).pageKeys = s.pageKeys := rfl
@[simp] theorem State.setMe_regions (s : State) (t : Thread) : (s.setMe t).regions = s.regions := rfl
@[simp] theorem State.setMe_hostLine (s : State) (t : Thread) : (s.setMe t).hostLine = s.hostLine := rfl
@[simp] theorem State.setMe_rasLog (s : State) (t : Thread) : (s.setMe t).rasLog = s.rasLog := rfl
@[simp] theorem State.setMe_corrected (s : State) (t : Thread) : (s.setMe t).corrected = s.corrected := rfl
@[simp] theorem State.setMe_strandOn (s : State) (t : Thread) : (s.setMe t).strandOn = s.strandOn := rfl
@[simp] theorem State.setMe_stranded (s : State) (t : Thread) : (s.setMe t).stranded = s.stranded := rfl
@[simp] theorem State.setMe_ctlUp (s : State) (t : Thread) : (s.setMe t).ctlUp = s.ctlUp := rfl
@[simp] theorem State.setMe_ctlBack (s : State) (t : Thread) : (s.setMe t).ctlBack = s.ctlBack := rfl
@[simp] theorem State.setMe_xfence (s : State) (t : Thread) : (s.setMe t).xfence = s.xfence := rfl
@[simp] theorem State.setMe_xfences (s : State) (t : Thread) : (s.setMe t).xfences = s.xfences := rfl
@[simp] theorem State.setMe_hostRead (s : State) (t : Thread) : (s.setMe t).hostRead = s.hostRead := rfl
@[simp] theorem State.setMe_storeqs (s : State) (t : Thread) : (s.setMe t).storeqs = s.storeqs := rfl
@[simp] theorem State.setMe_storing (s : State) (t : Thread) : (s.setMe t).storing = s.storing := rfl
@[simp] theorem State.setMe_late (s : State) (t : Thread) : (s.setMe t).late = s.late := rfl
@[simp] theorem State.setMe_collects (s : State) (t : Thread) : (s.setMe t).collects = s.collects := rfl
@[simp] theorem State.setMe_refused (s : State) (t : Thread) : (s.setMe t).refused = s.refused := rfl
@[simp] theorem State.setMe_sessions (s : State) (t : Thread) : (s.setMe t).sessions = s.sessions := rfl
@[simp] theorem State.setMe_meas (s : State) (t : Thread) : (s.setMe t).meas = s.meas := rfl
@[simp] theorem State.setMe_clocks (s : State) (t : Thread) : (s.setMe t).clocks = s.clocks := rfl
@[simp] theorem State.setMe_power (s : State) (t : Thread) : (s.setMe t).power = s.power := rfl
@[simp] theorem State.setMe_ltr (s : State) (t : Thread) : (s.setMe t).ltr = s.ltr := rfl
@[simp] theorem State.setMe_tripped (s : State) (t : Thread) : (s.setMe t).tripped = s.tripped := rfl
@[simp] theorem State.setMe_bootCause (s : State) (t : Thread) : (s.setMe t).bootCause = s.bootCause := rfl
@[simp] theorem State.setMe_booting (s : State) (t : Thread) : (s.setMe t).booting = s.booting := rfl
@[simp] theorem State.setMe_bootStep (s : State) (t : Thread) : (s.setMe t).bootStep = s.bootStep := rfl
@[simp] theorem State.setMe_ready (s : State) (t : Thread) : (s.setMe t).ready = s.ready := rfl
@[simp] theorem State.setMe_cycle (s : State) (t : Thread) : (s.setMe t).cycle = s.cycle := rfl
@[simp] theorem State.setMe_ns (s : State) (t : Thread) : (s.setMe t).ns = s.ns := rfl

@[simp] theorem State.out_agenda (s : State) (o : Out) : (s.out o).agenda = s.agenda := rfl
@[simp] theorem State.out_fresh (s : State) (o : Out) : (s.out o).fresh = s.fresh := rfl
@[simp] theorem State.out_nextId (s : State) (o : Out) : (s.out o).nextId = s.nextId := rfl
@[simp] theorem State.out_bin (s : State) (o : Out) : (s.out o).bin = s.bin := rfl
@[simp] theorem State.out_module (s : State) (o : Out) : (s.out o).module = s.module := rfl
@[simp] theorem State.out_cores (s : State) (o : Out) : (s.out o).cores = s.cores := rfl
@[simp] theorem State.out_mem (s : State) (o : Out) : (s.out o).mem = s.mem := rfl
@[simp] theorem State.out_tlb (s : State) (o : Out) : (s.out o).tlb = s.tlb := rfl
@[simp] theorem State.out_ucopies (s : State) (o : Out) : (s.out o).ucopies = s.ucopies := rfl
@[simp] theorem State.out_excl (s : State) (o : Out) : (s.out o).excl = s.excl := rfl
@[simp] theorem State.out_bad (s : State) (o : Out) : (s.out o).bad = s.bad := rfl
@[simp] theorem State.out_denied (s : State) (o : Out) : (s.out o).denied = s.denied := rfl
@[simp] theorem State.out_domains (s : State) (o : Out) : (s.out o).domains = s.domains := rfl
@[simp] theorem State.out_gates (s : State) (o : Out) : (s.out o).gates = s.gates := rfl
@[simp] theorem State.out_owners (s : State) (o : Out) : (s.out o).owners = s.owners := rfl
@[simp] theorem State.out_launches (s : State) (o : Out) : (s.out o).launches = s.launches := rfl
@[simp] theorem State.out_devq (s : State) (o : Out) : (s.out o).devq = s.devq := rfl
@[simp] theorem State.out_dieq (s : State) (o : Out) : (s.out o).dieq = s.dieq := rfl
@[simp] theorem State.out_hostq (s : State) (o : Out) : (s.out o).hostq = s.hostq := rfl
@[simp] theorem State.out_groups (s : State) (o : Out) : (s.out o).groups = s.groups := rfl
@[simp] theorem State.out_ggens (s : State) (o : Out) : (s.out o).ggens = s.ggens := rfl
@[simp] theorem State.out_greqs (s : State) (o : Out) : (s.out o).greqs = s.greqs := rfl
@[simp] theorem State.out_fills (s : State) (o : Out) : (s.out o).fills = s.fills := rfl
@[simp] theorem State.out_streams (s : State) (o : Out) : (s.out o).streams = s.streams := rfl
@[simp] theorem State.out_msgs (s : State) (o : Out) : (s.out o).msgs = s.msgs := rfl
@[simp] theorem State.out_trellis (s : State) (o : Out) : (s.out o).trellis = s.trellis := rfl
@[simp] theorem State.out_matrices (s : State) (o : Out) : (s.out o).matrices = s.matrices := rfl
@[simp] theorem State.out_grotto (s : State) (o : Out) : (s.out o).grotto = s.grotto := rfl
@[simp] theorem State.out_scheds (s : State) (o : Out) : (s.out o).scheds = s.scheds := rfl
@[simp] theorem State.out_schedNew (s : State) (o : Out) : (s.out o).schedNew = s.schedNew := rfl
@[simp] theorem State.out_mapVer (s : State) (o : Out) : (s.out o).mapVer = s.mapVer := rfl
@[simp] theorem State.out_links (s : State) (o : Out) : (s.out o).links = s.links := rfl
@[simp] theorem State.out_fports (s : State) (o : Out) : (s.out o).fports = s.fports := rfl
@[simp] theorem State.out_switches (s : State) (o : Out) : (s.out o).switches = s.switches := rfl
@[simp] theorem State.out_migctl (s : State) (o : Out) : (s.out o).migctl = s.migctl := rfl
@[simp] theorem State.out_migTable (s : State) (o : Out) : (s.out o).migTable = s.migTable := rfl
@[simp] theorem State.out_migRing (s : State) (o : Out) : (s.out o).migRing = s.migRing := rfl
@[simp] theorem State.out_migNext (s : State) (o : Out) : (s.out o).migNext = s.migNext := rfl
@[simp] theorem State.out_cxlUp (s : State) (o : Out) : (s.out o).cxlUp = s.cxlUp := rfl
@[simp] theorem State.out_cxlBuf (s : State) (o : Out) : (s.out o).cxlBuf = s.cxlBuf := rfl
@[simp] theorem State.out_shared (s : State) (o : Out) : (s.out o).shared = s.shared := rfl
@[simp] theorem State.out_pageKeys (s : State) (o : Out) : (s.out o).pageKeys = s.pageKeys := rfl
@[simp] theorem State.out_regions (s : State) (o : Out) : (s.out o).regions = s.regions := rfl
@[simp] theorem State.out_hostLine (s : State) (o : Out) : (s.out o).hostLine = s.hostLine := rfl
@[simp] theorem State.out_rasLog (s : State) (o : Out) : (s.out o).rasLog = s.rasLog := rfl
@[simp] theorem State.out_corrected (s : State) (o : Out) : (s.out o).corrected = s.corrected := rfl
@[simp] theorem State.out_strandOn (s : State) (o : Out) : (s.out o).strandOn = s.strandOn := rfl
@[simp] theorem State.out_stranded (s : State) (o : Out) : (s.out o).stranded = s.stranded := rfl
@[simp] theorem State.out_ctlUp (s : State) (o : Out) : (s.out o).ctlUp = s.ctlUp := rfl
@[simp] theorem State.out_ctlBack (s : State) (o : Out) : (s.out o).ctlBack = s.ctlBack := rfl
@[simp] theorem State.out_xfence (s : State) (o : Out) : (s.out o).xfence = s.xfence := rfl
@[simp] theorem State.out_xfences (s : State) (o : Out) : (s.out o).xfences = s.xfences := rfl
@[simp] theorem State.out_hostRead (s : State) (o : Out) : (s.out o).hostRead = s.hostRead := rfl
@[simp] theorem State.out_storeqs (s : State) (o : Out) : (s.out o).storeqs = s.storeqs := rfl
@[simp] theorem State.out_storing (s : State) (o : Out) : (s.out o).storing = s.storing := rfl
@[simp] theorem State.out_late (s : State) (o : Out) : (s.out o).late = s.late := rfl
@[simp] theorem State.out_collects (s : State) (o : Out) : (s.out o).collects = s.collects := rfl
@[simp] theorem State.out_refused (s : State) (o : Out) : (s.out o).refused = s.refused := rfl
@[simp] theorem State.out_sessions (s : State) (o : Out) : (s.out o).sessions = s.sessions := rfl
@[simp] theorem State.out_meas (s : State) (o : Out) : (s.out o).meas = s.meas := rfl
@[simp] theorem State.out_clocks (s : State) (o : Out) : (s.out o).clocks = s.clocks := rfl
@[simp] theorem State.out_power (s : State) (o : Out) : (s.out o).power = s.power := rfl
@[simp] theorem State.out_ltr (s : State) (o : Out) : (s.out o).ltr = s.ltr := rfl
@[simp] theorem State.out_tripped (s : State) (o : Out) : (s.out o).tripped = s.tripped := rfl
@[simp] theorem State.out_bootCause (s : State) (o : Out) : (s.out o).bootCause = s.bootCause := rfl
@[simp] theorem State.out_booting (s : State) (o : Out) : (s.out o).booting = s.booting := rfl
@[simp] theorem State.out_bootStep (s : State) (o : Out) : (s.out o).bootStep = s.bootStep := rfl
@[simp] theorem State.out_ready (s : State) (o : Out) : (s.out o).ready = s.ready := rfl
@[simp] theorem State.out_cycle (s : State) (o : Out) : (s.out o).cycle = s.cycle := rfl
@[simp] theorem State.out_ns (s : State) (o : Out) : (s.out o).ns = s.ns := rfl

@[simp] theorem State.post_act (s : State) (i : Instr) : (s.post i).act = s.act := rfl
@[simp] theorem State.post_fresh (s : State) (i : Instr) : (s.post i).fresh = s.fresh := rfl
@[simp] theorem State.post_nextId (s : State) (i : Instr) : (s.post i).nextId = s.nextId := rfl
@[simp] theorem State.post_bin (s : State) (i : Instr) : (s.post i).bin = s.bin := rfl
@[simp] theorem State.post_module (s : State) (i : Instr) : (s.post i).module = s.module := rfl
@[simp] theorem State.post_cores (s : State) (i : Instr) : (s.post i).cores = s.cores := rfl
@[simp] theorem State.post_mem (s : State) (i : Instr) : (s.post i).mem = s.mem := rfl
@[simp] theorem State.post_tlb (s : State) (i : Instr) : (s.post i).tlb = s.tlb := rfl
@[simp] theorem State.post_ucopies (s : State) (i : Instr) : (s.post i).ucopies = s.ucopies := rfl
@[simp] theorem State.post_excl (s : State) (i : Instr) : (s.post i).excl = s.excl := rfl
@[simp] theorem State.post_bad (s : State) (i : Instr) : (s.post i).bad = s.bad := rfl
@[simp] theorem State.post_denied (s : State) (i : Instr) : (s.post i).denied = s.denied := rfl
@[simp] theorem State.post_domains (s : State) (i : Instr) : (s.post i).domains = s.domains := rfl
@[simp] theorem State.post_gates (s : State) (i : Instr) : (s.post i).gates = s.gates := rfl
@[simp] theorem State.post_owners (s : State) (i : Instr) : (s.post i).owners = s.owners := rfl
@[simp] theorem State.post_launches (s : State) (i : Instr) : (s.post i).launches = s.launches := rfl
@[simp] theorem State.post_devq (s : State) (i : Instr) : (s.post i).devq = s.devq := rfl
@[simp] theorem State.post_dieq (s : State) (i : Instr) : (s.post i).dieq = s.dieq := rfl
@[simp] theorem State.post_hostq (s : State) (i : Instr) : (s.post i).hostq = s.hostq := rfl
@[simp] theorem State.post_groups (s : State) (i : Instr) : (s.post i).groups = s.groups := rfl
@[simp] theorem State.post_ggens (s : State) (i : Instr) : (s.post i).ggens = s.ggens := rfl
@[simp] theorem State.post_greqs (s : State) (i : Instr) : (s.post i).greqs = s.greqs := rfl
@[simp] theorem State.post_fills (s : State) (i : Instr) : (s.post i).fills = s.fills := rfl
@[simp] theorem State.post_streams (s : State) (i : Instr) : (s.post i).streams = s.streams := rfl
@[simp] theorem State.post_msgs (s : State) (i : Instr) : (s.post i).msgs = s.msgs := rfl
@[simp] theorem State.post_trellis (s : State) (i : Instr) : (s.post i).trellis = s.trellis := rfl
@[simp] theorem State.post_matrices (s : State) (i : Instr) : (s.post i).matrices = s.matrices := rfl
@[simp] theorem State.post_grotto (s : State) (i : Instr) : (s.post i).grotto = s.grotto := rfl
@[simp] theorem State.post_scheds (s : State) (i : Instr) : (s.post i).scheds = s.scheds := rfl
@[simp] theorem State.post_schedNew (s : State) (i : Instr) : (s.post i).schedNew = s.schedNew := rfl
@[simp] theorem State.post_mapVer (s : State) (i : Instr) : (s.post i).mapVer = s.mapVer := rfl
@[simp] theorem State.post_links (s : State) (i : Instr) : (s.post i).links = s.links := rfl
@[simp] theorem State.post_fports (s : State) (i : Instr) : (s.post i).fports = s.fports := rfl
@[simp] theorem State.post_switches (s : State) (i : Instr) : (s.post i).switches = s.switches := rfl
@[simp] theorem State.post_migctl (s : State) (i : Instr) : (s.post i).migctl = s.migctl := rfl
@[simp] theorem State.post_migTable (s : State) (i : Instr) : (s.post i).migTable = s.migTable := rfl
@[simp] theorem State.post_migRing (s : State) (i : Instr) : (s.post i).migRing = s.migRing := rfl
@[simp] theorem State.post_migNext (s : State) (i : Instr) : (s.post i).migNext = s.migNext := rfl
@[simp] theorem State.post_cxlUp (s : State) (i : Instr) : (s.post i).cxlUp = s.cxlUp := rfl
@[simp] theorem State.post_cxlBuf (s : State) (i : Instr) : (s.post i).cxlBuf = s.cxlBuf := rfl
@[simp] theorem State.post_shared (s : State) (i : Instr) : (s.post i).shared = s.shared := rfl
@[simp] theorem State.post_pageKeys (s : State) (i : Instr) : (s.post i).pageKeys = s.pageKeys := rfl
@[simp] theorem State.post_regions (s : State) (i : Instr) : (s.post i).regions = s.regions := rfl
@[simp] theorem State.post_hostLine (s : State) (i : Instr) : (s.post i).hostLine = s.hostLine := rfl
@[simp] theorem State.post_rasLog (s : State) (i : Instr) : (s.post i).rasLog = s.rasLog := rfl
@[simp] theorem State.post_corrected (s : State) (i : Instr) : (s.post i).corrected = s.corrected := rfl
@[simp] theorem State.post_strandOn (s : State) (i : Instr) : (s.post i).strandOn = s.strandOn := rfl
@[simp] theorem State.post_stranded (s : State) (i : Instr) : (s.post i).stranded = s.stranded := rfl
@[simp] theorem State.post_ctlUp (s : State) (i : Instr) : (s.post i).ctlUp = s.ctlUp := rfl
@[simp] theorem State.post_ctlBack (s : State) (i : Instr) : (s.post i).ctlBack = s.ctlBack := rfl
@[simp] theorem State.post_xfence (s : State) (i : Instr) : (s.post i).xfence = s.xfence := rfl
@[simp] theorem State.post_xfences (s : State) (i : Instr) : (s.post i).xfences = s.xfences := rfl
@[simp] theorem State.post_hostRead (s : State) (i : Instr) : (s.post i).hostRead = s.hostRead := rfl
@[simp] theorem State.post_storeqs (s : State) (i : Instr) : (s.post i).storeqs = s.storeqs := rfl
@[simp] theorem State.post_storing (s : State) (i : Instr) : (s.post i).storing = s.storing := rfl
@[simp] theorem State.post_late (s : State) (i : Instr) : (s.post i).late = s.late := rfl
@[simp] theorem State.post_collects (s : State) (i : Instr) : (s.post i).collects = s.collects := rfl
@[simp] theorem State.post_refused (s : State) (i : Instr) : (s.post i).refused = s.refused := rfl
@[simp] theorem State.post_sessions (s : State) (i : Instr) : (s.post i).sessions = s.sessions := rfl
@[simp] theorem State.post_meas (s : State) (i : Instr) : (s.post i).meas = s.meas := rfl
@[simp] theorem State.post_clocks (s : State) (i : Instr) : (s.post i).clocks = s.clocks := rfl
@[simp] theorem State.post_power (s : State) (i : Instr) : (s.post i).power = s.power := rfl
@[simp] theorem State.post_ltr (s : State) (i : Instr) : (s.post i).ltr = s.ltr := rfl
@[simp] theorem State.post_tripped (s : State) (i : Instr) : (s.post i).tripped = s.tripped := rfl
@[simp] theorem State.post_bootCause (s : State) (i : Instr) : (s.post i).bootCause = s.bootCause := rfl
@[simp] theorem State.post_booting (s : State) (i : Instr) : (s.post i).booting = s.booting := rfl
@[simp] theorem State.post_bootStep (s : State) (i : Instr) : (s.post i).bootStep = s.bootStep := rfl
@[simp] theorem State.post_ready (s : State) (i : Instr) : (s.post i).ready = s.ready := rfl
@[simp] theorem State.post_cycle (s : State) (i : Instr) : (s.post i).cycle = s.cycle := rfl
@[simp] theorem State.post_ns (s : State) (i : Instr) : (s.post i).ns = s.ns := rfl

@[simp] theorem State.fell_agenda (s : State) : (s.fell).agenda = s.agenda := rfl
@[simp] theorem State.fell_fresh (s : State) : (s.fell).fresh = s.fresh := rfl
@[simp] theorem State.fell_nextId (s : State) : (s.fell).nextId = s.nextId := rfl
@[simp] theorem State.fell_bin (s : State) : (s.fell).bin = s.bin := rfl
@[simp] theorem State.fell_module (s : State) : (s.fell).module = s.module := rfl
@[simp] theorem State.fell_mem (s : State) : (s.fell).mem = s.mem := rfl
@[simp] theorem State.fell_tlb (s : State) : (s.fell).tlb = s.tlb := rfl
@[simp] theorem State.fell_ucopies (s : State) : (s.fell).ucopies = s.ucopies := rfl
@[simp] theorem State.fell_excl (s : State) : (s.fell).excl = s.excl := rfl
@[simp] theorem State.fell_bad (s : State) : (s.fell).bad = s.bad := rfl
@[simp] theorem State.fell_denied (s : State) : (s.fell).denied = s.denied := rfl
@[simp] theorem State.fell_domains (s : State) : (s.fell).domains = s.domains := rfl
@[simp] theorem State.fell_gates (s : State) : (s.fell).gates = s.gates := rfl
@[simp] theorem State.fell_owners (s : State) : (s.fell).owners = s.owners := rfl
@[simp] theorem State.fell_launches (s : State) : (s.fell).launches = s.launches := rfl
@[simp] theorem State.fell_devq (s : State) : (s.fell).devq = s.devq := rfl
@[simp] theorem State.fell_dieq (s : State) : (s.fell).dieq = s.dieq := rfl
@[simp] theorem State.fell_hostq (s : State) : (s.fell).hostq = s.hostq := rfl
@[simp] theorem State.fell_groups (s : State) : (s.fell).groups = s.groups := rfl
@[simp] theorem State.fell_ggens (s : State) : (s.fell).ggens = s.ggens := rfl
@[simp] theorem State.fell_greqs (s : State) : (s.fell).greqs = s.greqs := rfl
@[simp] theorem State.fell_fills (s : State) : (s.fell).fills = s.fills := rfl
@[simp] theorem State.fell_streams (s : State) : (s.fell).streams = s.streams := rfl
@[simp] theorem State.fell_msgs (s : State) : (s.fell).msgs = s.msgs := rfl
@[simp] theorem State.fell_trellis (s : State) : (s.fell).trellis = s.trellis := rfl
@[simp] theorem State.fell_matrices (s : State) : (s.fell).matrices = s.matrices := rfl
@[simp] theorem State.fell_grotto (s : State) : (s.fell).grotto = s.grotto := rfl
@[simp] theorem State.fell_scheds (s : State) : (s.fell).scheds = s.scheds := rfl
@[simp] theorem State.fell_schedNew (s : State) : (s.fell).schedNew = s.schedNew := rfl
@[simp] theorem State.fell_mapVer (s : State) : (s.fell).mapVer = s.mapVer := rfl
@[simp] theorem State.fell_links (s : State) : (s.fell).links = s.links := rfl
@[simp] theorem State.fell_fports (s : State) : (s.fell).fports = s.fports := rfl
@[simp] theorem State.fell_switches (s : State) : (s.fell).switches = s.switches := rfl
@[simp] theorem State.fell_migctl (s : State) : (s.fell).migctl = s.migctl := rfl
@[simp] theorem State.fell_migTable (s : State) : (s.fell).migTable = s.migTable := rfl
@[simp] theorem State.fell_migRing (s : State) : (s.fell).migRing = s.migRing := rfl
@[simp] theorem State.fell_migNext (s : State) : (s.fell).migNext = s.migNext := rfl
@[simp] theorem State.fell_cxlUp (s : State) : (s.fell).cxlUp = s.cxlUp := rfl
@[simp] theorem State.fell_cxlBuf (s : State) : (s.fell).cxlBuf = s.cxlBuf := rfl
@[simp] theorem State.fell_shared (s : State) : (s.fell).shared = s.shared := rfl
@[simp] theorem State.fell_pageKeys (s : State) : (s.fell).pageKeys = s.pageKeys := rfl
@[simp] theorem State.fell_regions (s : State) : (s.fell).regions = s.regions := rfl
@[simp] theorem State.fell_hostLine (s : State) : (s.fell).hostLine = s.hostLine := rfl
@[simp] theorem State.fell_rasLog (s : State) : (s.fell).rasLog = s.rasLog := rfl
@[simp] theorem State.fell_corrected (s : State) : (s.fell).corrected = s.corrected := rfl
@[simp] theorem State.fell_strandOn (s : State) : (s.fell).strandOn = s.strandOn := rfl
@[simp] theorem State.fell_stranded (s : State) : (s.fell).stranded = s.stranded := rfl
@[simp] theorem State.fell_ctlUp (s : State) : (s.fell).ctlUp = s.ctlUp := rfl
@[simp] theorem State.fell_ctlBack (s : State) : (s.fell).ctlBack = s.ctlBack := rfl
@[simp] theorem State.fell_xfence (s : State) : (s.fell).xfence = s.xfence := rfl
@[simp] theorem State.fell_xfences (s : State) : (s.fell).xfences = s.xfences := rfl
@[simp] theorem State.fell_hostRead (s : State) : (s.fell).hostRead = s.hostRead := rfl
@[simp] theorem State.fell_storeqs (s : State) : (s.fell).storeqs = s.storeqs := rfl
@[simp] theorem State.fell_storing (s : State) : (s.fell).storing = s.storing := rfl
@[simp] theorem State.fell_late (s : State) : (s.fell).late = s.late := rfl
@[simp] theorem State.fell_collects (s : State) : (s.fell).collects = s.collects := rfl
@[simp] theorem State.fell_refused (s : State) : (s.fell).refused = s.refused := rfl
@[simp] theorem State.fell_sessions (s : State) : (s.fell).sessions = s.sessions := rfl
@[simp] theorem State.fell_meas (s : State) : (s.fell).meas = s.meas := rfl
@[simp] theorem State.fell_clocks (s : State) : (s.fell).clocks = s.clocks := rfl
@[simp] theorem State.fell_power (s : State) : (s.fell).power = s.power := rfl
@[simp] theorem State.fell_ltr (s : State) : (s.fell).ltr = s.ltr := rfl
@[simp] theorem State.fell_tripped (s : State) : (s.fell).tripped = s.tripped := rfl
@[simp] theorem State.fell_bootCause (s : State) : (s.fell).bootCause = s.bootCause := rfl
@[simp] theorem State.fell_booting (s : State) : (s.fell).booting = s.booting := rfl
@[simp] theorem State.fell_bootStep (s : State) : (s.fell).bootStep = s.bootStep := rfl
@[simp] theorem State.fell_ready (s : State) : (s.fell).ready = s.ready := rfl
@[simp] theorem State.fell_cycle (s : State) : (s.fell).cycle = s.cycle := rfl
@[simp] theorem State.fell_ns (s : State) : (s.fell).ns = s.ns := rfl

/-! ### Fields of a core and of a thread after an update -/

@[simp] theorem Core.setThread_valid (k : Core) (i : BitVec 2) (t : Thread) : (k.setThread i t).valid = k.valid := rfl
@[simp] theorem Core.setThread_owner (k : Core) (i : BitVec 2) (t : Thread) : (k.setThread i t).owner = k.owner := rfl
@[simp] theorem Core.setThread_scrub (k : Core) (i : BitVec 2) (t : Thread) : (k.setThread i t).scrub = k.scrub := rfl
@[simp] theorem Core.setThread_pb1 (k : Core) (i : BitVec 2) (t : Thread) : (k.setThread i t).pb1 = k.pb1 := rfl
@[simp] theorem Core.setThread_pb2 (k : Core) (i : BitVec 2) (t : Thread) : (k.setThread i t).pb2 = k.pb2 := rfl
@[simp] theorem Core.setThread_pb3 (k : Core) (i : BitVec 2) (t : Thread) : (k.setThread i t).pb3 = k.pb3 := rfl
@[simp] theorem Core.setThread_pool (k : Core) (i : BitVec 2) (t : Thread) : (k.setThread i t).pool = k.pool := rfl
@[simp] theorem Core.setThread_worn (k : Core) (i : BitVec 2) (t : Thread) : (k.setThread i t).worn = k.worn := rfl
@[simp] theorem Core.setThread_full (k : Core) (i : BitVec 2) (t : Thread) : (k.setThread i t).full = k.full := rfl
@[simp] theorem Core.setThread_marks (k : Core) (i : BitVec 2) (t : Thread) : (k.setThread i t).marks = k.marks := rfl
@[simp] theorem Core.setThread_deferred (k : Core) (i : BitVec 2) (t : Thread) : (k.setThread i t).deferred = k.deferred := rfl
@[simp] theorem Core.setThread_sems (k : Core) (i : BitVec 2) (t : Thread) : (k.setThread i t).sems = k.sems := rfl
@[simp] theorem Core.setThread_semq (k : Core) (i : BitVec 2) (t : Thread) : (k.setThread i t).semq = k.semq := rfl
@[simp] theorem Core.setThread_mq (k : Core) (i : BitVec 2) (t : Thread) : (k.setThread i t).mq = k.mq := rfl
@[simp] theorem Core.setThread_cmds (k : Core) (i : BitVec 2) (t : Thread) : (k.setThread i t).cmds = k.cmds := rfl
@[simp] theorem Core.setThread_frec (k : Core) (i : BitVec 2) (t : Thread) : (k.setThread i t).frec = k.frec := rfl
@[simp] theorem Core.setThread_ovf (k : Core) (i : BitVec 2) (t : Thread) : (k.setThread i t).ovf = k.ovf := rfl
@[simp] theorem Core.setThread_routes (k : Core) (i : BitVec 2) (t : Thread) : (k.setThread i t).routes = k.routes := rfl
@[simp] theorem Core.setThread_chans (k : Core) (i : BitVec 2) (t : Thread) : (k.setThread i t).chans = k.chans := rfl
@[simp] theorem Core.setThread_queue (k : Core) (i : BitVec 2) (t : Thread) : (k.setThread i t).queue = k.queue := rfl
@[simp] theorem Core.setThread_ring (k : Core) (i : BitVec 2) (t : Thread) : (k.setThread i t).ring = k.ring := rfl
@[simp] theorem Core.setThread_parked (k : Core) (i : BitVec 2) (t : Thread) : (k.setThread i t).parked = k.parked := rfl
@[simp] theorem Core.setThread_sums (k : Core) (i : BitVec 2) (t : Thread) : (k.setThread i t).sums = k.sums := rfl
@[simp] theorem Core.setThread_cnts (k : Core) (i : BitVec 2) (t : Thread) : (k.setThread i t).cnts = k.cnts := rfl
@[simp] theorem Core.setThread_dbg (k : Core) (i : BitVec 2) (t : Thread) : (k.setThread i t).dbg = k.dbg := rfl
@[simp] theorem Core.setThread_encoder (k : Core) (i : BitVec 2) (t : Thread) : (k.setThread i t).encoder = k.encoder := rfl
@[simp] theorem Core.setThread_dropped (k : Core) (i : BitVec 2) (t : Thread) : (k.setThread i t).dropped = k.dropped := rfl
@[simp] theorem Core.setThread_last (k : Core) (i : BitVec 2) (t : Thread) : (k.setThread i t).last = k.last := rfl
@[simp] theorem Core.setThread_port (k : Core) (i : BitVec 2) (t : Thread) : (k.setThread i t).port = k.port := rfl
@[simp] theorem Core.setThread_counts (k : Core) (i : BitVec 2) (t : Thread) : (k.setThread i t).counts = k.counts := rfl
@[simp] theorem Core.setThread_change (k : Core) (i : BitVec 2) (t : Thread) : (k.setThread i t).change = k.change := rfl

@[simp] theorem Thread.wrV_run (t : Thread) (n : R) (x : VReg) : (t.wrV n x).run = t.run := rfl
@[simp] theorem Thread.wrV_pc (t : Thread) (n : R) (x : VReg) : (t.wrV n x).pc = t.pc := rfl
@[simp] theorem Thread.wrV_g (t : Thread) (n : R) (x : VReg) : (t.wrV n x).g = t.g := rfl
@[simp] theorem Thread.wrV_p (t : Thread) (n : R) (x : VReg) : (t.wrV n x).p = t.p := rfl
@[simp] theorem Thread.wrV_lc (t : Thread) (n : R) (x : VReg) : (t.wrV n x).lc = t.lc := rfl
@[simp] theorem Thread.wrV_level (t : Thread) (n : R) (x : VReg) : (t.wrV n x).level = t.level := rfl
@[simp] theorem Thread.wrV_domid (t : Thread) (n : R) (x : VReg) : (t.wrV n x).domid = t.domid := rfl
@[simp] theorem Thread.wrV_frames (t : Thread) (n : R) (x : VReg) : (t.wrV n x).frames = t.frames := rfl
@[simp] theorem Thread.wrV_sys (t : Thread) (n : R) (x : VReg) : (t.wrV n x).sys = t.sys := rfl
@[simp] theorem Thread.wrV_shadow (t : Thread) (n : R) (x : VReg) : (t.wrV n x).shadow = t.shadow := rfl
@[simp] theorem Thread.wrV_spbudget (t : Thread) (n : R) (x : VReg) : (t.wrV n x).spbudget = t.spbudget := rfl
@[simp] theorem Thread.wrV_wdog (t : Thread) (n : R) (x : VReg) : (t.wrV n x).wdog = t.wdog := rfl
@[simp] theorem Thread.wrV_fetch (t : Thread) (n : R) (x : VReg) : (t.wrV n x).fetch = t.fetch := rfl
@[simp] theorem Thread.wrV_inLine (t : Thread) (n : R) (x : VReg) : (t.wrV n x).inLine = t.inLine := rfl
@[simp] theorem Thread.wrV_watch (t : Thread) (n : R) (x : VReg) : (t.wrV n x).watch = t.watch := rfl
@[simp] theorem Thread.wrV_trace (t : Thread) (n : R) (x : VReg) : (t.wrV n x).trace = t.trace := rfl
@[simp] theorem Thread.wrV_wait (t : Thread) (n : R) (x : VReg) : (t.wrV n x).wait = t.wait := rfl
@[simp] theorem Thread.wrV_held (t : Thread) (n : R) (x : VReg) : (t.wrV n x).held = t.held := rfl
@[simp] theorem Thread.wrV_unwind (t : Thread) (n : R) (x : VReg) : (t.wrV n x).unwind = t.unwind := rfl
@[simp] theorem Thread.wrV_preempt (t : Thread) (n : R) (x : VReg) : (t.wrV n x).preempt = t.preempt := rfl
@[simp] theorem Thread.wrV_exempt (t : Thread) (n : R) (x : VReg) : (t.wrV n x).exempt = t.exempt := rfl
@[simp] theorem Thread.wrV_boundary (t : Thread) (n : R) (x : VReg) : (t.wrV n x).boundary = t.boundary := rfl
@[simp] theorem Thread.wrV_mask (t : Thread) (n : R) (x : VReg) : (t.wrV n x).mask = t.mask := rfl
@[simp] theorem Thread.wrV_late (t : Thread) (n : R) (x : VReg) : (t.wrV n x).late = t.late := rfl

@[simp] theorem Thread.wrP_run (t : Thread) (n : P) (x : Word) : (t.wrP n x).run = t.run := rfl
@[simp] theorem Thread.wrP_pc (t : Thread) (n : P) (x : Word) : (t.wrP n x).pc = t.pc := rfl
@[simp] theorem Thread.wrP_g (t : Thread) (n : P) (x : Word) : (t.wrP n x).g = t.g := rfl
@[simp] theorem Thread.wrP_v (t : Thread) (n : P) (x : Word) : (t.wrP n x).v = t.v := rfl
@[simp] theorem Thread.wrP_lc (t : Thread) (n : P) (x : Word) : (t.wrP n x).lc = t.lc := rfl
@[simp] theorem Thread.wrP_level (t : Thread) (n : P) (x : Word) : (t.wrP n x).level = t.level := rfl
@[simp] theorem Thread.wrP_domid (t : Thread) (n : P) (x : Word) : (t.wrP n x).domid = t.domid := rfl
@[simp] theorem Thread.wrP_frames (t : Thread) (n : P) (x : Word) : (t.wrP n x).frames = t.frames := rfl
@[simp] theorem Thread.wrP_sys (t : Thread) (n : P) (x : Word) : (t.wrP n x).sys = t.sys := rfl
@[simp] theorem Thread.wrP_shadow (t : Thread) (n : P) (x : Word) : (t.wrP n x).shadow = t.shadow := rfl
@[simp] theorem Thread.wrP_spbudget (t : Thread) (n : P) (x : Word) : (t.wrP n x).spbudget = t.spbudget := rfl
@[simp] theorem Thread.wrP_wdog (t : Thread) (n : P) (x : Word) : (t.wrP n x).wdog = t.wdog := rfl
@[simp] theorem Thread.wrP_fetch (t : Thread) (n : P) (x : Word) : (t.wrP n x).fetch = t.fetch := rfl
@[simp] theorem Thread.wrP_inLine (t : Thread) (n : P) (x : Word) : (t.wrP n x).inLine = t.inLine := rfl
@[simp] theorem Thread.wrP_watch (t : Thread) (n : P) (x : Word) : (t.wrP n x).watch = t.watch := rfl
@[simp] theorem Thread.wrP_trace (t : Thread) (n : P) (x : Word) : (t.wrP n x).trace = t.trace := rfl
@[simp] theorem Thread.wrP_wait (t : Thread) (n : P) (x : Word) : (t.wrP n x).wait = t.wait := rfl
@[simp] theorem Thread.wrP_held (t : Thread) (n : P) (x : Word) : (t.wrP n x).held = t.held := rfl
@[simp] theorem Thread.wrP_unwind (t : Thread) (n : P) (x : Word) : (t.wrP n x).unwind = t.unwind := rfl
@[simp] theorem Thread.wrP_preempt (t : Thread) (n : P) (x : Word) : (t.wrP n x).preempt = t.preempt := rfl
@[simp] theorem Thread.wrP_exempt (t : Thread) (n : P) (x : Word) : (t.wrP n x).exempt = t.exempt := rfl
@[simp] theorem Thread.wrP_boundary (t : Thread) (n : P) (x : Word) : (t.wrP n x).boundary = t.boundary := rfl
@[simp] theorem Thread.wrP_mask (t : Thread) (n : P) (x : Word) : (t.wrP n x).mask = t.mask := rfl
@[simp] theorem Thread.wrP_late (t : Thread) (n : P) (x : Word) : (t.wrP n x).late = t.late := rfl

@[simp] theorem Thread.setG_run (t : Thread) (n : R) (v : Word) (tag : Tag) : (t.setG n v tag).run = t.run := by
  unfold Thread.setG; split <;> rfl
@[simp] theorem Thread.setG_pc (t : Thread) (n : R) (v : Word) (tag : Tag) : (t.setG n v tag).pc = t.pc := by
  unfold Thread.setG; split <;> rfl
@[simp] theorem Thread.setG_v (t : Thread) (n : R) (v : Word) (tag : Tag) : (t.setG n v tag).v = t.v := by
  unfold Thread.setG; split <;> rfl
@[simp] theorem Thread.setG_p (t : Thread) (n : R) (v : Word) (tag : Tag) : (t.setG n v tag).p = t.p := by
  unfold Thread.setG; split <;> rfl
@[simp] theorem Thread.setG_lc (t : Thread) (n : R) (v : Word) (tag : Tag) : (t.setG n v tag).lc = t.lc := by
  unfold Thread.setG; split <;> rfl
@[simp] theorem Thread.setG_level (t : Thread) (n : R) (v : Word) (tag : Tag) : (t.setG n v tag).level = t.level := by
  unfold Thread.setG; split <;> rfl
@[simp] theorem Thread.setG_domid (t : Thread) (n : R) (v : Word) (tag : Tag) : (t.setG n v tag).domid = t.domid := by
  unfold Thread.setG; split <;> rfl
@[simp] theorem Thread.setG_frames (t : Thread) (n : R) (v : Word) (tag : Tag) : (t.setG n v tag).frames = t.frames := by
  unfold Thread.setG; split <;> rfl
@[simp] theorem Thread.setG_sys (t : Thread) (n : R) (v : Word) (tag : Tag) : (t.setG n v tag).sys = t.sys := by
  unfold Thread.setG; split <;> rfl
@[simp] theorem Thread.setG_shadow (t : Thread) (n : R) (v : Word) (tag : Tag) : (t.setG n v tag).shadow = t.shadow := by
  unfold Thread.setG; split <;> rfl
@[simp] theorem Thread.setG_spbudget (t : Thread) (n : R) (v : Word) (tag : Tag) : (t.setG n v tag).spbudget = t.spbudget := by
  unfold Thread.setG; split <;> rfl
@[simp] theorem Thread.setG_wdog (t : Thread) (n : R) (v : Word) (tag : Tag) : (t.setG n v tag).wdog = t.wdog := by
  unfold Thread.setG; split <;> rfl
@[simp] theorem Thread.setG_fetch (t : Thread) (n : R) (v : Word) (tag : Tag) : (t.setG n v tag).fetch = t.fetch := by
  unfold Thread.setG; split <;> rfl
@[simp] theorem Thread.setG_inLine (t : Thread) (n : R) (v : Word) (tag : Tag) : (t.setG n v tag).inLine = t.inLine := by
  unfold Thread.setG; split <;> rfl
@[simp] theorem Thread.setG_watch (t : Thread) (n : R) (v : Word) (tag : Tag) : (t.setG n v tag).watch = t.watch := by
  unfold Thread.setG; split <;> rfl
@[simp] theorem Thread.setG_trace (t : Thread) (n : R) (v : Word) (tag : Tag) : (t.setG n v tag).trace = t.trace := by
  unfold Thread.setG; split <;> rfl
@[simp] theorem Thread.setG_wait (t : Thread) (n : R) (v : Word) (tag : Tag) : (t.setG n v tag).wait = t.wait := by
  unfold Thread.setG; split <;> rfl
@[simp] theorem Thread.setG_held (t : Thread) (n : R) (v : Word) (tag : Tag) : (t.setG n v tag).held = t.held := by
  unfold Thread.setG; split <;> rfl
@[simp] theorem Thread.setG_unwind (t : Thread) (n : R) (v : Word) (tag : Tag) : (t.setG n v tag).unwind = t.unwind := by
  unfold Thread.setG; split <;> rfl
@[simp] theorem Thread.setG_preempt (t : Thread) (n : R) (v : Word) (tag : Tag) : (t.setG n v tag).preempt = t.preempt := by
  unfold Thread.setG; split <;> rfl
@[simp] theorem Thread.setG_exempt (t : Thread) (n : R) (v : Word) (tag : Tag) : (t.setG n v tag).exempt = t.exempt := by
  unfold Thread.setG; split <;> rfl
@[simp] theorem Thread.setG_boundary (t : Thread) (n : R) (v : Word) (tag : Tag) : (t.setG n v tag).boundary = t.boundary := by
  unfold Thread.setG; split <;> rfl
@[simp] theorem Thread.setG_mask (t : Thread) (n : R) (v : Word) (tag : Tag) : (t.setG n v tag).mask = t.mask := by
  unfold Thread.setG; split <;> rfl
@[simp] theorem Thread.setG_late (t : Thread) (n : R) (v : Word) (tag : Tag) : (t.setG n v tag).late = t.late := by
  unfold Thread.setG; split <;> rfl

/-! ### Cores and threads after an update -/

@[simp] theorem State.getCore_setCore (s : State) (c : Nat) (k : Core) : (s.setCore c k).getCore c = k := getKey_putKey ..

theorem State.getCore_setCore_ne (s : State) {c d : Nat} (k : Core) (h : d ≠ c) : (s.setCore c k).getCore d = s.getCore d :=
  getKey_putKey_ne _ _ _ h

@[simp] theorem Core.thread_setThread (k : Core) (i : BitVec 2) (t : Thread) : (k.setThread i t).thread i = t := by
  simp [Core.thread, Core.setThread]

theorem Core.thread_setThread_ne (k : Core) {i j : BitVec 2} (t : Thread) (h : j ≠ i) : (k.setThread i t).thread j = k.thread j := by
  have h2 : i.toNat ≠ j.toNat := fun e => h (BitVec.eq_of_toNat_eq e.symm)
  simp [Core.thread, Core.setThread, h2]

@[simp] theorem State.getThread_setThread (s : State) (c : Nat) (i : BitVec 2) (t : Thread) : (s.setThread c i t).getThread c i = t := by
  simp [State.getThread, State.setThread]

theorem State.getThread_setThread_ne (s : State) {c d : Nat} {i j : BitVec 2} (t : Thread) (h : ¬(d = c ∧ j = i)) :
    (s.setThread c i t).getThread d j = s.getThread d j := by
  unfold State.getThread State.setThread
  by_cases hd : d = c
  · subst hd
    rw [State.getCore_setCore, Core.thread_setThread_ne _ _ (fun e => h ⟨rfl, e⟩)]
  · rw [State.getCore_setCore_ne _ _ hd]

@[simp] theorem State.getCore_setThread (s : State) (c : Nat) (i : BitVec 2) (t : Thread) :
    (s.setThread c i t).getCore c = (s.getCore c).setThread i t := by simp [State.setThread]

@[simp] theorem State.getCore_out (s : State) (o : Out) (c : Nat) : (s.out o).getCore c = s.getCore c := rfl
@[simp] theorem State.getThread_out (s : State) (o : Out) (c : Nat) (i : BitVec 2) : (s.out o).getThread c i = s.getThread c i := rfl
@[simp] theorem State.me_out (s : State) (o : Out) : (s.out o).me = s.me := rfl
@[simp] theorem State.core_out (s : State) (o : Out) : (s.out o).core = s.core := rfl
@[simp] theorem State.getCore_post (s : State) (i : Instr) (c : Nat) : (s.post i).getCore c = s.getCore c := rfl
@[simp] theorem State.me_post (s : State) (i : Instr) : (s.post i).me = s.me := rfl
@[simp] theorem State.core_post (s : State) (i : Instr) : (s.post i).core = s.core := rfl
@[simp] theorem State.me_spent (s : State) : s.spent.me = s.me := rfl
@[simp] theorem State.getCore_spent (s : State) (c : Nat) : s.spent.getCore c = s.getCore c := rfl
@[simp] theorem State.me_setMe (s : State) (t : Thread) : (s.setMe t).me = t := State.getThread_setThread ..
@[simp] theorem State.core_setMe (s : State) (t : Thread) : (s.setMe t).core = s.core.setThread s.act.thr t := State.getCore_setThread ..
@[simp] theorem State.modMe_eq (s : State) (f : Thread → Thread) : s.modMe f = s.setMe (f s.me) := rfl
@[simp] theorem State.modCore1_eq (s : State) (f : Core → Core) : s.modCore1 f = s.setCore s.act.core (f s.core) := rfl
@[simp] theorem State.modCore_eq (s : State) (c : Nat) (f : Core → Core) : s.modCore c f = s.setCore c (f (s.getCore c)) := rfl
@[simp] theorem State.modThread_eq (s : State) (c : Nat) (i : BitVec 2) (f : Thread → Thread) :
    s.modThread c i f = s.setThread c i (f (s.getThread c i)) := rfl

@[simp] theorem State.me_fell (s : State) : s.fell.me = { s.me with pc := s.act.next, wait := none } := by simp [State.fell]
@[simp] theorem State.core_fell (s : State) :
    s.fell.core = s.core.setThread s.act.thr { s.me with pc := s.act.next, wait := none } := by simp [State.fell]
@[simp] theorem State.act_fell (s : State) : s.fell.act = { s.act with out := .fell } := rfl
@[simp] theorem State.me_jump (s : State) (x : Word) : (s.jump x).me = { s.me with pc := x, wait := none } := by simp [State.jump]
@[simp] theorem State.act_jump (s : State) (x : Word) : (s.jump x).act = { s.act with out := .jumped } := rfl
@[simp] theorem State.act_out (s : State) (o : Out) : (s.out o).act = { s.act with out := o } := rfl

theorem State.getThread_fell_ne (s : State) {c : Nat} {i : BitVec 2} (h : ¬(c = s.act.core ∧ i = s.act.thr)) :
    s.fell.getThread c i = s.getThread c i := State.getThread_setThread_ne _ _ h

theorem State.getCore_fell_ne (s : State) {c : Nat} (h : c ≠ s.act.core) : s.fell.getCore c = s.getCore c :=
  State.getCore_setCore_ne _ _ h

/-! ### Registers after a write -/

theorem Thread.greg_setG (t : Thread) (n : R) (v : Word) (tag : Tag) (h : n ≠ 0) : (t.setG n v tag).greg n = ⟨v, tag⟩ := by
  unfold Thread.setG
  rw [if_neg h]
  simp [Thread.greg]

theorem Thread.greg_setG_ne (t : Thread) {n m : R} (v : Word) (tag : Tag) (h : m ≠ n) : (t.setG n v tag).greg m = t.greg m := by
  unfold Thread.setG
  split
  · rfl
  · have h2 : n.toNat ≠ m.toNat := fun e => h (BitVec.eq_of_toNat_eq e.symm)
    simp [Thread.greg, h2]

@[simp] theorem Thread.setG_zero (t : Thread) (v : Word) (tag : Tag) : t.setG 0 v tag = t := rfl
@[simp] theorem Thread.rdG_zero (t : Thread) : t.rdG 0 = .ok 0 := rfl

theorem Thread.rdG_setG (t : Thread) (n : R) (v : Word) (h : n ≠ 0) : (t.setG n v).rdG n = .ok v := by
  unfold Thread.rdG Thread.tagOf
  rw [if_neg h, if_neg h, Thread.greg_setG _ _ _ _ h]

theorem Thread.rdG_setG_ne (t : Thread) {n m : R} (v : Word) (tag : Tag) (h : m ≠ n) : (t.setG n v tag).rdG m = t.rdG m := by
  simp [Thread.rdG, Thread.tagOf, Thread.greg_setG_ne _ _ _ h]

@[simp] theorem Thread.rdV_wrV (t : Thread) (n : R) (x : VReg) : (t.wrV n x).rdV n = x := by simp [Thread.rdV, Thread.wrV]

theorem Thread.rdV_wrV_ne (t : Thread) {n m : R} (x : VReg) (h : m ≠ n) : (t.wrV n x).rdV m = t.rdV m := by
  have h2 : n.toNat ≠ m.toNat := fun e => h (BitVec.eq_of_toNat_eq e.symm)
  simp [Thread.rdV, Thread.wrV, h2]

@[simp] theorem Thread.rdP_wrP (t : Thread) (n : P) (x : Word) : (t.wrP n x).rdP n = x := by simp [Thread.rdP, Thread.wrP]

theorem Thread.rdP_wrP_ne (t : Thread) {n m : P} (x : Word) (h : m ≠ n) : (t.wrP n x).rdP m = t.rdP m := by
  have h2 : n.toNat ≠ m.toNat := fun e => h (BitVec.eq_of_toNat_eq e.symm)
  simp [Thread.rdP, Thread.wrP, h2]

end Sys2Proof.Machine
end

