-- ==== Sys2Proof/Laws/Memory.lean ====
section
/-! SUPPORT. Memory as bytes: a read after a write, that every operation on memory keeps its canonical form, and that memories
that read alike are equal. -/

namespace Sys2Proof.Machine

/-! ### The canonical form -/

/-- Memory.wf in terms of the whole list. -/
theorem Memory.wf_iff (m : Mem) :
    Memory.wf m = true ↔ m.Pairwise (fun x y => x.1 < y.1) ∧ ∀ c ∈ m, c.2 ≠ unlisted := by
  induction m with
  | nil => simp [Memory.wf]
  | cons c r ih =>
    obtain ⟨a, x⟩ := c
    cases r with
    | nil => simp [Memory.wf]
    | cons d r =>
      obtain ⟨b, y⟩ := d
      simp only [Memory.wf, Bool.and_eq_true, bne_iff_ne, ne_eq, decide_eq_true_eq, ih, List.pairwise_cons, List.mem_cons, forall_eq_or_imp]
      constructor
      · rintro ⟨⟨hx, hab⟩, ⟨hb, hr⟩, hy, h⟩
        exact ⟨⟨⟨hab, fun c hc => Nat.lt_trans hab (hb c hc)⟩, hb, hr⟩, hx, hy, h⟩
      · rintro ⟨⟨⟨hab, -⟩, hb, hr⟩, hx, hy, h⟩
        exact ⟨⟨hx, hab⟩, ⟨hb, hr⟩, hy, h⟩

theorem memGet_of_lt {m : Mem} {a : Nat} (h : ∀ c ∈ m, a < c.1) : memGet m a = unlisted := by
  induction m with
  | nil => rfl
  | cons c r ih =>
    obtain ⟨b, y⟩ := c
    have hb : a < b := h (b, y) (by simp)
    have hr := ih (fun c hc => h c (by simp [hc]))
    simp [memGet, Nat.ne_of_lt hb, hr]

theorem mem_memPut {m : Mem} {a : Nat} {x : Byte} {c : Host.Cell} (h : c ∈ memPut m a x) : c ∈ m ∨ (c = (a, x) ∧ x ≠ unlisted) := by
  induction m with
  | nil =>
    simp only [memPut] at h
    split at h <;> simp_all
  | cons d r ih =>
    obtain ⟨b, y⟩ := d
    simp only [memPut] at h
    split at h
    · split at h
      · exact .inl h
      · rcases List.mem_cons.1 h with h | h
        · exact .inr ⟨h, ‹_›⟩
        · exact .inl h
    · split at h
      · split at h
        · exact .inl (List.mem_cons_of_mem _ h)
        · rcases List.mem_cons.1 h with h | h
          · exact .inr ⟨h, ‹_›⟩
          · exact .inl (List.mem_cons_of_mem _ h)
      · rcases List.mem_cons.1 h with h | h
        · exact .inl (by simp [h])
        · rcases ih h with h | h
          · exact .inl (List.mem_cons_of_mem _ h)
          · exact .inr h

/-- A write of one byte keeps the canonical form. -/
theorem memPut_wf {m : Mem} (a : Nat) (x : Byte) (h : Memory.wf m = true) : Memory.wf (memPut m a x) = true := by
  rw [Memory.wf_iff] at h ⊢
  obtain ⟨hp, hu⟩ := h
  refine ⟨?_, fun c hc => ?_⟩
  · clear hu
    induction m with
    | nil => simp only [memPut]; split <;> simp
    | cons d r ih =>
      obtain ⟨b, y⟩ := d
      obtain ⟨hb, hr⟩ := List.pairwise_cons.1 hp
      simp only [memPut]
      split
      · split
        · exact hp
        · rename_i hab _
          refine List.pairwise_cons.2 ⟨fun c hc => ?_, hp⟩
          rcases List.mem_cons.1 hc with h | h
          · subst h; exact hab
          · exact Nat.lt_trans hab (hb c h)
      · split
        · rename_i hab
          subst hab
          split
          · exact hr
          · exact List.pairwise_cons.2 ⟨hb, hr⟩
        · refine List.pairwise_cons.2 ⟨fun c hc => ?_, ih hr⟩
          rcases mem_memPut hc with h | ⟨h, -⟩
          · exact hb c h
          · subst h; show b < a; omega
  · rcases mem_memPut hc with h | ⟨h, hx⟩
    · exact hu c h
    · subst h; exact hx

/-- Reading the byte just written. -/
theorem memGet_memPut {m : Mem} (a : Nat) (x : Byte) (h : Memory.wf m = true) : memGet (memPut m a x) a = x := by
  rw [Memory.wf_iff] at h
  obtain ⟨hp, -⟩ := h
  induction m with
  | nil => simp only [memPut]; split <;> simp_all [memGet]
  | cons d r ih =>
    obtain ⟨b, y⟩ := d
    obtain ⟨hb, hr⟩ := List.pairwise_cons.1 hp
    simp only [memPut]
    split
    · rename_i hab
      split
      · rename_i hx
        rw [hx]
        refine memGet_of_lt (fun c hc => ?_)
        rcases List.mem_cons.1 hc with h | h
        · subst h; exact hab
        · exact Nat.lt_trans hab (hb c h)
      · simp [memGet]
    · split
      · rename_i hab
        subst hab
        split
        · rename_i hx
          rw [hx]
          exact memGet_of_lt hb
        · simp [memGet]
      · rename_i h1
        simp [memGet, h1, ih hr]

/-- A write of one byte leaves every other byte as it was. -/
theorem memGet_memPut_ne (m : Mem) {a b : Nat} (x : Byte) (h : b ≠ a) : memGet (memPut m a x) b = memGet m b := by
  induction m with
  | nil => simp only [memPut]; split <;> simp [memGet, h]
  | cons d r ih =>
    obtain ⟨c, y⟩ := d
    simp only [memPut]
    split
    · split
      · rfl
      · simp [memGet, h]
    · split
      · rename_i hac
        subst hac
        split <;> simp [memGet, h]
      · simp [memGet, ih]

theorem memWrite_wf {m : Mem} (a n v : Nat) (h : Memory.wf m = true) : Memory.wf (memWrite m a n v) = true := by
  induction n generalizing m a v with
  | zero => exact h
  | succ n ih => exact ih _ _ (memPut_wf _ _ h)

theorem memWriteAt_wf {m : Mem} (a : Nat) (bs : List (Nat × Byte)) (h : Memory.wf m = true) : Memory.wf (memWriteAt m a bs) = true := by
  induction bs generalizing m with
  | nil => exact h
  | cons b r ih => exact ih (memPut_wf _ _ h)

theorem memWriteBytes_wf {m : Mem} (a : Nat) (bs : List Byte) (h : Memory.wf m = true) : Memory.wf (memWriteBytes m a bs) = true := by
  induction bs generalizing m a with
  | nil => exact h
  | cons b r ih => exact ih _ (memPut_wf _ _ h)

theorem memClear_wf {m : Mem} (a n : Nat) (h : Memory.wf m = true) : Memory.wf (memClear m a n) = true := by
  rw [Memory.wf_iff] at h ⊢
  exact ⟨h.1.filter _, fun c hc => h.2 c (List.mem_of_mem_filter hc)⟩

/-- A write of n bytes leaves the bytes outside them as they were. -/
theorem memGet_memWrite_ne (m : Mem) {a n b : Nat} (v : Nat) (h : b < a ∨ a + n ≤ b) : memGet (memWrite m a n v) b = memGet m b := by
  induction n generalizing m a v with
  | zero => rfl
  | succ n ih =>
    rw [memWrite, ih _ _ (by omega), memGet_memPut_ne _ _ (by omega)]

/-- Reading n bytes just written gives their value. -/
theorem memRead_memWrite {m : Mem} (a n v : Nat) (h : Memory.wf m = true) : memRead (memWrite m a n v) a n = v % 2 ^ (8 * n) := by
  induction n generalizing m a v with
  | zero => simp [memRead, Nat.mod_one]
  | succ n ih =>
    simp only [memWrite, memRead]
    rw [ih _ _ (memPut_wf _ _ h), memGet_memWrite_ne _ _ (by omega), memGet_memPut _ _ h, BitVec.toNat_ofNat]
    have e : 2 ^ (8 * (n + 1)) = 256 * 2 ^ (8 * n) := by rw [Nat.mul_add, Nat.pow_add, Nat.mul_comm]
    rw [e, Nat.mod_mul]

/-- Reading n bytes depends on those bytes alone. -/
theorem memRead_congr {m k : Mem} {a n : Nat} (h : ∀ i, a ≤ i → i < a + n → memGet m i = memGet k i) : memRead m a n = memRead k a n := by
  induction n generalizing a with
  | zero => rfl
  | succ n ih =>
    simp only [memRead]
    rw [h a (by omega) (by omega), ih (fun i h1 h2 => h i (by omega) (by omega))]

theorem memRead_memWrite_ne (m : Mem) {a n b k : Nat} (v : Nat) (h : b + k ≤ a ∨ a + n ≤ b) :
    memRead (memWrite m a n v) b k = memRead m b k :=
  memRead_congr (fun i h1 h2 => memGet_memWrite_ne _ _ (by omega))

/-- Writing the bytes of a number one by one. -/
theorem memWriteAt_placed (m : Mem) (a i n v : Nat) : memWriteAt m a (placed i n v) = memWrite m (a + i) n v := by
  induction n generalizing m i v with
  | zero => rfl
  | succ n ih => simp only [placed, memWriteAt, memWrite, ih, Nat.add_assoc]

/-- What a byte of a cleared range and of the rest reads as. -/
theorem memGet_memClear (m : Mem) (a n b : Nat) : memGet (memClear m a n) b = if a ≤ b ∧ b < a + n then unlisted else memGet m b := by
  induction m with
  | nil => simp [memClear, memGet]
  | cons c r ih =>
    obtain ⟨d, y⟩ := c
    unfold memClear at ih ⊢
    by_cases hk : d < a ∨ a + n ≤ d
    · have : (decide (d < a) || decide (a + n ≤ d)) = true := by simpa using hk
      simp only [List.filter_cons, this, if_true, memGet, ih]
      by_cases hb : b = d
      · subst hb
        simp only [if_true]
        rw [if_neg (by omega)]
      · simp only [hb, if_false]
    · have : (decide (d < a) || decide (a + n ≤ d)) = false := by simpa using hk
      simp only [List.filter_cons, this, Bool.false_eq_true, if_false, memGet, ih]
      by_cases hb : b = d
      · subst hb
        rw [if_pos (by omega), if_pos (by omega)]
      · simp only [hb, if_false]

/-- Canonical memories that read alike are equal. -/
theorem Memory.ext {m k : Mem} (hm : Memory.wf m = true) (hk : Memory.wf k = true) (h : ∀ a, memGet m a = memGet k a) : m = k := by
  rw [Memory.wf_iff] at hm hk
  obtain ⟨hmp, hmu⟩ := hm
  obtain ⟨hkp, hku⟩ := hk
  induction m generalizing k with
  | nil =>
    cases k with
    | nil => rfl
    | cons d r => exact absurd ((h d.1).symm.trans rfl) (by simpa [memGet] using hku d (by simp))
  | cons c r ih =>
    obtain ⟨a, x⟩ := c
    have hx : x ≠ unlisted := hmu (a, x) (by simp)
    obtain ⟨ha, hr⟩ := List.pairwise_cons.1 hmp
    cases k with
    | nil => exact absurd (h a) (by simpa [memGet] using hx)
    | cons d q =>
      obtain ⟨b, y⟩ := d
      have hy : y ≠ unlisted := hku (b, y) (by simp)
      obtain ⟨hb, hq⟩ := List.pairwise_cons.1 hkp
      have hab : a = b := by
        rcases Nat.lt_trichotomy a b with l | l | l
        · have e : memGet ((b, y) :: q) a = unlisted := memGet_of_lt (fun c hc => by
            rcases List.mem_cons.1 hc with e | e
            · subst e; exact l
            · exact Nat.lt_trans l (hb c e))
          exact absurd ((by simpa [memGet] using h a : x = _).trans e) hx
        · exact l
        · have e : memGet ((a, x) :: r) b = unlisted := memGet_of_lt (fun c hc => by
            rcases List.mem_cons.1 hc with e | e
            · subst e; exact l
            · exact Nat.lt_trans l (ha c e))
          exact absurd ((by simpa [memGet] using (h b).symm : y = _).trans e) hy
      subst hab
      have hxy : x = y := by simpa [memGet] using h a
      subst hxy
      rw [ih (fun z => ?_) hr (fun c hc => hmu c (List.mem_cons_of_mem _ hc)) hq (fun c hc => hku c (List.mem_cons_of_mem _ hc))]
      by_cases hz : z = a
      · subst hz
        rw [memGet_of_lt ha, memGet_of_lt hb]
      · simpa [memGet, hz] using h z

/-! ### The invariant of memory under updates -/

theorem resetCore_pool : resetCore.pool = [] := rfl

theorem State.MemOk.pool {s : State} (h : s.MemOk) (c : Nat) : Memory.wf (s.getCore c).pool = true := by
  rcases getKey_mem c resetCore s.cores with e | e
  · show Memory.wf (getKey c resetCore s.cores).pool = true
    rw [e]; rfl
  · exact h.2 _ e

/-- The invariant of a state with the cores of s and a memory in canonical form. -/
theorem State.MemOk.ofMem {s t : State} (h : s.MemOk) (m : Mem) (hm : t.mem = m) (hc : t.cores = s.cores) (hw : Memory.wf m = true) :
    t.MemOk := ⟨hm ▸ hw, fun e he => h.2 e (hc ▸ he)⟩

/-- Replacing a core keeps the invariant where the new pool is in canonical form. -/
theorem State.MemOk.setCore {s : State} (h : s.MemOk) (c : Nat) {k : Core} (hk : Memory.wf k.pool = true) : (s.setCore c k).MemOk := by
  refine ⟨h.1, fun e he => ?_⟩
  rcases mem_putKey he with e' | e'
  · subst e'; exact hk
  · exact h.2 _ e'

/-- A change of a core that leaves its pool keeps the invariant. -/
theorem State.MemOk.modCore {s : State} (h : s.MemOk) (c : Nat) {f : Core → Core} (hf : (f (s.getCore c)).pool = (s.getCore c).pool) :
    (s.modCore c f).MemOk := h.setCore c (by rw [hf]; exact h.pool c)

theorem State.MemOk.setThread {s : State} (h : s.MemOk) (c : Nat) (i : BitVec 2) (t : Thread) : (s.setThread c i t).MemOk :=
  h.setCore c (h.pool c)

theorem State.MemOk.setMe {s : State} (h : s.MemOk) (t : Thread) : (s.setMe t).MemOk := h.setThread _ _ t

theorem State.MemOk.fell {s : State} (h : s.MemOk) : s.fell.MemOk := h.setMe _

theorem State.MemOk.jump {s : State} (h : s.MemOk) (x : Word) : (s.jump x).MemOk := h.setMe _

theorem State.MemOk.gives {s : State} (h : s.MemOk) (d : R) (v : Word) : (s.gives d v).MemOk := (h.setMe _).fell

/-- A write of one byte to the device's memory, or to a half of a host line, keeps the invariant. -/
theorem State.MemOk.writeBack {s : State} (h : s.MemOk) (half : Nat) : (s.writeBack half).MemOk := by
  unfold State.writeBack
  split
  · rename_i e _
    have hw := memWrite_wf half 64 e.2.toNat h.1
    generalize memWrite s.mem half 64 e.2.toNat = m at hw ⊢
    exact ⟨hw, h.2⟩
  · exact h

theorem State.MemOk.roomDirty {s : State} (h : s.MemOk) : s.roomDirty.MemOk := by
  unfold State.roomDirty
  split
  · split
    · exact h
    · exact h.writeBack _
  · exact h

theorem State.MemOk.putByte {s : State} (h : s.MemOk) (uc : Bool) (cell : Nat) (x : Byte) : (s.putByte uc cell x).MemOk := by
  unfold State.putByte
  by_cases h1 : (decide (paSpace cell = 3) && !uc) = true
  · rw [if_pos h1]
    have hs : (if (s.hostLine.any (fun e => e.1 = halfOf cell)) then s else s.roomDirty).MemOk := by
      split
      · exact h
      · exact h.roomDirty
    exact ⟨hs.1, hs.2⟩
  · rw [if_neg h1]
    split
    · exact ⟨memPut_wf _ _ (h.writeBack _).1, (h.writeBack _).2⟩
    · exact ⟨memPut_wf _ _ h.1, h.2⟩

theorem State.MemOk.putBytes {s : State} (h : s.MemOk) (uc : Bool) (cell n v : Nat) : (s.putBytes uc cell n v).MemOk := by
  induction n generalizing s cell v with
  | zero => exact h
  | succ n ih => exact ih (h.putByte _ _ _) _ _

theorem State.MemOk.putAt {s : State} (h : s.MemOk) (uc : Bool) (cell : Nat) (bs : List (Nat × Byte)) : (s.putAt uc cell bs).MemOk := by
  induction bs generalizing s with
  | nil => exact h
  | cons b r ih => exact ih (h.putByte _ _ _)

/-- A change of every core that leaves the pools keeps the invariant. -/
theorem State.MemOk.mapCores {s : State} (h : s.MemOk) {f : Nat → Core → Core} (hf : ∀ c k, (f c k).pool = k.pool) :
    (s.mapCores f).MemOk := by
  refine ⟨h.1, fun e he => ?_⟩
  obtain ⟨x, hx, rfl⟩ := List.mem_map.1 he
  show Memory.wf (f x.1 x.2).pool = true
  rw [hf]
  exact h.2 x hx

theorem reset_memOk : State.reset.MemOk := ⟨rfl, fun _ h => nomatch h⟩

end Sys2Proof.Machine
end

