-- ==== Sys2Proof/Laws/Ops.lean ====
section
/-! SUPPORT. The shared operations, each by what it can do: the end of a meaning, the scalar forms, taking an exception and
returning from one, lanes, and the frames of what they leave. -/

namespace Sys2Proof.Machine

/-! ### The end of a meaning -/

@[simp] theorem settle_ok (s t : State) : settle s (.ok t) = .next t := rfl
@[simp] theorem settle_fault (s : State) (f : Flt) : settle s (.error (.fault f)) = .next (s.trap f) := rfl
@[simp] theorem settle_faultIn (s t : State) (f : Flt) : settle s (.error (.faultIn t f)) = .next (t.trap f) := rfl
@[simp] theorem settle_hold (s : State) (w : Option WaitKind) : settle s (.error (.hold w)) = .next (s.waits w) := rfl

/-- A meaning that ends in settle answers a next state. -/
theorem settle_next (s : State) (r : Ex State) : ∃ t : State, settle s r = .next t := by
  rcases r with (f | ⟨t, f⟩ | w) | t <;> exact ⟨_, rfl⟩

/-- A meaning over the executing thread alone answers a next state. -/
theorem onThread_next (f : Thread → Ex Thread) (s : State) : ∃ t : State, onThread f s = .next t := settle_next _ _

theorem onThread_ok {f : Thread → Ex Thread} {s : State} {t : Thread} (h : f s.me = .ok t) : onThread f s = .next (s.setMe t).fell := by
  simp [onThread, h, bind, Except.bind]

theorem onThread_fault {f : Thread → Ex Thread} {s : State} {e : Flt} (h : f s.me = raise e) : onThread f s = .next (s.trap e) := by
  simp [onThread, h, bind, Except.bind, raise]

/-! ### Register writes and sources -/

theorem Thread.freeG_ok {t : Thread} {d : R} (h : t.tagOf d ≠ .handle) : t.freeG d = .ok () := by
  simp [Thread.freeG, faultIf, h]

theorem Thread.freeG_fault {t : Thread} {d : R} (h : t.tagOf d = .handle) : t.freeG d = raise (flt .handleStore (d.setWidth 64 ||| 0x20)) := by
  simp [Thread.freeG, faultIf, h]

theorem Thread.wrG_ok {t : Thread} {d : R} (v : Word) (h : t.tagOf d ≠ .handle) : t.wrG d v = .ok (t.setG d v) := by
  simp [Thread.wrG, Thread.freeG_ok h, bind, Except.bind]

theorem Thread.wrG_fault {t : Thread} {d : R} (v : Word) (h : t.tagOf d = .handle) :
    t.wrG d v = raise (flt .handleStore (d.setWidth 64 ||| 0x20)) := by
  simp [Thread.wrG, Thread.freeG_fault h, bind, Except.bind, raise]

theorem Thread.rdG_moved {t : Thread} {a : R} (h : t.tagOf a = .movedFrom) : t.rdG a = raise (flt .handleMoved (a.setWidth 64)) := by
  simp [Thread.rdG, h]

theorem Thread.rd2_ok {t : Thread} {a b : R} {x y : Word} (h1 : t.rdG a = .ok x) (h2 : t.rdG b = .ok y) : t.rd2 a b = .ok (x, y) := by
  simp [Thread.rd2, h1, h2, bind, Except.bind]

/-- A register of the executing thread reads as its value unless it has been moved from, and then reading it faults. -/
theorem Thread.rdG_cases (t : Thread) (a : R) :
    (∃ x, t.rdG a = .ok x) ∨ (t.tagOf a = .movedFrom ∧ t.rdG a = raise (flt .handleMoved (a.setWidth 64))) := by
  cases h : t.tagOf a <;> simp [Thread.rdG, h]

/-! ### The scalar forms -/

theorem alu3_ok {d a b : R} (f : Word → Word → Word) {x y : Word} {s : State} (h1 : s.Reads a x) (h2 : s.Reads b y) (h3 : s.Takes d) :
    alu3 d a b f s = .next (s.gives d (f x y)) :=
  onThread_ok (by simp [Thread.rd2_ok h1 h2, Thread.wrG_ok _ h3, bind, Except.bind])

theorem alu3_moved_a {d a b : R} (f : Word → Word → Word) {s : State} (h : s.me.tagOf a = .movedFrom) :
    alu3 d a b f s = .next (s.trap (flt .handleMoved (a.setWidth 64))) :=
  onThread_fault (by simp [Thread.rd2, Thread.rdG_moved h, bind, Except.bind, raise])

theorem alu3_moved_b {d a b : R} (f : Word → Word → Word) {x : Word} {s : State} (h1 : s.Reads a x) (h : s.me.tagOf b = .movedFrom) :
    alu3 d a b f s = .next (s.trap (flt .handleMoved (b.setWidth 64))) := by
  unfold State.Reads at h1
  exact onThread_fault (by simp [Thread.rd2, h1, Thread.rdG_moved h, bind, Except.bind, raise])

theorem alu3_store {d a b : R} (f : Word → Word → Word) {x y : Word} {s : State} (h1 : s.Reads a x) (h2 : s.Reads b y)
    (h : s.me.tagOf d = .handle) : alu3 d a b f s = .next (s.trap (flt .handleStore (d.setWidth 64 ||| 0x20))) :=
  onThread_fault (by simp [Thread.rd2_ok h1 h2, Thread.wrG_fault _ h, bind, Except.bind])

theorem alu2_ok {d a : R} (f : Word → Word) {x : Word} {s : State} (h1 : s.Reads a x) (h3 : s.Takes d) :
    alu2 d a f s = .next (s.gives d (f x)) := by
  unfold State.Reads at h1
  exact onThread_ok (by simp [h1, Thread.wrG_ok _ h3, bind, Except.bind])

theorem alu4_ok {d i j k : R} (f : Word → Word → Word → Word) {x y z : Word} {s : State} (h1 : s.Reads i x) (h2 : s.Reads j y)
    (h3 : s.Reads k z) (h4 : s.Takes d) : alu4 d i j k f s = .next (s.gives d (f x y z)) := by
  unfold State.Reads at h3
  exact onThread_ok (by simp [Thread.rd2_ok h1 h2, h3, Thread.wrG_ok _ h4, bind, Except.bind])

/-! ### What an end leaves -/

@[simp] theorem State.me_gives (s : State) (d : R) (v : Word) : (s.gives d v).me = { s.me.setG d v with pc := s.act.next, wait := none } := by
  simp [State.gives]

theorem State.getThread_gives_ne (s : State) {c : Nat} {i : BitVec 2} (d : R) (v : Word) (h : ¬(c = s.act.core ∧ i = s.act.thr)) :
    (s.gives d v).getThread c i = s.getThread c i := by
  exact (State.getThread_fell_ne (s.setMe _) h).trans (State.getThread_setThread_ne _ _ h)

/-- A core with one thread replaced differs in its threads alone. -/
theorem Core.setThread_rest (k : Core) (i : BitVec 2) (t : Thread) : { k.setThread i t with threads := k.threads } = k := rfl

/-- Replacing the executing thread and ending leaves everything elsewhere. -/
theorem sameElsewhere_fell (s : State) (t : Thread) : SameElsewhere s (s.setMe t).fell := by
  refine ⟨fun c i h => ?_, fun c => ?_, rfl⟩
  · exact (State.getThread_fell_ne (s.setMe _) h).trans (State.getThread_setThread_ne _ _ h)
  · by_cases hc : c = s.act.core
    · subst hc
      have e : (s.setMe t).fell.getCore s.act.core = (s.core.setThread s.act.thr t).setThread s.act.thr { t with pc := s.act.next, wait := none } := by
        show (s.setMe t).fell.core = _
        simp
      rw [e]
      rfl
    · have e : (s.setMe t).fell.getCore c = s.getCore c :=
        (State.getCore_fell_ne (s.setMe _) hc).trans (State.getCore_setCore_ne _ _ hc)
      rw [e]

/-! ### Taking an exception and returning -/

/-- A delivery to a thread whose domain has a handler, with none running and no unwind handler. -/
theorem State.deliver_enters {s : State} {c : Nat} {i : BitVec 2} (f : Flt) (async : Bool) (loc : Word)
    (hv : (s.domain (s.getThread c i).domid).tvec ≠ 0) (ha : (s.getThread c i).active = false)
    (hu : ∀ u, (s.getThread c i).unwind = some u → u.handler = none) :
    s.deliver c i f async loc =
      (((s.countFault (s.getThread c i).launch).modThread c i
        (fun t => t.enter f async loc (s.domain (s.getThread c i).domid).tvec)).traceAs c i (some 2) 3
          (causeWord f.cause async (s.getThread c i).level) loc) := by
  unfold State.deliver
  simp only [ha, Bool.false_eq_true, if_false, hv]
  split
  · rename_i u hs
    have := hu _ hs
    simp at this
  · rfl

@[simp] theorem Core.thread_emit (k : Core) (r : TraceRec) (i : BitVec 2) : (k.emit r).thread i = k.thread i := by
  unfold Core.emit
  split <;> rfl

/-- A trace record changes no thread. -/
theorem State.traceAs_getThread (s : State) (c d : Nat) (i j : BitVec 2) (bit : Option Nat) (kind : BitVec 4) (a b : Word) :
    (s.traceAs c i bit kind a b).getThread d j = s.getThread d j := by
  have key : ∀ r : TraceRec, (s.setCore c ((s.getCore c).emit r)).getThread d j = s.getThread d j := by
    intro r
    by_cases h : d = c
    · subst h
      simp only [State.getThread, State.getCore_setCore, Core.thread_emit]
    · simp only [State.getThread, State.getCore_setCore_ne _ _ h]
  unfold State.traceAs
  cases bit <;> simp only <;> split <;> first | exact key _ | rfl

/-- What a delivery writes in the thread when there is a handler (R375). -/
theorem Thread.enter_fields (t : Thread) (f : Flt) (async : Bool) (loc vec : Word) (h : vec ≠ 0) :
    let u := t.enter f async loc vec
    u.pc = vec ∧ u.sys.tpc = loc ∧ u.sys.taddr = f.addr ∧ u.sys.tinfo = f.info ∧ u.sys.tcause = causeWord f.cause async t.level ∧
      u.level = Level.sup t.level .guest ∧ u.shadow = t.lc ∧ u.g = t.g ∧ u.v = t.v ∧ u.p = t.p ∧ u.domid = t.domid ∧ u.frames = t.frames := by
  exact ⟨if_neg h, rfl, rfl, rfl, rfl, rfl, rfl, rfl, rfl, rfl, rfl, rfl⟩

/-- What ERET writes in the thread (R379). -/
theorem Thread.eret_fields (t : Thread) :
    t.eret.pc = t.sys.tpc ∧ t.eret.level = Level.ofCode (t.sys.tcause.extractLsb' 11 2) ∧ t.eret.active = false ∧
      t.eret.g = t.g ∧ t.eret.v = t.v ∧ t.eret.p = t.p := by
  refine ⟨rfl, rfl, ?_, rfl, rfl, rfl⟩
  simp [Thread.eret, Thread.active]

/-! ### Lanes -/

theorem lane_lt (x : VReg) (w i : Nat) : lane x w i < 2 ^ w := Nat.mod_lt _ (Nat.two_pow_pos w)

/-- The number that lanes 0 to n − 1 of width w make, and its lanes. -/
theorem ofLanes_nat (w n : Nat) (f : Nat → Nat) (k : Nat) (h : k < n) (g : Nat → Nat) (hg : ∀ i, g i = f i % 2 ^ w) :
    ((List.range n).foldr (fun i acc => g i + 2 ^ w * acc) 0) / 2 ^ (w * k) % 2 ^ w = f k % 2 ^ w := by
  have key : ∀ (l : List Nat) (k : Nat) (hk : k < l.length),
      (l.foldr (fun i acc => g i + 2 ^ w * acc) 0) / 2 ^ (w * k) % 2 ^ w = f l[k] % 2 ^ w := by
    intro l
    induction l with
    | nil => intro k hk; simp at hk
    | cons a r ih =>
      intro k hk
      have ha : g a < 2 ^ w := by rw [hg]; exact Nat.mod_lt _ (Nat.two_pow_pos w)
      cases k with
      | zero =>
        simp only [List.foldr_cons, Nat.mul_zero, Nat.pow_zero, Nat.div_one, List.getElem_cons_zero]
        rw [Nat.add_mul_mod_self_left, Nat.mod_eq_of_lt ha, hg]
      | succ k =>
        have e : 2 ^ (w * (k + 1)) = 2 ^ w * 2 ^ (w * k) := by rw [Nat.mul_succ, Nat.pow_add, Nat.mul_comm]
        simp only [List.foldr_cons, List.getElem_cons_succ]
        rw [e, ← Nat.div_div_eq_div_mul, Nat.add_mul_div_left _ _ (Nat.two_pow_pos w), Nat.div_eq_of_lt ha, Nat.zero_add]
        exact ih k (by simpa using hk)
  have := key (List.range n) k (by simpa using h)
  simpa using this

/-- Lane k of a register given by its lanes. -/
theorem lane_ofLanes (w n : Nat) (f : Nat → Nat) (k : Nat) (h : k < n) (hw : w * n ≤ 512) : lane (ofLanes w n f) w k = f k % 2 ^ w := by
  unfold lane ofLanes
  simp only [BitVec.toNat_ofNat]
  have e : ∀ x : Nat, x % 2 ^ 512 / 2 ^ (w * k) % 2 ^ w = x / 2 ^ (w * k) % 2 ^ w := by
    intro x
    have hk : w * k + w ≤ 512 := by
      have : w * (k + 1) ≤ w * n := Nat.mul_le_mul_left w h
      rw [Nat.mul_succ] at this
      omega
    apply Nat.eq_of_testBit_eq
    intro i
    simp only [Nat.testBit_mod_two_pow, Nat.testBit_div_two_pow]
    by_cases hi : i < w
    · have : w * k + i < 512 := by omega
      have : i + w * k < 512 := by omega
      simp [hi, this]
    · simp [hi]
  rw [e]
  exact ofLanes_nat w n f k h _ (fun _ => rfl)

/-- Lane k of a register with its active lanes replaced (R159). -/
theorem lane_blend (old : VReg) (w : Nat) (mask : Word) (f : Nat → Nat) (k : Nat) (h : k < 512 / w) :
    lane (blend old w mask f) w k = if mask.getLsbD k then f k % 2 ^ w else lane old w k := by
  unfold blend
  rw [lane_ofLanes _ _ _ _ h (by rw [Nat.mul_comm]; exact Nat.div_mul_le_self 512 w)]
  split
  · rfl
  · exact Nat.mod_eq_of_lt (lane_lt _ _ _)

/-- The lane forms complete with vd written lane by lane. -/
theorem vec1_writes {i : Instr} {s : State} {d : R} {w : Nat} {m : VCtl} {f : Nat → Nat}
    (h : exec i s = onThread (fun t => t.vec1 d m w f) s) : WritesLanes i s d w m f := by
  intro mask hm
  refine ⟨blend (s.me.rdV d) w mask f, ?_, fun k hk => lane_blend _ _ _ _ _ hk⟩
  rw [h]
  exact onThread_ok (by simp [Thread.vec1, hm, bind, Except.bind])

end Sys2Proof.Machine
end

