-- ==== Sys2Proof/Laws/Access.lean ====
section
/-! SUPPORT. Accesses, each by what it can do: the own pool, a cell of device memory, the accounting of replies, and the check
of an own-pool address. -/

namespace Sys2Proof.Machine

/-! ### The accounting of a reply changes two accumulators of the executing core, and uses a free value -/

theorem State.account_eq (s : State) (l : List (Option Nat)) :
    s.account l = s.spent ∨ ∃ d : Nat, s.account l = s.spent.modCore s.act.core (fun k => k.account (BitVec.ofNat 6 d) (Config.latency s.fresh)) := by
  unfold State.account State.accountAt
  split
  · exact .inr ⟨_, rfl⟩
  · exact .inl rfl

@[simp] theorem State.account_getThread (s : State) (l : List (Option Nat)) (c : Nat) (i : BitVec 2) :
    (s.account l).getThread c i = s.getThread c i := by
  rcases s.account_eq l with h | ⟨d, h⟩ <;> rw [h]
  · rfl
  · by_cases hc : c = s.act.core
    · subst hc
      simp only [State.getThread, State.modCore_eq, State.getCore_setCore]
      rfl
    · simp only [State.getThread, State.modCore_eq, State.getCore_setCore_ne _ _ hc]
      rfl

@[simp] theorem State.account_mem (s : State) (l : List (Option Nat)) : (s.account l).mem = s.mem := by
  rcases s.account_eq l with h | ⟨d, h⟩ <;> rw [h] <;> rfl

@[simp] theorem State.account_act (s : State) (l : List (Option Nat)) : (s.account l).act = s.act := by
  rcases s.account_eq l with h | ⟨d, h⟩ <;> rw [h] <;> rfl

@[simp] theorem State.account_me (s : State) (l : List (Option Nat)) : (s.account l).me = s.me := by
  unfold State.me
  rw [State.account_act, State.account_getThread]

theorem State.account_poolByte (s : State) (l : List (Option Nat)) (c off : Nat) : (s.account l).poolByte c off = s.poolByte c off := by
  rcases s.account_eq l with h | ⟨d, h⟩ <;> rw [h]
  · rfl
  · unfold State.poolByte
    by_cases hc : c = s.act.core
    · subst hc
      simp only [State.modCore_eq, State.getCore_setCore]
      rfl
    · simp only [State.modCore_eq, State.getCore_setCore_ne _ _ hc]
      rfl

theorem State.MemOk.account {s : State} (h : s.MemOk) (l : List (Option Nat)) : (s.account l).MemOk := by
  rcases s.account_eq l with e | ⟨d, e⟩ <;> rw [e]
  · exact h
  · exact State.MemOk.setCore (s := s.spent) h s.act.core (h.pool _)

/-! ### Reads -/

/-- A check that passes leaves no fault to keep a state for. -/
@[simp] theorem State.keep_ok {α : Type} (s : State) (x : α) : s.keep (.ok x) = .ok x := rfl

/-- A pool without an uncorrectable error reads. -/
theorem State.soundPool_ok {s : State} {c : Nat} (h : (s.getCore c).worn = []) (off n : Nat) : s.soundPool c off n = .ok () := by
  simp [State.soundPool, h, faultIf]

/-- A read of sound own-pool bytes that no seal covers gives them and changes nothing. -/
theorem State.read_ownPool {s : State} {off n : Nat} (hw : s.soundPool s.act.core off n = .ok ()) (hs : s.core.sealed off n = false) :
    s.read (.pool s.act.core off) n = .ok (memRead s.core.pool off n, s) := by
  have h : s.soundParts s.act.core off [(0, n)] = .ok () := by simpa [State.soundParts, State.soundPool] using hw
  simp [State.read, h, hs, bind, Except.bind]

/-- A read of a sound cell. -/
theorem State.read_cell {s : State} {cell : Nat} (uc : Bool) (pa n : Nat) (h : s.soundLine cell = .ok ()) :
    s.read (.cell cell uc pa) n =
      (let t := if uc then s.recall (lineOf cell) else (s.recall (lineOf cell)).takeLine cell false
       .ok (t.bytesAt cell n, t.account (destsOf pa uc))) := by
  simp only [State.read, h, State.keep_ok, bind, Except.bind]

theorem State.soundLine_ok {s : State} {cell : Nat} (h : ∀ e ∈ s.bad, e.1 ≠ lineOf cell) : s.soundLine cell = .ok () := by
  have : s.bad.find? (fun e => e.1 = lineOf cell) = none := by simpa using h
  simp [State.soundLine, this]

/-- A line without a U copy is recalled by doing nothing. -/
theorem State.recall_none {s : State} {line : Nat} (h : ∀ u ∈ s.ucopies, u.line ≠ line) : s.recall line = s := by
  have : s.ucopies.filter (fun u => u.line = line) = [] := by simpa using h
  simp [State.recall, this]

/-! ### Slots (R54) -/

/-- Where no schedule has been written every slot is shared, and an owner that is not strict is granted one everywhere. -/
theorem State.served_of_shared {s : State} {o : BitVec 4} (h : s.scheds = []) (hn : s.schedNew = []) (hm : (s.ownerRec o).mode ≠ .strict) :
    s.Served o := fun r => by
  simp [State.granted, State.schedule, State.schedDue, h, hn, hm]

theorem State.barred_served {s : State} {o : BitVec 4} (h : s.Served o) (l : List Resource) : s.barred o l = false := by
  simp [State.barred, h _]

/-- An access for an owner that is granted slots everywhere waits for none. -/
theorem State.starvedAt_served {s : State} {o : BitVec 4} (h : s.Served o) (c : Nat) (uc : Bool) (pa : Nat) : s.starvedAt c o uc pa = false := by
  simp [State.starvedAt, State.barred_served h]

/-! ### Translation -/

theorem State.byteAt_congr {s t : State} (hm : t.mem = s.mem) (hh : t.hostLine = s.hostLine) (c : Nat) : t.byteAt c = s.byteAt c := by
  simp only [State.byteAt, hm, hh]

theorem State.bytesAt_congr {s t : State} (hm : t.mem = s.mem) (hh : t.hostLine = s.hostLine) (c n : Nat) : t.bytesAt c n = s.bytesAt c n := by
  induction n generalizing c with
  | zero => rfl
  | succ n ih => simp only [State.bytesAt, State.byteAt_congr hm hh, ih]

theorem State.recall_nil {s : State} (h : s.ucopies = []) (line : Nat) : s.recall line = s := State.recall_none (by simp [h])

/-- Where no core holds a U copy a walk depends on memory, its errors and the data link alone, and changes nothing. -/
theorem walkFrom_congr {s t : State} (hm : t.mem = s.mem) (hh : t.hostLine = s.hostLine) (hs : s.ucopies = []) (ht : t.ucopies = [])
    (hl : ∀ ea, t.entryLost ea = s.entryLost ea) (hr : ∀ a, t.tagPart a = s.tagPart a) (va : Nat) (l : List (Nat × Nat)) (lvl table : Nat) :
    walkFrom va l lvl table t = ((walkFrom va l lvl table s).1, t) := by
  induction l generalizing lvl table with
  | nil => rfl
  | cons e r ih =>
    obtain ⟨sh, bits⟩ := e
    simp only [walkFrom, State.recall_nil hs, State.recall_nil ht, State.bytesAt_congr hm hh, hl, hr]
    split
    · rfl
    · split
      · rfl
      · split
        · rfl
        · split
          · rfl
          · exact ih _ _

theorem State.walk_congr {s t : State} (hm : t.mem = s.mem) (hh : t.hostLine = s.hostLine) (hs : s.ucopies = []) (ht : t.ucopies = [])
    (hd : t.domains = s.domains) (hl : ∀ ea, t.entryLost ea = s.entryLost ea) (hr : ∀ a, t.tagPart a = s.tagPart a) (dom : BitVec 8) (va : Nat) : t.walk dom va = ((s.walk dom va).1, t) := by
  simp only [State.walk, State.domain, hd]
  split
  · rfl
  · exact walkFrom_congr hm hh hs ht hl hr _ _ _ _

/-- A translation that the walk confirms, whose page is cached already. -/
theorem State.translate_cached {s : State} {dom : BitVec 8} {va pa : Nat} {leaf : Word} (hw : s.walk dom va = (.ok (pa, leaf), s))
    (hc : s.tlb = [⟨dom, va / 65536, pa - va % 65536, leaf⟩]) (hp : va % 65536 ≤ pa) : s.translate dom va = (.ok (pa, leaf), s) := by
  simp [State.translate, hw, hc, Nat.sub_add_cancel hp]

@[simp] theorem State.account_one (s : State) (d : Nat) :
    s.account [some d] = s.spent.modCore s.act.core (fun k => k.account (BitVec.ofNat 6 d) (Config.latency s.fresh)) := by
  simp [State.account, State.accountAt, pickFree, Nat.mod_one]

/-- The check of an address of class global (R182). -/
theorem State.check_global {s : State} {a : Acc} {va : Word} (hal : va.toNat % a.align = 0) (hc : classOf va = .global)
    (hd : a.deny .global = none) : s.check a va = s.checkGlobal a s.me.domid s.me.level va va := by
  unfold State.check
  rw [if_neg (by omega), hc]
  simp only [hd]

/-- A global access passes where its translation does, the leaf gives the rights, and nothing holds it up. -/
theorem State.checkGlobal_ok {s : State} {a : Acc} {dom : BitVec 8} {l : Level} {va rep : Word} {pa : Nat} {leaf : Word}
    (ht : s.translate dom va.toNat = (.ok (pa, leaf), s)) (hl : leafOk leaf a l = true) (hp : a.prop leaf (paSpace pa) = none)
    (hd : s.denied = []) (hs : paSpace pa ≠ 3) (hm : s.migTable = []) (ho : s.lineOwned (cellOf pa) = false)
    (hst : ∀ uc, s.starved uc pa = false) :
    s.checkGlobal a dom l va rep = .ok (.cell (cellOf pa) (leaf.getLsbD 61 || decide (paSpace pa = 4)) pa, s) := by
  simp [State.checkGlobal, State.checkPa, ht, hl, hp, hd, hs, State.inMotion, hm, ho, hst, bind, Except.bind]

/-- The translation of one page for a command's operand (R225). -/
theorem State.checkPa_ok {s : State} {a : Acc} {dom : BitVec 8} {l : Level} {va rep : Word} {pa : Nat} {leaf : Word}
    (ht : s.translate dom va.toNat = (.ok (pa, leaf), s)) (hl : leafOk leaf a l = true) (hp : a.prop leaf (paSpace pa) = none)
    (hd : s.denied = []) : s.checkPa a dom l va rep = .ok ((pa, leaf.getLsbD 61 || decide (paSpace pa = 4)), s) := by
  simp [State.checkPa, ht, hl, hp, hd]

/-! ### Writes -/

/-- A write to sealed bytes changes no byte of the pool itself. -/
@[simp] theorem Core.tamper_pool (k : Core) (off n : Nat) : (k.tamper off n).pool = k.pool := by
  unfold Core.tamper; split <;> rfl

/-- Outside the sealed bytes a write breaks no seal. -/
theorem Core.tamper_none {k : Core} {off n : Nat} (h : k.sealed off n = false) : k.tamper off n = k := by simp [Core.tamper, h]

@[simp] theorem Core.putAt_pool (k : Core) (off n v : Nat) : (k.putAt off (placed 0 n v)).pool = memWrite k.pool off n v := by
  simp only [Core.putAt, memWriteAt_placed, Nat.add_zero]

/-- A write to the own pool changes the executing core alone. -/
theorem State.write_ownPool (s : State) (off n v : Nat) (a : Word × Nat) :
    s.write (.pool s.act.core off) n v a =
      s.setCore s.act.core ((s.core.putAt off (placed 0 n v)).tamper off (extent (placed 0 n v))) := by
  simp only [State.write, State.writeAt, State.putPool, if_true]
  rfl

theorem State.MemOk.write_ownPool {s : State} (h : s.MemOk) (off n v : Nat) (a : Word × Nat) : (s.write (.pool s.act.core off) n v a).MemOk := by
  rw [State.write_ownPool]
  refine h.setCore _ ?_
  rw [Core.tamper_pool, Core.putAt_pool]
  exact memWrite_wf _ _ _ (h.pool _)

/-! ### Hits and recalls -/

@[simp] theorem Core.hitLine_pool (k : Core) (now line : Nat) : (k.hitLine now line).pool = k.pool := by
  unfold Core.hitLine; split <;> rfl

@[simp] theorem Core.releaseIf_pool (k : Core) (now : Nat) (f : Thread → Bool) : (k.releaseIf now f).pool = k.pool := by
  unfold Core.releaseIf; split <;> rfl

/-- Recording a hit keeps memory and pools. -/
theorem State.MemOk.hitLine {s : State} (h : s.MemOk) (line : Nat) : (s.hitLine line).MemOk :=
  have h' := h.mapCores (f := fun _ k => (k.hitLine s.cycle line).releaseIf s.cycle (s.barrierOver line)) (fun c k => by simp)
  ⟨h'.1, h'.2⟩

theorem State.MemOk.combine {s : State} (h : s.MemOk) (u : UCopy) : (s.combine u).MemOk := by
  unfold State.combine
  generalize u.parts = l
  induction l generalizing s with
  | nil => exact h
  | cons p r ih => exact ih (h.putBytes _ _ _ _)

theorem recallLoop_memOk (n : Nat) (l : List UCopy) {s : State} (h : s.MemOk) : (recallLoop n l s).MemOk := by
  induction n generalizing l s with
  | zero => exact h
  | succ n ih =>
    simp only [recallLoop]
    split
    · exact h
    · exact ih _ (State.MemOk.hitLine (State.MemOk.combine (s := s.spent) h _) _)

theorem State.MemOk.recall {s : State} (h : s.MemOk) (line : Nat) : (s.recall line).MemOk := by
  unfold State.recall
  simp only
  split
  · exact h
  · exact recallLoop_memOk _ _ ⟨h.1, h.2⟩

/-- A write of bytes at a cell keeps the invariant. -/
theorem State.MemOk.writeCell {s : State} (h : s.MemOk) (cell : Nat) (uc : Bool) (bs : List (Nat × Byte)) : (s.writeCell cell uc bs).MemOk := by
  have hm : ((s.recall (lineOf cell)).mend cell bs).MemOk := ⟨(h.recall _).1, (h.recall _).2⟩
  unfold State.writeCell
  refine State.MemOk.hitLine (State.MemOk.putAt ?_ _ _ _) _
  split
  · exact hm
  · exact ⟨hm.1, hm.2⟩

/-! ### Records read word by word -/

/-- A core whose match registers are off matches no access (R396). -/
theorem State.dataMatch_off {s : State} (h : ∀ m ∈ s.core.dbg.m.toList, m.val.extractLsb' 62 2 = 0) (va : Word) (w : Bool) (parts : List (Nat × Nat)) :
    s.dataMatch va w parts = s := by
  unfold State.dataMatch
  split
  · rfl
  · generalize List.range 4 = l
    induction l with
    | nil => rfl
    | cons n r ih =>
      have : ((s.core.dbg.m[n]?).getD ⟨0, none⟩).val.extractLsb' 62 2 = 0 := by
        rcases e : s.core.dbg.m[n]? with _ | m
        · rfl
        · refine h m ?_
          rw [Vector.mem_toList_iff]
          exact Vector.mem_of_getElem? e
      simp only [List.foldl_cons, this]
      simpa using ih

theorem State.readWords_cons {s s1 s2 s3 : State} {deny : AClass → Option Nat} {va : Word} {n x : Nat} {pl : Place} {r : List Word}
    (h1 : s.check { size := 8, align := 8, deny := deny } va = .ok (pl, s1)) (h2 : s1.read pl 8 = .ok (x, s2))
    (h3 : (s2.dataMatch va false [(0, 8)]).readWords deny (va + 8) n = .ok (r, s3)) : s.readWords deny va (n + 1) = .ok (.ofNat 64 x :: r, s3) := by
  simp only [State.readWords, h1, h2, h3, bind, Except.bind]

end Sys2Proof.Machine
end

