-- ==== Sys2Proof/Laws/PerInstr.lean ====
section
/-! SUPPORT. The family TailLength: the encoder gives every encoded instruction a major that the opcode map assigns, and a tail of
the length that its format asks for (R78, R82). -/

/-- The tail that the encoder gives an instruction has the length of its major's format. -/
def Sys2Proof.Laws.TailLength.Statement (i : Sys2Proof.Instr) : Prop :=
  match Sys2Proof.encodeParts i with
  | some (op, _, tail) => (Sys2Proof.majorFmt op.toNat).map Sys2Proof.Fmt.body = some tail.length
  | none => True

namespace Sys2Proof.Laws.TailLength

open Sys2Proof

theorem nop : Statement (.nop) := by rfl
theorem br (off : BitVec 27) : Statement (.br off) := by rfl
theorem beq (a b : R) (off : BitVec 16) : Statement (.beq a b off) := by rfl
theorem bne (a b : R) (off : BitVec 16) : Statement (.bne a b off) := by rfl
theorem blt (a b : R) (off : BitVec 16) : Statement (.blt a b off) := by rfl
theorem bge (a b : R) (off : BitVec 16) : Statement (.bge a b off) := by rfl
theorem bltn (a b : R) (off : BitVec 16) : Statement (.bltn a b off) := by rfl
theorem bgen (a b : R) (off : BitVec 16) : Statement (.bgen a b off) := by rfl
theorem bbs (a : R) (k : BitVec 6) (off : BitVec 16) : Statement (.bbs a k off) := by rfl
theorem bbc (a : R) (k : BitVec 6) (off : BitVec 16) : Statement (.bbc a k off) := by rfl
theorem call (d : R) (off : BitVec 27) : Statement (.call d off) := by rfl
theorem jr (a : R) : Statement (.jr a) := by rfl
theorem callr (d a : R) : Statement (.callr d a) := by rfl
theorem ret (a : R) : Statement (.ret a) := by rfl
theorem loop (n : Fin 3) (a : R) (off : BitVec 16) : Statement (.loop n a off) := by rfl
theorem loopi (n : Fin 3) (cnt : BitVec 10) (off : BitVec 16) : Statement (.loopi n cnt off) := by rfl
theorem spawn (d a : R) : Statement (.spawn d a) := by rfl
theorem spawnl (d a : R) : Statement (.spawnl d a) := by rfl
theorem endC : Statement (.endC) := by rfl
theorem yield : Statement (.yield) := by rfl
theorem park : Statement (.park) := by rfl
theorem launch (d a : R) : Statement (.launch d a) := by rfl
theorem trap (code : BitVec 11) : Statement (.trap code) := by rfl
theorem eret : Statement (.eret) := by rfl
theorem wfi : Statement (.wfi) := by rfl
theorem srd (d : R) (r : SysReg) : Statement (.srd d r) := by rfl
theorem swr (d : R) (r : SysReg) : Statement (.swr d r) := by rfl
theorem sset (d : R) (r : SysReg) : Statement (.sset d r) := by rfl
theorem sclr (d : R) (r : SysReg) : Statement (.sclr d r) := by rfl
theorem tvecWrite (core thr : Nat) (dom : BitVec 8) (v : Word) : Statement (.tvecWrite core thr dom v) := trivial
theorem blaxClear (core : Nat) (index : BitVec 6) : Statement (.blaxClear core index) := trivial
theorem fence (sc : Scope) : Statement (.fence sc) := by rfl
theorem fenceAcq (sc : Scope) : Statement (.fenceAcq sc) := by rfl
theorem fenceRel (sc : Scope) : Statement (.fenceRel sc) := by rfl
theorem fetchf : Statement (.fetchf) := by rfl
theorem efence : Statement (.efence) := by rfl
theorem brk (code : BitVec 11) : Statement (.brk code) := by rfl
theorem trace (d : R) (tag : BitVec 11) : Statement (.trace d tag) := by rfl
theorem tsr (d : R) (mask : BitVec 5) : Statement (.tsr d mask) := by rfl
theorem add (d a b : R) : Statement (.add d a b) := by rfl
theorem sub (d a b : R) : Statement (.sub d a b) := by rfl
theorem and (d a b : R) : Statement (.and d a b) := by rfl
theorem or (d a b : R) : Statement (.or d a b) := by rfl
theorem xor (d a b : R) : Statement (.xor d a b) := by rfl
theorem andn (d a b : R) : Statement (.andn d a b) := by rfl
theorem orn (d a b : R) : Statement (.orn d a b) := by rfl
theorem xnor (d a b : R) : Statement (.xnor d a b) := by rfl
theorem min (d a b : R) : Statement (.min d a b) := by rfl
theorem max (d a b : R) : Statement (.max d a b) := by rfl
theorem minn (d a b : R) : Statement (.minn d a b) := by rfl
theorem maxn (d a b : R) : Statement (.maxn d a b) := by rfl
theorem shl (d a b : R) : Statement (.shl d a b) := by rfl
theorem shr (d a b : R) : Statement (.shr d a b) := by rfl
theorem sra (d a b : R) : Statement (.sra d a b) := by rfl
theorem rol (d a b : R) : Statement (.rol d a b) := by rfl
theorem rorRotate (d a b : R) : Statement (.rorRotate d a b) := by rfl
theorem seq (d a b : R) : Statement (.seq d a b) := by rfl
theorem sne (d a b : R) : Statement (.sne d a b) := by rfl
theorem slt (d a b : R) : Statement (.slt d a b) := by rfl
theorem sltn (d a b : R) : Statement (.sltn d a b) := by rfl
theorem sle (d a b : R) : Statement (.sle d a b) := by rfl
theorem slen (d a b : R) : Statement (.slen d a b) := by rfl
theorem addi (d a : R) (imm : BitVec 11) : Statement (.addi d a imm) := by rfl
theorem andi (d a : R) (imm : BitVec 11) : Statement (.andi d a imm) := by rfl
theorem ori (d a : R) (imm : BitVec 11) : Statement (.ori d a imm) := by rfl
theorem xori (d a : R) (imm : BitVec 11) : Statement (.xori d a imm) := by rfl
theorem shli (d a : R) (s : BitVec 6) : Statement (.shli d a s) := by rfl
theorem shri (d a : R) (s : BitVec 6) : Statement (.shri d a s) := by rfl
theorem srai (d a : R) (s : BitVec 6) : Statement (.srai d a s) := by rfl
theorem li (d : R) (imm : BitVec 16) : Statement (.li d imm) := by rfl
theorem liw (d : R) (imm : Word) : Statement (.liw d imm) := by rfl
theorem mul (d a b : R) : Statement (.mul d a b) := by rfl
theorem mulh (d a b : R) : Statement (.mulh d a b) := by rfl
theorem mulhn (d a b : R) : Statement (.mulhn d a b) := by rfl
theorem madd (d a b : R) : Statement (.madd d a b) := by rfl
theorem div (d a b : R) : Statement (.div d a b) := by rfl
theorem divn (d a b : R) : Statement (.divn d a b) := by rfl
theorem rem (d a b : R) : Statement (.rem d a b) := by rfl
theorem remn (d a b : R) : Statement (.remn d a b) := by rfl
theorem clz (d a : R) : Statement (.clz d a) := by rfl
theorem ctz (d a : R) : Statement (.ctz d a) := by rfl
theorem popc (d a : R) : Statement (.popc d a) := by rfl
theorem brev (d a : R) : Statement (.brev d a) := by rfl
theorem bswap (d a : R) : Statement (.bswap d a) := by rfl
theorem bfx (d a b : R) : Statement (.bfx d a b) := by rfl
theorem bfxs (d a b : R) : Statement (.bfxs d a b) := by rfl
theorem bfi (d a b : R) : Statement (.bfi d a b) := by rfl
theorem setb (d a : R) (k : BitVec 6) : Statement (.setb d a k) := by rfl
theorem clrb (d a : R) (k : BitVec 6) : Statement (.clrb d a k) := by rfl
theorem tglb (d a : R) (k : BitVec 6) : Statement (.tglb d a k) := by rfl
theorem sel (d a b : R) : Statement (.sel d a b) := by rfl
theorem addpc (d : R) (off : BitVec 27) : Statement (.addpc d off) := by rfl
theorem pset (p : P) (a b : R) : Statement (.pset p a b) := by rfl
theorem padd (p : P) (a : R) : Statement (.padd p a) := by rfl
theorem pget (d : R) (p : P) : Statement (.pget d p) := by rfl
theorem pstr (p : P) (a : R) : Statement (.pstr p a) := by rfl
theorem mulq (d a b : R) : Statement (.mulq d a b) := by rfl
theorem addq (d a b : R) : Statement (.addq d a b) := by rfl
theorem subq (d a b : R) : Statement (.subq d a b) := by rfl
theorem ld8 (d a : R) (o : LdOrd) (off : BitVec 16) : Statement (.ld8 d a o off) := by rfl
theorem ld16 (d a : R) (o : LdOrd) (off : BitVec 16) : Statement (.ld16 d a o off) := by rfl
theorem ld32 (d a : R) (o : LdOrd) (off : BitVec 16) : Statement (.ld32 d a o off) := by rfl
theorem ld64 (d a : R) (o : LdOrd) (off : BitVec 16) : Statement (.ld64 d a o off) := by rfl
theorem lds8 (d a : R) (o : LdOrd) (off : BitVec 16) : Statement (.lds8 d a o off) := by rfl
theorem lds16 (d a : R) (o : LdOrd) (off : BitVec 16) : Statement (.lds16 d a o off) := by rfl
theorem lds32 (d a : R) (o : LdOrd) (off : BitVec 16) : Statement (.lds32 d a o off) := by rfl
theorem st8 (d a : R) (o : StOrd) (off : BitVec 16) : Statement (.st8 d a o off) := by rfl
theorem st16 (d a : R) (o : StOrd) (off : BitVec 16) : Statement (.st16 d a o off) := by rfl
theorem st32 (d a : R) (o : StOrd) (off : BitVec 16) : Statement (.st32 d a o off) := by rfl
theorem st64 (d a : R) (o : StOrd) (off : BitVec 16) : Statement (.st64 d a o off) := by rfl
theorem lda (d : R) (p : P) (sz : LdSize) (post : Bool) : Statement (.lda d p sz post) := by rfl
theorem sta (d : R) (p : P) (sz : StSize) (post : Bool) : Statement (.sta d p sz post) := by rfl
theorem watch (d a : R) (s : Bool) : Statement (.watch d a s) := by rfl
theorem wsleep (d a : R) : Statement (.wsleep d a) := by rfl
theorem wsleepLimit (core thr : Nat) : Statement (.wsleepLimit core thr) := trivial
theorem pf (a : R) : Statement (.pf a) := by rfl
theorem pfx (a : R) : Statement (.pfx a) := by rfl
theorem clean (a : R) : Statement (.clean a) := by rfl
theorem inval (a : R) : Statement (.inval a) := by rfl
theorem take (d a : R) : Statement (.take d a) := by rfl
theorem taken (d a b : R) : Statement (.taken d a b) := by rfl
theorem put (a b : R) : Statement (.put a b) := by rfl
theorem putn (d a b : R) : Statement (.putn d a b) := by rfl
theorem ldf (d a : R) : Statement (.ldf d a) := by rfl
theorem setf (a : R) : Statement (.setf a) := by rfl
theorem sete (a : R) : Statement (.sete a) := by rfl
theorem qtag (d a : R) : Statement (.qtag d a) := by rfl
theorem aadd (d a b : R) (t : AType) (o : Order) (sc : XScope) (reuse : Bool) : Statement (.aadd d a b t o sc reuse) := by rfl
theorem aand (d a b : R) (t : AType) (o : Order) (sc : XScope) (reuse : Bool) : Statement (.aand d a b t o sc reuse) := by rfl
theorem aor (d a b : R) (t : AType) (o : Order) (sc : XScope) (reuse : Bool) : Statement (.aor d a b t o sc reuse) := by rfl
theorem axor (d a b : R) (t : AType) (o : Order) (sc : XScope) (reuse : Bool) : Statement (.axor d a b t o sc reuse) := by rfl
theorem amin (d a b : R) (t : AType) (o : Order) (sc : XScope) (reuse : Bool) : Statement (.amin d a b t o sc reuse) := by rfl
theorem amax (d a b : R) (t : AType) (o : Order) (sc : XScope) (reuse : Bool) : Statement (.amax d a b t o sc reuse) := by rfl
theorem aminn (d a b : R) (t : AType) (o : Order) (sc : XScope) (reuse : Bool) : Statement (.aminn d a b t o sc reuse) := by rfl
theorem amaxn (d a b : R) (t : AType) (o : Order) (sc : XScope) (reuse : Bool) : Statement (.amaxn d a b t o sc reuse) := by rfl
theorem aswp (d a b : R) (t : AType) (o : Order) (sc : XScope) (reuse : Bool) : Statement (.aswp d a b t o sc reuse) := by rfl
theorem acas (d a b c : R) (t : AType) (o : Order) (sc : XScope) (reuse : Bool) : Statement (.acas d a b c t o sc reuse) := by rfl
theorem radd (a b : R) (t : AType) : Statement (.radd a b t) := by rfl
theorem rand (a b : R) (t : AType) : Statement (.rand a b t) := by rfl
theorem rorReduce (a b : R) (t : AType) : Statement (.rorReduce a b t) := by rfl
theorem rxor (a b : R) (t : AType) : Statement (.rxor a b t) := by rfl
theorem rmin (a b : R) (t : AType) : Statement (.rmin a b t) := by rfl
theorem rmax (a b : R) (t : AType) : Statement (.rmax a b t) := by rfl
theorem rfadd (a b : R) : Statement (.rfadd a b) := by rfl
theorem uCopyEviction (core line : Nat) : Statement (.uCopyEviction core line) := trivial
theorem swait (k : BitVec 8) (v : BitVec 16) : Statement (.swait k v) := by rfl
theorem ssig (k : BitVec 8) (v : BitVec 16) : Statement (.ssig k v) := by rfl
theorem srdk (d : R) (k : BitVec 8) : Statement (.srdk d k) := by rfl
theorem ssetk (d : R) (k : BitVec 8) : Statement (.ssetk d k) := by rfl
theorem barj (d a : R) : Statement (.barj d a) := by rfl
theorem bara (d a : R) : Statement (.bara d a) := by rfl
theorem barw (d a b : R) : Statement (.barw d a b) := by rfl
theorem barl (d a : R) : Statement (.barl d a) := by rfl
theorem vadd (d a b : R) (t : VType) (sat : Bool) (m : VCtl) : Statement (.vadd d a b t sat m) := by rfl
theorem vsub (d a b : R) (t : VType) (sat : Bool) (m : VCtl) : Statement (.vsub d a b t sat m) := by rfl
theorem vmul (d a b : R) (t : VType) (m : VCtl) : Statement (.vmul d a b t m) := by rfl
theorem vmulh (d a b : R) (t : VType) (m : VCtl) : Statement (.vmulh d a b t m) := by rfl
theorem vmin (d a b : R) (t : VType) (m : VCtl) : Statement (.vmin d a b t m) := by rfl
theorem vmax (d a b : R) (t : VType) (m : VCtl) : Statement (.vmax d a b t m) := by rfl
theorem vand (d a b : R) (t : VType) (m : VCtl) : Statement (.vand d a b t m) := by rfl
theorem vor (d a b : R) (t : VType) (m : VCtl) : Statement (.vor d a b t m) := by rfl
theorem vxor (d a b : R) (t : VType) (m : VCtl) : Statement (.vxor d a b t m) := by rfl
theorem vshl (d a b : R) (t : VType) (m : VCtl) : Statement (.vshl d a b t m) := by rfl
theorem vshr (d a b : R) (t : VType) (m : VCtl) : Statement (.vshr d a b t m) := by rfl
theorem vsra (d a b : R) (t : VType) (m : VCtl) : Statement (.vsra d a b t m) := by rfl
theorem vfadd (d a b : R) (t : FType) (rm : Rnd) (m : VCtl) : Statement (.vfadd d a b t rm m) := by rfl
theorem vfsub (d a b : R) (t : FType) (rm : Rnd) (m : VCtl) : Statement (.vfsub d a b t rm m) := by rfl
theorem vfmul (d a b : R) (t : FType) (rm : Rnd) (m : VCtl) : Statement (.vfmul d a b t rm m) := by rfl
theorem vfmin (d a b : R) (t : FType) (rm : Rnd) (m : VCtl) : Statement (.vfmin d a b t rm m) := by rfl
theorem vfmax (d a b : R) (t : FType) (rm : Rnd) (m : VCtl) : Statement (.vfmax d a b t rm m) := by rfl
theorem vfdiv (d a b : R) (t : FType) (rm : Rnd) (m : VCtl) : Statement (.vfdiv d a b t rm m) := by rfl
theorem vfsqrt (d a : R) (t : FType) (rm : Rnd) (m : VCtl) : Statement (.vfsqrt d a t rm m) := by rfl
theorem vfma (d a b c : R) (t : FType) (rm : Rnd) (m : VCtl) : Statement (.vfma d a b c t rm m) := by rfl
theorem vfms (d a b c : R) (t : FType) (rm : Rnd) (m : VCtl) : Statement (.vfms d a b c t rm m) := by rfl
theorem vfnma (d a b c : R) (t : FType) (rm : Rnd) (m : VCtl) : Statement (.vfnma d a b c t rm m) := by rfl
theorem vfnms (d a b c : R) (t : FType) (rm : Rnd) (m : VCtl) : Statement (.vfnms d a b c t rm m) := by rfl
theorem vcmp (d a b : R) (cond : Cond) (t : VType) (m : VCtl) : Statement (.vcmp d a b cond t m) := by rfl
theorem vfcmp (d a b : R) (cond : FCond) (t : FType) (m : VCtl) : Statement (.vfcmp d a b cond t m) := by rfl
theorem vcvt (d a : R) (dst src : VType) (part : BitVec 5) (rm : Rnd) (m : VCtl) : Statement (.vcvt d a dst src part rm m) := by rfl
theorem vrsum (d a : R) (t : VType) (rm : Rnd) (m : VCtl) : Statement (.vrsum d a t rm m) := by rfl
theorem vrmax (d a : R) (t : VType) (m : VCtl) : Statement (.vrmax d a t m) := by rfl
theorem vrmin (d a : R) (t : VType) (m : VCtl) : Statement (.vrmin d a t m) := by rfl
theorem vshuf (d a b : R) (t : VType) (m : VCtl) : Statement (.vshuf d a b t m) := by rfl
theorem vslide (d a b : R) (t : VType) (m : VCtl) : Statement (.vslide d a b t m) := by rfl
theorem vbcast (d a : R) (t : VType) (m : VCtl) : Statement (.vbcast d a t m) := by rfl
theorem vzip (d a b : R) (h : Bool) (t : VType) (m : VCtl) : Statement (.vzip d a b h t m) := by rfl
theorem vunzip (d a b : R) (h : Bool) (t : VType) (m : VCtl) : Statement (.vunzip d a b h t m) := by rfl
theorem vmov (d a : R) (t : VType) (m : VCtl) : Statement (.vmov d a t m) := by rfl
theorem vmovg (d a : R) (k : BitVec 3) (reuse : Bool) : Statement (.vmovg d a k reuse) := by rfl
theorem vext (d a b : R) (t : VType) (reuse : Bool) : Statement (.vext d a b t reuse) := by rfl
theorem vins (d a b : R) (t : VType) (reuse : Bool) : Statement (.vins d a b t reuse) := by rfl
theorem vsel (d a b c : R) (t : VType) (m : VCtl) : Statement (.vsel d a b c t m) := by rfl
theorem vmulq (d a b : R) (m : VCtl) : Statement (.vmulq d a b m) := by rfl
theorem vaddq (d a b : R) (m : VCtl) : Statement (.vaddq d a b m) := by rfl
theorem vsubq (d a b : R) (m : VCtl) : Statement (.vsubq d a b m) := by rfl
theorem vbfly (d a b c : R) (m : VCtl) : Statement (.vbfly d a b c m) := by rfl
theorem vibfly (d a b c : R) (m : VCtl) : Statement (.vibfly d a b c m) := by rfl
theorem vexp2 (d a : R) (t : FType) (m : VCtl) : Statement (.vexp2 d a t m) := by rfl
theorem vlog2 (d a : R) (t : FType) (m : VCtl) : Statement (.vlog2 d a t m) := by rfl
theorem vrcp (d a : R) (t : FType) (m : VCtl) : Statement (.vrcp d a t m) := by rfl
theorem vrsq (d a : R) (t : FType) (m : VCtl) : Statement (.vrsq d a t m) := by rfl
theorem vdot (d a b : R) (t : DotType) (rm : Rnd) (m : VCtl) : Statement (.vdot d a b t rm m) := by rfl
theorem vld (d a : R) (off : BitVec 16) (t : VType) (m : VCtl) (o : LdOrd) : Statement (.vld d a off t m o) := by rfl
theorem vst (d a : R) (off : BitVec 16) (t : VType) (m : VCtl) (o : StOrd) : Statement (.vst d a off t m o) := by rfl
theorem vlda (d : R) (p : P) (off : BitVec 16) (post : Bool) (t : VType) (m : VCtl) (o : LdOrd) : Statement (.vlda d p off post t m o) := by rfl
theorem vsta (d : R) (p : P) (off : BitVec 16) (post : Bool) (t : VType) (m : VCtl) (o : StOrd) : Statement (.vsta d p off post t m o) := by rfl
theorem vgath (d a b : R) (shift : BitVec 2) (off : BitVec 16) (t : GType) (m : VCtl) (o : LdOrd) : Statement (.vgath d a b shift off t m o) := by rfl
theorem vscat (d a b : R) (shift : BitVec 2) (off : BitVec 16) (t : GType) (m : VCtl) (o : StOrd) : Statement (.vscat d a b shift off t m o) := by rfl
theorem vaadd (d a b : R) (shift : BitVec 2) (off : BitVec 16) (t : VAType) (m : VCtl) (o : Order) (sc : XScope) : Statement (.vaadd d a b shift off t m o sc) := by rfl
theorem vradd (d a b : R) (shift : BitVec 2) (off : BitVec 16) (t : VAType) (m : VCtl) : Statement (.vradd d a b shift off t m) := by rfl
theorem vamin (d a b : R) (shift : BitVec 2) (off : BitVec 16) (t : VAType) (m : VCtl) (o : Order) (sc : XScope) : Statement (.vamin d a b shift off t m o sc) := by rfl
theorem vamax (d a b : R) (shift : BitVec 2) (off : BitVec 16) (t : VAType) (m : VCtl) (o : Order) (sc : XScope) : Statement (.vamax d a b shift off t m o sc) := by rfl
theorem vldw (d : R) (p : P) (off : BitVec 16) (post : Bool) (t : FType) (m : VCtl) : Statement (.vldw d p off post t m) := by rfl
theorem mma (t : BitVec 4) (pa pb : P) (postA postB : Bool) (e : EngF) : Statement (.mma t pa pb postA postB e) := by rfl
theorem mmaz (t : BitVec 4) (pa pb : P) (postA postB : Bool) (e : EngF) : Statement (.mmaz t pa pb postA postB e) := by rfl
theorem mmas (t : BitVec 4) (pa pb : P) (postA postB : Bool) (e : EngF) : Statement (.mmas t pa pb postA postB e) := by rfl
theorem mmaq (t : BitVec 4) (pa pb : P) (postA postB clear : Bool) (e : EngF) : Statement (.mmaq t pa pb postA postB clear e) := by rfl
theorem azero (t : BitVec 4) (k : Kind) (e : EngF) : Statement (.azero t k e) := by rfl
theorem astore (t : BitVec 4) (p : P) (k : Kind) (rm : Rnd) (e : EngF) : Statement (.astore t p k rm e) := by rfl
theorem aload (t : BitVec 4) (p : P) (k : Kind) (e : EngF) : Statement (.aload t p k e) := by rfl
theorem mqclr : Statement (.mqclr) := by rfl
theorem mqstat (d : R) : Statement (.mqstat d) := by rfl
theorem sgemv (a : R) (px : P) (c : R) (x : SgemvX) (e : EngF) : Statement (.sgemv a px c x e) := by rfl
theorem smap (d a : R) : Statement (.smap d a) := by rfl
theorem sstat (d a : R) : Statement (.sstat d a) := by rfl
theorem cpyin (a b : R) (p : P) (e : EngF) : Statement (.cpyin a b p e) := by rfl
theorem cpyout (a b : R) (p : P) (e : EngF) : Statement (.cpyout a b p e) := by rfl
theorem cpypp (a b : R) (p : P) (e : EngF) : Statement (.cpypp a b p e) := by rfl
theorem cpysc (a b : R) (p : P) (e : EngF) : Statement (.cpysc a b p e) := by rfl
theorem cpymq (a : R) (count : BitVec 8) (e : EngF) : Statement (.cpymq a count e) := by rfl
theorem gather (a : R) (pidx pdense : P) (x : IndexX) (e : EngF) : Statement (.gather a pidx pdense x e) := by rfl
theorem scatter (a : R) (pidx pdense : P) (x : IndexX) (e : EngF) : Statement (.scatter a pidx pdense x e) := by rfl
theorem cred (op : CredOp) (t : CredType) (a b : R) (p : P) (e : EngF) : Statement (.cred op t a b p e) := by rfl
theorem ecancel (d : R) (mask : BitVec 3) : Statement (.ecancel d mask) := by rfl
theorem estat (d : R) (sel : Fin 6) : Statement (.estat d sel) := by rfl
theorem commandStart (core : Nat) (e : EngineId) : Statement (.commandStart core e) := trivial
theorem commandComplete (core : Nat) (cmd : Nat) : Statement (.commandComplete core cmd) := trivial
theorem gjoin (d a : R) : Statement (.gjoin d a) := by rfl
theorem gleave (a : R) : Statement (.gleave a) := by rfl
theorem gload (d a b : R) (p : P) (e : EngF) : Statement (.gload d a b p e) := by rfl
theorem gstat (d a : R) : Statement (.gstat d a) := by rfl
theorem groupRequest (req : Nat) : Statement (.groupRequest req) := trivial
theorem groupTimerExpiry (die : Nat) (slot : BitVec 8) : Statement (.groupTimerExpiry die slot) := trivial
theorem groupFill (fill : Nat) : Statement (.groupFill fill) := trivial
theorem rtset (a b : R) : Statement (.rtset a b) := by rfl
theorem rtget (d a : R) (sel : BitVec 2) : Statement (.rtget d a sel) := by rfl
theorem rtchk (d a : R) : Statement (.rtchk d a) := by rfl
theorem sopen (ch : BitVec 2) (a b : R) : Statement (.sopen ch a b) := by rfl
theorem sclose (d : R) (ch : BitVec 2) : Statement (.sclose d ch) := by rfl
theorem ssend (ch : BitVec 2) (a : R) : Statement (.ssend ch a) := by rfl
theorem ssendp (ch : BitVec 2) (p : P) (post : Bool) : Statement (.ssendp ch p post) := by rfl
theorem setupFlit (stream : Nat) : Statement (.setupFlit stream) := trivial
theorem streamWordArrival (stream : Nat) : Statement (.streamWordArrival stream) := trivial
theorem closingMarker (stream : Nat) : Statement (.closingMarker stream) := trivial
theorem remoteAccess (msg : Nat) : Statement (.remoteAccess msg) := trivial
theorem refusedPacket (pkt : Nat) (hop : BitVec 4) (reason : BitVec 8) : Statement (.refusedPacket pkt hop reason) := trivial
theorem halloc (d a : R) : Statement (.halloc d a) := by rfl
theorem hfree (a : R) : Statement (.hfree a) := by rfl
theorem hsplit (d a b : R) : Statement (.hsplit d a b) := by rfl
theorem hjoin (d a b : R) : Statement (.hjoin d a b) := by rfl
theorem hcpyIn (a : R) (p : P) (post : Bool) : Statement (.hcpyIn a p post) := by rfl
theorem hcpyOut (a : R) (p : P) (post : Bool) : Statement (.hcpyOut a p post) := by rfl
theorem hmov (d a : R) : Statement (.hmov d a) := by rfl
theorem hinfo (d a : R) (sel : BitVec 2) : Statement (.hinfo d a sel) := by rfl
theorem puth (a b : R) : Statement (.puth a b) := by rfl
theorem takeh (d a : R) : Statement (.takeh d a) := by rfl
theorem gcall (gate : BitVec 12) (a b : R) : Statement (.gcall gate a b) := by rfl
theorem gret : Statement (.gret) := by rfl
theorem gopen (d a : R) : Statement (.gopen d a) := by rfl
theorem gclose (a : R) : Statement (.gclose a) := by rfl
theorem gquery (d a : R) : Statement (.gquery d a) := by rfl
theorem gdoneUnwind : Statement (.gdoneUnwind) := by rfl
theorem gdoneGiveUp : Statement (.gdoneGiveUp) := by rfl
theorem dstat (d : R) (sel : BitVec 2) : Statement (.dstat d sel) := by rfl
theorem asyncTrapDelivery (core thr : Nat) : Statement (.asyncTrapDelivery core thr) := trivial
theorem watchdog (core thr : Nat) : Statement (.watchdog core thr) := trivial
theorem budgetExpiry (core thr : Nat) (frame : Nat) : Statement (.budgetExpiry core thr frame) := trivial
theorem launchAccept (src : LaunchSrc) : Statement (.launchAccept src) := trivial
theorem queueTailWrite (queue : Nat) (tail : Word) : Statement (.queueTailWrite queue tail) := trivial
theorem xfenceRead : Statement (.xfenceRead) := trivial
theorem recordCreate (launch : Nat) (n : Nat) : Statement (.recordCreate launch n) := trivial
theorem continuationSelect (core thr : Nat) : Statement (.continuationSelect core thr) := trivial
theorem recordHoldBack (core : Nat) (rec : Nat) : Statement (.recordHoldBack core rec) := trivial
theorem priorityPromotion (core : Nat) (rec : Nat) : Statement (.priorityPromotion core rec) := trivial
theorem blockedPark (core thr : Nat) : Statement (.blockedPark core thr) := trivial
theorem preemptionRequest (core thr : Nat) : Statement (.preemptionRequest core thr) := trivial
theorem corePreemptionRequest (core : Nat) : Statement (.corePreemptionRequest core) := trivial
theorem safePointPreemption (core thr : Nat) : Statement (.safePointPreemption core thr) := trivial
theorem hardPreemption (core thr : Nat) : Statement (.hardPreemption core thr) := trivial
theorem revokeDomain (dom : BitVec 8) : Statement (.revokeDomain dom) := trivial
theorem unwind (core thr : Nat) : Statement (.unwind core thr) := trivial
theorem forcedSave (core thr : Nat) : Statement (.forcedSave core thr) := trivial
theorem unwindHandlerExpiry (core thr : Nat) : Statement (.unwindHandlerExpiry core thr) := trivial
theorem kill (cont : Nat) : Statement (.kill cont) := trivial
theorem ownerCreate (owner : BitVec 4) (cert : Nat) (spDefault : Option (BitVec 32)) (lending : Bool) (eventWord : Nat) (traceRing : Nat) (traceLen : Nat) : Statement (.ownerCreate owner cert spDefault lending eventWord traceRing traceLen) := trivial
theorem queueCreate (queue : Nat) (owner : BitVec 4) (kiosk : Nat) (ring : Word) (entries : BitVec 32) : Statement (.queueCreate queue owner kiosk ring entries) := trivial
theorem storageQueueCreate (queue : Nat) (owner : BitVec 4) (dom : BitVec 8) (kiosk : Nat) (ns : Nat) (ring : Word) (entries : BitVec 32) (tailWord : Word) : Statement (.storageQueueCreate queue owner dom kiosk ns ring entries tailWord) := trivial
theorem ownerChange (core : Nat) (valid : Bool) (owner : BitVec 4) : Statement (.ownerChange core valid owner) := trivial
theorem scrubEnd (core : Nat) : Statement (.scrubEnd core) := trivial
theorem tdmScheduleWrite (res : Resource) (slots : List Slot) : Statement (.tdmScheduleWrite res slots) := trivial
theorem scheduleTakesEffect (res : Resource) : Statement (.scheduleTakesEffect res) := trivial
theorem shootdown (dom : BitVec 8) : Statement (.shootdown dom) := trivial
theorem gateFree (gate : BitVec 12) : Statement (.gateFree gate) := trivial
theorem prepare (die : Nat) (header : Nat) : Statement (.prepare die header) := trivial
theorem prepared (launch : Nat) (member : Nat) : Statement (.prepared launch member) := trivial
theorem prepareTimeout (launch : Nat) : Statement (.prepareTimeout launch) := trivial
theorem abort (launch : Nat) : Statement (.abort launch) := trivial
theorem preparedHoldTimeout (launch : Nat) : Statement (.preparedHoldTimeout launch) := trivial
theorem commit (launch : Nat) : Statement (.commit launch) := trivial
theorem committed (launch : Nat) (member : Nat) : Statement (.committed launch member) := trivial
theorem committedTimeout (launch : Nat) (member : Nat) : Statement (.committedTimeout launch member) := trivial
theorem lost (launch : Nat) (member : Nat) : Statement (.lost launch member) := trivial
theorem collectiveRegister (launch : Nat) (pa : Nat) : Statement (.collectiveRegister launch pa) := trivial
theorem memberChanged (module : Nat) (digests : Nat) : Statement (.memberChanged module digests) := trivial
theorem getVersion (session : Nat) : Statement (.getVersion session) := trivial
theorem getCapabilities (session : Nat) : Statement (.getCapabilities session) := trivial
theorem negotiateAlgorithms (session : Nat) : Statement (.negotiateAlgorithms session) := trivial
theorem getDigests (session : Nat) : Statement (.getDigests session) := trivial
theorem getCertificate (session : Nat) : Statement (.getCertificate session) := trivial
theorem challenge (session : Nat) : Statement (.challenge session) := trivial
theorem getMeasurements (session : Nat) : Statement (.getMeasurements session) := trivial
theorem keyExchange (session : Nat) : Statement (.keyExchange session) := trivial
theorem finish (session : Nat) (cert : Nat) : Statement (.finish session cert) := trivial
theorem endSession (session : Nat) : Statement (.endSession session) := trivial
theorem installKey (session : Nat) (dom : BitVec 8) (key : BitVec 256) : Statement (.installKey session dom key) := trivial
theorem resumeOwner (session : Nat) (owner : BitVec 4) : Statement (.resumeOwner session owner) := trivial
theorem ownerDigest (session : Nat) (owner : BitVec 4) : Statement (.ownerDigest session owner) := trivial
theorem hotReset : Statement (.hotReset) := trivial
theorem controlLinkReturn : Statement (.controlLinkReturn) := trivial
theorem ownerFreeze (owner : BitVec 4) : Statement (.ownerFreeze owner) := trivial
theorem ownerScrub (owner : BitVec 4) : Statement (.ownerScrub owner) := trivial
theorem topologyMapChange (changes : List (Nat × Nat × Nat × LinkState)) : Statement (.topologyMapChange changes) := trivial
theorem linkDown (die key port : Nat) : Statement (.linkDown die key port) := trivial
theorem cxlMemAccess (pa : Nat) (write : Option (BitVec 512)) : Statement (.cxlMemAccess pa write) := trivial
theorem snpData (pa : Nat) : Statement (.snpData pa) := trivial
theorem snpInv (pa : Nat) : Statement (.snpInv pa) := trivial
theorem snpCur (pa : Nat) : Statement (.snpCur pa) := trivial
theorem cxlLinkDown : Statement (.cxlLinkDown) := trivial
theorem strandedClear : Statement (.strandedClear) := trivial
theorem atomicOpCompletion (core thr : Nat) (reply : AtomicReply) : Statement (.atomicOpCompletion core thr reply) := trivial
theorem migrationEpoch : Statement (.migrationEpoch) := trivial
theorem pageMove (page : Nat) : Statement (.pageMove page) := trivial
theorem migrationTimeout (core thr : Nat) : Statement (.migrationTimeout core thr) := trivial
theorem storageEntry (queue : Nat) : Statement (.storageEntry queue) := trivial
theorem storageCompletion (entry : Nat) (result : StorageResult) : Statement (.storageCompletion entry result) := trivial
theorem quiescenceSweep (die : Nat) : Statement (.quiescenceSweep die) := trivial
theorem debugHalt (core : Nat) (req : Requester) : Statement (.debugHalt core req) := trivial
theorem debugStop (core : Nat) : Statement (.debugStop core) := trivial
theorem debugResume (core : Nat) (req : Requester) : Statement (.debugResume core req) := trivial
theorem debugStopRevocation (core : Nat) : Statement (.debugStopRevocation core) := trivial
theorem dbgData (core : Nat) (req : Requester) (write : Option Word) : Statement (.dbgData core req write) := trivial
theorem sensorAlarm (die : BitVec 2) (sensor : Sensor) (reading : BitVec 8) : Statement (.sensorAlarm die sensor reading) := trivial
theorem clockThrottleStep (die : Nat) : Statement (.clockThrottleStep die) := trivial
theorem clockRestoreStep (die : Nat) : Statement (.clockRestoreStep die) := trivial
theorem lossOfLock (die : Nat) : Statement (.lossOfLock die) := trivial
theorem trip (cause : TripCause) : Statement (.trip cause) := trivial
theorem powerStateEntry : Statement (.powerStateEntry) := trivial
theorem wake : Statement (.wake) := trivial
theorem fundamentalReset (result : BootResult) : Statement (.fundamentalReset result) := trivial
theorem registerWrite (target : RegTarget) (req : Requester) (v : Word) : Statement (.registerWrite target req v) := trivial
theorem dataLinkReturn : Statement (.dataLinkReturn) := trivial
theorem lockReturn (die : Nat) : Statement (.lockReturn die) := trivial
theorem alarmConditionClear (die : Nat) : Statement (.alarmConditionClear die) := trivial
theorem ltrMessage (snoop noSnoop : Nat) : Statement (.ltrMessage snoop noSnoop) := trivial
theorem domainCreate (dom : BitVec 8) (owner : BitVec 4) (root : Word) : Statement (.domainCreate dom owner root) := trivial

end Sys2Proof.Laws.TailLength
end

