-- ==== Sys2Proof/Tests/Slice0.lean ====
section
/-! SUPPORT. Small tests of the model and, for the statements with hypotheses, states that meet them. -/

namespace Sys2Proof.Tests

open Sys2Proof.Machine

set_option Elab.async false

/-! ### A small machine -/

/-- A thread of a running continuation in domain 1, at location 0x4000.1. -/
def tThread : Thread := { resetThread with run := some ⟨7, 1, 0, 0, 0, none, 0⟩, pc := 0x4002, domid := 1 }

/-- Thread 0 of core 0 runs it, under owner 0. -/
def tCore : Core := { resetCore.setThread 0 tThread with valid := true }

/-- The machine that executes it. Domain 1 has a handler at 0x8000, and its table maps the first GiB onto LPDDR6 from its start
on, cacheable, with r, w, x and u. -/
def tState : State := { State.reset with
  act := ⟨0, 0, 0x4406, 0x4004, .fell⟩
  agenda := []
  ready := true
  cores := [(0, tCore)]
  domains := [(1, ⟨0, 0x2000000010001, 0, 0x8000, .live⟩)]
  mem := memWrite (memWrite [] 0x2000000010000 8 0x2000000020001) 0x2000000020000 8 0x0F02000000000003 }

/-- The machine with the thread changed. -/
def tT (f : Thread → Thread) : State := tState.modMe f

/-- The machine with registers set. -/
def tR (l : List (R × Word)) : State := tT (fun t => l.foldl (fun t e => t.setG e.1 e.2) t)

/-- A computation answers, and the answer satisfies a test. -/
def okAnd {α : Type} (x : Ex α) (p : α → Bool) : Bool :=
  match x with
  | .ok y => p y
  | .error _ => false

/-- A computation ends in a fault. -/
def faults {α : Type} (x : Ex α) : Bool :=
  match x with
  | .error (.fault _) => true
  | _ => false

/-- A computation faults and leaves a state of its own. -/
def faultsIn {α : Type} (x : Ex α) : Bool :=
  match x with
  | .error (.faultIn _ _) => true
  | _ => false

theorem okAnd_elim {α : Type} {x : Ex α} {p : α → Bool} (h : okAnd x p = true) : ∃ y, x = .ok y ∧ p y = true := by
  unfold okAnd at h
  split at h
  · exact ⟨_, rfl, h⟩
  · exact absurd h Bool.false_ne_true


/-! ### Ill-formed terms: one for each check of WellFormed -/

theorem test_illFormed_types :
    [Instr.vadd 1 2 3 .fp32 false ⟨0, false⟩, .vsub 1 2 3 .bf16 true ⟨0, false⟩, .vmul 1 2 3 .fp16 ⟨0, false⟩, .vmulh 1 2 3 .e4m3 ⟨0, false⟩,
      .vmin 1 2 3 .fp32 ⟨0, false⟩, .vmax 1 2 3 .e2m1 ⟨0, false⟩, .vand 1 2 3 .fp32 ⟨0, false⟩, .vor 1 2 3 .fp32 ⟨0, false⟩,
      .vxor 1 2 3 .fp32 ⟨0, false⟩, .vshl 1 2 3 .fp32 ⟨0, false⟩, .vshr 1 2 3 .fp32 ⟨0, false⟩, .vsra 1 2 3 .fp32 ⟨0, false⟩,
      .vcmp 1 2 3 .eq .fp32 ⟨0, false⟩, .vcvt 1 2 .i8 .i8 0 .rn ⟨0, false⟩, .vcvt 1 2 .i8 .i32 4 .rn ⟨0, false⟩,
      .vrsum 1 2 .e4m3 .rn ⟨0, false⟩, .vrsum 1 2 .i8 .rz ⟨0, false⟩, .vrmax 1 2 .e5m2 ⟨0, false⟩, .vrmin 1 2 .e2m1 ⟨0, false⟩,
      .vdot 1 2 3 .i8 .rz ⟨0, false⟩, .vdot 1 2 3 .n8 .ru ⟨0, false⟩].all (fun i => !WellFormed i) = true := by decide +kernel

theorem test_illFormed_moves :
    [Instr.vshuf 1 2 3 .e4m3 ⟨0, false⟩, .vslide 1 2 3 .e5m2 ⟨0, false⟩, .vbcast 1 2 .e2m1 ⟨0, false⟩, .vzip 1 2 3 false .e4m3 ⟨0, false⟩,
      .vunzip 1 2 3 false .e4m3 ⟨0, false⟩, .vmov 1 2 .e4m3 ⟨0, false⟩, .vext 1 2 3 .e4m3 false, .vins 1 2 3 .e4m3 false,
      .vsel 1 2 3 4 .e4m3 ⟨0, false⟩, .vbfly 1 2 3 4 ⟨0, false⟩, .vibfly 31 2 3 4 ⟨0, false⟩, .vld 1 2 0 .e4m3 ⟨0, false⟩ .rlx,
      .vst 1 2 0 .e4m3 ⟨0, false⟩ .rlx, .vlda 1 2 0 false .e4m3 ⟨0, false⟩ .rlx, .vsta 1 2 0 false .e4m3 ⟨0, false⟩ .rlx].all
        (fun i => !WellFormed i) = true := by decide +kernel

theorem test_illFormed_engines :
    [Instr.mma 0 1 2 false false ⟨.c, 1, 0, 0, 0⟩, .mmaz 0 1 2 false false ⟨.c, 0, 0, 1, 0⟩, .mmas 0 1 2 false false ⟨.c, 1, 0, 0, 0⟩,
      .mmaq 0 1 2 false false false ⟨.c, 1, 0, 0, 0⟩, .azero 0 .fp32 ⟨.c, 1, 0, 0, 0⟩, .astore 0 1 .fp32 .rn ⟨.c, 1, 0, 0, 0⟩,
      .aload 0 1 .fp32 ⟨.c, 1, 0, 0, 0⟩, .sgemv 1 2 3 ⟨false, false, false, 0, 0, 0, 0, 0⟩ ⟨.c, 1, 0, 0, 0⟩,
      .sgemv 1 2 8 ⟨false, false, false, 0, 0, 0, 0, 0⟩ ⟨.c, 0, 0, 0, 0⟩, .cpyin 1 2 3 ⟨.c, 1, 0, 0, 0⟩, .cpyout 1 2 3 ⟨.c, 1, 0, 0, 0⟩,
      .cpypp 1 2 3 ⟨.c, 1, 0, 0, 0⟩, .cpysc 1 2 3 ⟨.c, 1, 0, 0, 0⟩, .cpymq 1 0 ⟨.c, 0, 0, 0, 0⟩, .cpymq 1 65 ⟨.c, 0, 0, 0, 0⟩,
      .gather 1 2 3 ⟨false, 0, 0, 0⟩ ⟨.c, 1, 0, 0, 0⟩, .scatter 1 2 3 ⟨false, 0, 0, 0⟩ ⟨.c, 1, 0, 0, 0⟩, .cred .add .i32 1 2 3 ⟨.c, 1, 0, 0, 0⟩,
      .gload 1 2 3 4 ⟨.c, 1, 0, 0, 0⟩, .halloc 0 1, .hjoin 0 1 2, .hmov 0 1, .takeh 0 1, .hsplit 0 1 2, .hsplit 3 1 2].all
        (fun i => !WellFormed i) = true := by decide +kernel

theorem test_illFormed_steps :
    [Instr.tvecWrite 0x449 0 1 0, .tvecWrite 0 4 1 0, .wsleepLimit 0 4, .asyncTrapDelivery 0 4, .watchdog 0 4, .budgetExpiry 0 4 0,
      .continuationSelect 0 4, .blockedPark 0 4, .preemptionRequest 0 4, .safePointPreemption 0 4, .hardPreemption 0 4, .unwind 0 4,
      .forcedSave 0 4, .unwindHandlerExpiry 0 4, .migrationTimeout 0 4, .atomicOpCompletion 0 4 .done, .blaxClear 0x449 0,
      .uCopyEviction 0x449 0, .commandStart 0x449 .copy, .commandComplete 0x449 0, .recordHoldBack 0x449 0, .priorityPromotion 0x449 0,
      .corePreemptionRequest 0x449, .ownerChange 0x449 true 0, .scrubEnd 0x449, .debugHalt 0x449 ⟨3, none⟩, .debugStop 0x449,
      .debugResume 0x449 ⟨3, none⟩, .debugStopRevocation 0x449, .dbgData 0x449 ⟨3, none⟩ none, .groupTimerExpiry 4 0, .prepare 4 0,
      .linkDown 4 0 0, .quiescenceSweep 4, .clockThrottleStep 4, .clockRestoreStep 4, .lossOfLock 4, .lockReturn 4,
      .alarmConditionClear 4].all (fun i => !WellFormed i) = true := by decide +kernel

/-! ### Decoding

Words computed by hand from the encoding rules of spec/: the head by R71, the tail by R77 and R82, and each form's fields. -/

/-- Control flow (R128-R139). -/
theorem test_decode_control :
    decodeHalves [0x0000] = some .nop ∧
    decodeHalves [0x8040, 0x07FF, 0xFFFB] = some (.br (-5)) ∧
    decodeHalves [0x8080, 0x54C0, 0xFFFD] = some (.beq 10 19 (-3)) ∧
    decodeHalves [0x8080, 0x54C4, 0xFFFD] = some (.bne 10 19 (-3)) ∧
    decodeHalves [0x8080, 0x54C8, 0xFFFD] = some (.blt 10 19 (-3)) ∧
    decodeHalves [0x8080, 0x54CC, 0xFFFD] = some (.bge 10 19 (-3)) ∧
    decodeHalves [0x8080, 0x54D0, 0xFFFD] = some (.bltn 10 19 (-3)) ∧
    decodeHalves [0x8080, 0x54D4, 0xFFFD] = some (.bgen 10 19 (-3)) ∧
    decodeHalves [0x80C2, 0x5140, 0x0009] = some (.bbs 10 37 9) ∧
    decodeHalves [0x80C0, 0x54C4, 0x0009] = some (.bbc 10 19 9) ∧
    decodeHalves [0x812A, 0x0234, 0x5678] = some (.call 21 0x2345678) ∧
    decodeHalves [0x4140, 0x5000] = some (.jr 10) ∧
    decodeHalves [0x416A, 0x5001] = some (.callr 21 10) ∧
    decodeHalves [0x4140, 0x5002] = some (.ret 10) ∧
    decodeHalves [0x8180, 0x5080, 0x0007] = some (.loop 2 10 7) ∧
    decodeHalves [0x81D2, 0x5040, 0x0007] = some (.loopi 1 (9 * 32 + 10) 7) ∧
    decodeHalves [0x422A, 0x5000] = some (.spawn 21 10) ∧
    decodeHalves [0x422A, 0x5001] = some (.spawnl 21 10) ∧
    decodeHalves [0x0240] = some .endC ∧
    decodeHalves [0x0280] = some .yield ∧
    decodeHalves [0x0282] = some .park ∧
    decodeHalves [0x42EA, 0x5000] = some (.launch 21 10) :=
  ⟨rfl, rfl, rfl, rfl, rfl, rfl, rfl, rfl, rfl, rfl, rfl, rfl, rfl, rfl, rfl, rfl, rfl, rfl, rfl, rfl, rfl, rfl⟩

/-- System instructions (R102-R109, R140-R143, R399). -/
theorem test_decode_system :
    decodeHalves [0x4300, 0x05A5] = some (.trap 0x5A5) ∧
    decodeHalves [0x4300, 0x0800] = some .eret ∧
    decodeHalves [0x4300, 0x1000] = some .wfi ∧
    decodeHalves [0x436A, 0x0820] = some (.swr 21 .spbudget) ∧
    decodeHalves [0x436A, 0x1030] = some (.sset 21 .fetchctl) ∧
    decodeHalves [0x436A, 0x180C] = some (.sclr 21 .tinfo) ∧
    decodeHalves [0x0388] = some (.fence .s) ∧
    decodeHalves [0x0396] = some (.fenceAcq .p) ∧
    decodeHalves [0x03A2] = some (.fenceRel .c) ∧
    decodeHalves [0x03B0] = some .fetchf ∧
    decodeHalves [0x03B2] = some .efence ∧
    decodeHalves [0x43C0, 0x05A5] = some (.brk 0x5A5) ∧
    decodeHalves [0x43EA, 0x0DA5] = some (.trace 21 0x5A5) ∧
    decodeHalves [0x43EA, 0x1015] = some (.tsr 21 0x15) :=
  ⟨rfl, rfl, rfl, rfl, rfl, rfl, rfl, rfl, rfl, rfl, rfl, rfl, rfl, rfl⟩

/-- Every system register by its number (R102). -/
theorem test_decode_sysregs :
    decodeHalves [0x436A, 0x0000] = some (.srd 21 .thread) ∧
    decodeHalves [0x436A, 0x0001] = some (.srd 21 .core) ∧
    decodeHalves [0x436A, 0x0002] = some (.srd 21 .owner) ∧
    decodeHalves [0x436A, 0x0003] = some (.srd 21 .domid) ∧
    decodeHalves [0x436A, 0x0004] = some (.srd 21 .ddepth) ∧
    decodeHalves [0x436A, 0x0008] = some (.srd 21 .tvec) ∧
    decodeHalves [0x436A, 0x0009] = some (.srd 21 .tcause) ∧
    decodeHalves [0x436A, 0x000A] = some (.srd 21 .tpc) ∧
    decodeHalves [0x436A, 0x000B] = some (.srd 21 .taddr) ∧
    decodeHalves [0x436A, 0x000C] = some (.srd 21 .tinfo) ∧
    decodeHalves [0x436A, 0x000D] = some (.srd 21 .vresume) ∧
    decodeHalves [0x436A, 0x0010] = some (.srd 21 .qmod) ∧
    decodeHalves [0x436A, 0x0011] = some (.srd 21 .qmu) ∧
    decodeHalves [0x436A, 0x0018] = some (.srd 21 .pb1) ∧
    decodeHalves [0x436A, 0x0019] = some (.srd 21 .pb2) ∧
    decodeHalves [0x436A, 0x001A] = some (.srd 21 .pb3) ∧
    decodeHalves [0x436A, 0x0020] = some (.srd 21 .spbudget) ∧
    decodeHalves [0x436A, 0x0021] = some (.srd 21 .wdog) ∧
    decodeHalves [0x436A, 0x0028] = some (.srd 21 .tsc) ∧
    decodeHalves [0x436A, 0x0030] = some (.srd 21 .fetchctl) ∧
    decodeHalves [0x436A, 0x0038] = some (.srd 21 .blax) ∧
    decodeHalves [0x436A, 0x0039] = some (.srd 21 .blad) :=
  ⟨rfl, rfl, rfl, rfl, rfl, rfl, rfl, rfl, rfl, rfl, rfl, rfl, rfl, rfl, rfl, rfl, rfl, rfl, rfl, rfl, rfl, rfl⟩

/-- Scalar instructions, majors 0x10 to 0x19 (R111-R118). -/
theorem test_decode_scalar :
    decodeHalves [0x442A, 0x54C0] = some (.add 21 10 19) ∧
    decodeHalves [0x442A, 0x54C1] = some (.sub 21 10 19) ∧
    decodeHalves [0x442A, 0x54C2] = some (.and 21 10 19) ∧
    decodeHalves [0x442A, 0x54C3] = some (.or 21 10 19) ∧
    decodeHalves [0x442A, 0x54C4] = some (.xor 21 10 19) ∧
    decodeHalves [0x442A, 0x54C5] = some (.andn 21 10 19) ∧
    decodeHalves [0x442A, 0x54C6] = some (.orn 21 10 19) ∧
    decodeHalves [0x442A, 0x54C7] = some (.xnor 21 10 19) ∧
    decodeHalves [0x442A, 0x54C8] = some (.min 21 10 19) ∧
    decodeHalves [0x442A, 0x54C9] = some (.max 21 10 19) ∧
    decodeHalves [0x442A, 0x54CA] = some (.minn 21 10 19) ∧
    decodeHalves [0x442A, 0x54CB] = some (.maxn 21 10 19) ∧
    decodeHalves [0x446A, 0x54C0] = some (.shl 21 10 19) ∧
    decodeHalves [0x446A, 0x54C1] = some (.shr 21 10 19) ∧
    decodeHalves [0x446A, 0x54C2] = some (.sra 21 10 19) ∧
    decodeHalves [0x446A, 0x54C3] = some (.rol 21 10 19) ∧
    decodeHalves [0x446A, 0x54C4] = some (.rorRotate 21 10 19) ∧
    decodeHalves [0x44AA, 0x54C0] = some (.seq 21 10 19) ∧
    decodeHalves [0x44AA, 0x54C1] = some (.sne 21 10 19) ∧
    decodeHalves [0x44AA, 0x54C2] = some (.slt 21 10 19) ∧
    decodeHalves [0x44AA, 0x54C3] = some (.sltn 21 10 19) ∧
    decodeHalves [0x44AA, 0x54C4] = some (.sle 21 10 19) ∧
    decodeHalves [0x44AA, 0x54C5] = some (.slen 21 10 19) ∧
    decodeHalves [0x44EA, 0x55A5] = some (.addi 21 10 0x5A5) ∧
    decodeHalves [0x452A, 0x55A5] = some (.andi 21 10 0x5A5) ∧
    decodeHalves [0x456A, 0x55A5] = some (.ori 21 10 0x5A5) ∧
    decodeHalves [0x45AA, 0x55A5] = some (.xori 21 10 0x5A5) ∧
    decodeHalves [0x45EA, 0x5025] = some (.shli 21 10 37) ∧
    decodeHalves [0x45EA, 0x5125] = some (.shri 21 10 37) ∧
    decodeHalves [0x45EA, 0x5225] = some (.srai 21 10 37) ∧
    decodeHalves [0x462A, 0xBEEF] = some (.li 21 0xBEEF) ∧
    decodeHalves [0xC66A, 0x4444, 0x3333, 0x2222, 0x1111] = some (.liw 21 0x1111222233334444) :=
  ⟨rfl, rfl, rfl, rfl, rfl, rfl, rfl, rfl, rfl, rfl, rfl, rfl, rfl, rfl, rfl, rfl, rfl, rfl, rfl, rfl, rfl, rfl, rfl, rfl, rfl, rfl, rfl, rfl, rfl, rfl, rfl, rfl⟩

/-- Scalar instructions, majors 0x1A to 0x22 (R116, R119-R126). -/
theorem test_decode_scalar2 :
    decodeHalves [0x46AA, 0x54C0] = some (.mul 21 10 19) ∧
    decodeHalves [0x46AA, 0x54C1] = some (.mulh 21 10 19) ∧
    decodeHalves [0x46AA, 0x54C2] = some (.mulhn 21 10 19) ∧
    decodeHalves [0x46AA, 0x54C3] = some (.madd 21 10 19) ∧
    decodeHalves [0x46EA, 0x54C0] = some (.div 21 10 19) ∧
    decodeHalves [0x46EA, 0x54C1] = some (.divn 21 10 19) ∧
    decodeHalves [0x46EA, 0x54C2] = some (.rem 21 10 19) ∧
    decodeHalves [0x46EA, 0x54C3] = some (.remn 21 10 19) ∧
    decodeHalves [0x472A, 0x5000] = some (.clz 21 10) ∧
    decodeHalves [0x472A, 0x5001] = some (.ctz 21 10) ∧
    decodeHalves [0x472A, 0x5002] = some (.popc 21 10) ∧
    decodeHalves [0x472A, 0x5003] = some (.brev 21 10) ∧
    decodeHalves [0x472A, 0x5004] = some (.bswap 21 10) ∧
    decodeHalves [0x476A, 0x54C0] = some (.bfx 21 10 19) ∧
    decodeHalves [0x476A, 0x54C1] = some (.bfxs 21 10 19) ∧
    decodeHalves [0x476A, 0x54C2] = some (.bfi 21 10 19) ∧
    decodeHalves [0x47AA, 0x5025] = some (.setb 21 10 37) ∧
    decodeHalves [0x47AA, 0x5125] = some (.clrb 21 10 37) ∧
    decodeHalves [0x47AA, 0x5225] = some (.tglb 21 10 37) ∧
    decodeHalves [0x47EA, 0x54C0] = some (.sel 21 10 19) ∧
    decodeHalves [0x882A, 0x07FF, 0xFFF9] = some (.addpc 21 (-7)) ∧
    decodeHalves [0x484A, 0x54C0] = some (.pset 5 10 19) ∧
    decodeHalves [0x484A, 0x5001] = some (.padd 5 10) ∧
    decodeHalves [0x486A, 0x3002] = some (.pget 21 6) ∧
    decodeHalves [0x484A, 0x5003] = some (.pstr 5 10) ∧
    decodeHalves [0x48AA, 0x54C0] = some (.mulq 21 10 19) ∧
    decodeHalves [0x48AA, 0x54C1] = some (.addq 21 10 19) ∧
    decodeHalves [0x48AA, 0x54C2] = some (.subq 21 10 19) :=
  ⟨rfl, rfl, rfl, rfl, rfl, rfl, rfl, rfl, rfl, rfl, rfl, rfl, rfl, rfl, rfl, rfl, rfl, rfl, rfl, rfl, rfl, rfl, rfl, rfl, rfl, rfl, rfl, rfl⟩

/-- Loads, stores and caches (R192-R203). -/
theorem test_decode_memory :
    decodeHalves [0x8A2A, 0x5000, 0xFFFC] = some (.ld8 21 10 .rlx (-4)) ∧
    decodeHalves [0x8A2A, 0x5344, 0xFFFC] = some (.ld16 21 10 (.acq .p) (-4)) ∧
    decodeHalves [0x8A2A, 0x5008, 0xFFFC] = some (.ld32 21 10 .rlx (-4)) ∧
    decodeHalves [0x8A2A, 0x534C, 0xFFFC] = some (.ld64 21 10 (.acq .p) (-4)) ∧
    decodeHalves [0x8A2A, 0x5010, 0xFFFC] = some (.lds8 21 10 .rlx (-4)) ∧
    decodeHalves [0x8A2A, 0x5354, 0xFFFC] = some (.lds16 21 10 (.acq .p) (-4)) ∧
    decodeHalves [0x8A2A, 0x5018, 0xFFFC] = some (.lds32 21 10 .rlx (-4)) ∧
    decodeHalves [0x8A6A, 0x5000, 0x000C] = some (.st8 21 10 .rlx 12) ∧
    decodeHalves [0x8A6A, 0x5484, 0x000C] = some (.st16 21 10 (.rel .s) 12) ∧
    decodeHalves [0x8A6A, 0x5008, 0x000C] = some (.st32 21 10 .rlx 12) ∧
    decodeHalves [0x8A6A, 0x548C, 0x000C] = some (.st64 21 10 (.rel .s) 12) ∧
    decodeHalves [0x4AAA, 0x3380] = some (.lda 21 6 .s32 true) ∧
    decodeHalves [0x4AAA, 0x3041] = some (.sta 21 6 .z16 false) ∧
    decodeHalves [0x4AEA, 0x5040] = some (.watch 21 10 true) ∧
    decodeHalves [0x4AEA, 0x5001] = some (.wsleep 21 10) ∧
    decodeHalves [0x4B00, 0x5000] = some (.pf 10) ∧
    decodeHalves [0x4B00, 0x5001] = some (.pfx 10) ∧
    decodeHalves [0x4B00, 0x5002] = some (.clean 10) ∧
    decodeHalves [0x4B00, 0x5003] = some (.inval 10) :=
  ⟨rfl, rfl, rfl, rfl, rfl, rfl, rfl, rfl, rfl, rfl, rfl, rfl, rfl, rfl, rfl, rfl, rfl, rfl, rfl⟩

/-- Full/empty words, semaphores and barriers (R309-R317). -/
theorem test_decode_sync :
    decodeHalves [0x4C2A, 0x5000] = some (.take 21 10) ∧
    decodeHalves [0x4C2A, 0x54C1] = some (.taken 21 10 19) ∧
    decodeHalves [0x4C40, 0x54C0] = some (.put 10 19) ∧
    decodeHalves [0x4C6A, 0x54C1] = some (.putn 21 10 19) ∧
    decodeHalves [0x4CAA, 0x5000] = some (.ldf 21 10) ∧
    decodeHalves [0x4C80, 0x5001] = some (.setf 10) ∧
    decodeHalves [0x4C80, 0x5002] = some (.sete 10) ∧
    decodeHalves [0x4CAA, 0x5003] = some (.qtag 21 10) ∧
    decodeHalves [0x8E00, 0x00BE, 0xEFC9] = some (.swait 201 0xBEEF) ∧
    decodeHalves [0x8E00, 0x08BE, 0xEFC9] = some (.ssig 201 0xBEEF) ∧
    decodeHalves [0x8E2A, 0x1000, 0x00C9] = some (.srdk 21 201) ∧
    decodeHalves [0x8E2A, 0x1800, 0x00C9] = some (.ssetk 21 201) ∧
    decodeHalves [0x4E6A, 0x5000] = some (.barj 21 10) ∧
    decodeHalves [0x4E6A, 0x5001] = some (.bara 21 10) ∧
    decodeHalves [0x4E6A, 0x54C2] = some (.barw 21 10 19) ∧
    decodeHalves [0x4E6A, 0x5003] = some (.barl 21 10) :=
  ⟨rfl, rfl, rfl, rfl, rfl, rfl, rfl, rfl, rfl, rfl, rfl, rfl, rfl, rfl, rfl, rfl⟩

/-- Atomics and reductions (R319-R323). -/
theorem test_decode_atomics :
    decodeHalves [0x8CEA, 0x54C1, 0x0130] = some (.aadd 21 10 19 .i32 .acq .p false) ∧
    decodeHalves [0x8CEA, 0x54C6, 0x01C8] = some (.aand 21 10 19 .i64 .rel .s true) ∧
    decodeHalves [0x8CEA, 0x54CB, 0x0310] = some (.aor 21 10 19 .n32 .ar .c false) ∧
    decodeHalves [0x8CEA, 0x54CC, 0x03A8] = some (.axor 21 10 19 .n64 .rlx .d true) ∧
    decodeHalves [0x8CEA, 0x54D1, 0x0130] = some (.amin 21 10 19 .i32 .acq .p false) ∧
    decodeHalves [0x8CEA, 0x54D6, 0x01C8] = some (.amax 21 10 19 .i64 .rel .s true) ∧
    decodeHalves [0x8CEA, 0x54DB, 0x0310] = some (.aminn 21 10 19 .n32 .ar .c false) ∧
    decodeHalves [0x8CEA, 0x54DC, 0x03A8] = some (.amaxn 21 10 19 .n64 .rlx .d true) ∧
    decodeHalves [0x8CEA, 0x54E1, 0x0130] = some (.aswp 21 10 19 .i32 .acq .p false) ∧
    decodeHalves [0x8CEA, 0x54E7, 0x6BA8] = some (.acas 21 10 19 13 .n64 .ar .d true) ∧
    decodeHalves [0x4D04, 0x54C0] = some (.radd 10 19 .i32) ∧
    decodeHalves [0x4D06, 0x54C1] = some (.rand 10 19 .i64) ∧
    decodeHalves [0x4D0C, 0x54C2] = some (.rorReduce 10 19 .n32) ∧
    decodeHalves [0x4D0E, 0x54C3] = some (.rxor 10 19 .n64) ∧
    decodeHalves [0x4D04, 0x54C4] = some (.rmin 10 19 .i32) ∧
    decodeHalves [0x4D06, 0x54C5] = some (.rmax 10 19 .i64) ∧
    decodeHalves [0x4D10, 0x54C6] = some (.rfadd 10 19) :=
  ⟨rfl, rfl, rfl, rfl, rfl, rfl, rfl, rfl, rfl, rfl, rfl, rfl, rfl, rfl, rfl, rfl, rfl⟩

/-- Lane arithmetic (R160-R166). -/
theorem test_decode_vector :
    decodeHalves [0x902A, 0x54C0, 0x019D] = some (.vadd 21 10 19 .i64 true ⟨5, true⟩) ∧
    decodeHalves [0x902A, 0x54C1, 0x020D] = some (.vsub 21 10 19 .n8 false ⟨5, true⟩) ∧
    decodeHalves [0x902A, 0x54C2, 0x000D] = some (.vmul 21 10 19 .i8 ⟨5, true⟩) ∧
    decodeHalves [0x902A, 0x54C3, 0x008D] = some (.vmulh 21 10 19 .i16 ⟨5, true⟩) ∧
    decodeHalves [0x902A, 0x54C4, 0x010D] = some (.vmin 21 10 19 .i32 ⟨5, true⟩) ∧
    decodeHalves [0x902A, 0x54C5, 0x018D] = some (.vmax 21 10 19 .i64 ⟨5, true⟩) ∧
    decodeHalves [0x902A, 0x54C6, 0x020D] = some (.vand 21 10 19 .n8 ⟨5, true⟩) ∧
    decodeHalves [0x902A, 0x54C7, 0x028D] = some (.vor 21 10 19 .n16 ⟨5, true⟩) ∧
    decodeHalves [0x902A, 0x54C8, 0x030D] = some (.vxor 21 10 19 .n32 ⟨5, true⟩) ∧
    decodeHalves [0x902A, 0x54C9, 0x038D] = some (.vshl 21 10 19 .n64 ⟨5, true⟩) ∧
    decodeHalves [0x902A, 0x54CA, 0x000D] = some (.vshr 21 10 19 .i8 ⟨5, true⟩) ∧
    decodeHalves [0x902A, 0x54CB, 0x008D] = some (.vsra 21 10 19 .i16 ⟨5, true⟩) ∧
    decodeHalves [0x906A, 0x54C0, 0x041D] = some (.vfadd 21 10 19 .fp32 .rz ⟨5, true⟩) ∧
    decodeHalves [0x906A, 0x54C1, 0x04AD] = some (.vfsub 21 10 19 .fp16 .rd ⟨5, true⟩) ∧
    decodeHalves [0x906A, 0x54C2, 0x053D] = some (.vfmul 21 10 19 .bf16 .ru ⟨5, true⟩) ∧
    decodeHalves [0x906A, 0x54C3, 0x044D] = some (.vfmin 21 10 19 .fp32 .rna ⟨5, true⟩) ∧
    decodeHalves [0x906A, 0x54C4, 0x048D] = some (.vfmax 21 10 19 .fp16 .rn ⟨5, true⟩) ∧
    decodeHalves [0x906A, 0x54C5, 0x051D] = some (.vfdiv 21 10 19 .bf16 .rz ⟨5, true⟩) ∧
    decodeHalves [0x906A, 0x5006, 0x054D] = some (.vfsqrt 21 10 .bf16 .rna ⟨5, true⟩) ∧
    decodeHalves [0x90AA, 0x54C0, 0x6C1D] = some (.vfma 21 10 19 13 .fp32 .rz ⟨5, true⟩) ∧
    decodeHalves [0x90AA, 0x54C1, 0x6CAD] = some (.vfms 21 10 19 13 .fp16 .rd ⟨5, true⟩) ∧
    decodeHalves [0x90AA, 0x54C2, 0x6D3D] = some (.vfnma 21 10 19 13 .bf16 .ru ⟨5, true⟩) ∧
    decodeHalves [0x90AA, 0x54C3, 0x6C4D] = some (.vfnms 21 10 19 13 .fp32 .rna ⟨5, true⟩) ∧
    decodeHalves [0x90EA, 0x54C4, 0x028D] = some (.vcmp 21 10 19 .gt .n16 ⟨5, true⟩) ∧
    decodeHalves [0x90EA, 0x54E7, 0x048D] = some (.vfcmp 21 10 19 .or .fp16 ⟨5, true⟩) :=
  ⟨rfl, rfl, rfl, rfl, rfl, rfl, rfl, rfl, rfl, rfl, rfl, rfl, rfl, rfl, rfl, rfl, rfl, rfl, rfl, rfl, rfl, rfl, rfl, rfl, rfl⟩

/-- Conversions, reductions, permutes and the others (R167-R175). -/
theorem test_decode_vector2 :
    decodeHalves [0x912A, 0x5200, 0x3EAD] = some (.vcvt 21 10 .e2m1 .fp32 7 .rd ⟨5, true⟩) ∧
    decodeHalves [0x916A, 0x5000, 0x053D] = some (.vrsum 21 10 .bf16 .ru ⟨5, true⟩) ∧
    decodeHalves [0x916A, 0x5001, 0x020D] = some (.vrmax 21 10 .n8 ⟨5, true⟩) ∧
    decodeHalves [0x916A, 0x5002, 0x040D] = some (.vrmin 21 10 .fp32 ⟨5, true⟩) ∧
    decodeHalves [0x91AA, 0x54C0, 0x000D] = some (.vshuf 21 10 19 .i8 ⟨5, true⟩) ∧
    decodeHalves [0x91AA, 0x54C1, 0x050D] = some (.vslide 21 10 19 .bf16 ⟨5, true⟩) ∧
    decodeHalves [0x91AA, 0x5002, 0x040D] = some (.vbcast 21 10 .fp32 ⟨5, true⟩) ∧
    decodeHalves [0x91AA, 0x54C3, 0x088D] = some (.vzip 21 10 19 true .i16 ⟨5, true⟩) ∧
    decodeHalves [0x91AA, 0x54C4, 0x038D] = some (.vunzip 21 10 19 false .n64 ⟨5, true⟩) ∧
    decodeHalves [0x91EA, 0x5000, 0x030D] = some (.vmov 21 10 .n32 ⟨5, true⟩) ∧
    decodeHalves [0x91EA, 0x5001, 0x3008] = some (.vmovg 21 10 6 true) ∧
    decodeHalves [0x91EA, 0x54C2, 0x0188] = some (.vext 21 10 19 .i64 true) ∧
    decodeHalves [0x91EA, 0x54C3, 0x0480] = some (.vins 21 10 19 .fp16 false) ∧
    decodeHalves [0x922A, 0x54C0, 0x038D] = some (.vmulq 21 10 19 ⟨5, true⟩) ∧
    decodeHalves [0x922A, 0x54C1, 0x038D] = some (.vaddq 21 10 19 ⟨5, true⟩) ∧
    decodeHalves [0x922A, 0x54C2, 0x038D] = some (.vsubq 21 10 19 ⟨5, true⟩) ∧
    decodeHalves [0x9268, 0x54C0, 0x6B8D] = some (.vbfly 20 10 19 13 ⟨5, true⟩) ∧
    decodeHalves [0x9268, 0x54C1, 0x6B8D] = some (.vibfly 20 10 19 13 ⟨5, true⟩) ∧
    decodeHalves [0x92AA, 0x5000, 0x040D] = some (.vexp2 21 10 .fp32 ⟨5, true⟩) ∧
    decodeHalves [0x92AA, 0x5001, 0x048D] = some (.vlog2 21 10 .fp16 ⟨5, true⟩) ∧
    decodeHalves [0x92AA, 0x5002, 0x050D] = some (.vrcp 21 10 .bf16 ⟨5, true⟩) ∧
    decodeHalves [0x92AA, 0x5003, 0x040D] = some (.vrsq 21 10 .fp32 ⟨5, true⟩) ∧
    decodeHalves [0x92EA, 0x54C0, 0x6A8D] = some (.vsel 21 10 19 13 .n16 ⟨5, true⟩) ∧
    decodeHalves [0x932A, 0x54C0, 0x051D] = some (.vdot 21 10 19 .bf16 .rz ⟨5, true⟩) :=
  ⟨rfl, rfl, rfl, rfl, rfl, rfl, rfl, rfl, rfl, rfl, rfl, rfl, rfl, rfl, rfl, rfl, rfl, rfl, rfl, rfl, rfl, rfl, rfl, rfl⟩

/-- Vector memory forms (R196-R200, R326). -/
theorem test_decode_vecmem :
    decodeHalves [0xD62A, 0x5000, 0x008D, 0xFFC0, 0x0800] = some (.vld 21 10 (-64) .i16 ⟨5, true⟩ (.acq .t)) ∧
    decodeHalves [0xD62A, 0x5001, 0x050D, 0xFFC0, 0x5000] = some (.vst 21 10 (-64) .bf16 ⟨5, true⟩ (.rel .d)) ∧
    decodeHalves [0xD62A, 0x0002, 0x0A6D, 0x0040, 0x0000] = some (.vlda 21 6 64 true .n8 ⟨5, true⟩ .rlx) ∧
    decodeHalves [0xD62A, 0x0003, 0x046D, 0x0040, 0x7000] = some (.vsta 21 6 64 false .fp32 ⟨5, true⟩ (.rel .p)) ∧
    decodeHalves [0xD66A, 0x54C0, 0x198D, 0x0008, 0x8800] = some (.vgath 21 10 19 3 8 .i64 ⟨5, true⟩ (.acq .s)) ∧
    decodeHalves [0xD66A, 0x54C1, 0x140D, 0x0008, 0x0000] = some (.vscat 21 10 19 2 8 .fp32 ⟨5, true⟩ .rlx) ∧
    decodeHalves [0xD6AA, 0x54C0, 0x0B0D, 0x0008, 0x5800] = some (.vaadd 21 10 19 1 8 .n32 ⟨5, true⟩ .ar .d) ∧
    decodeHalves [0xD6AA, 0x54C1, 0x140D, 0x0008, 0x0000] = some (.vradd 21 10 19 2 8 .fp32 ⟨5, true⟩) ∧
    decodeHalves [0xD6AA, 0x54C2, 0x190D, 0x0008, 0x7000] = some (.vamin 21 10 19 3 8 .i32 ⟨5, true⟩ .rel .p) ∧
    decodeHalves [0xD6AA, 0x54C3, 0x038D, 0x0008, 0x2000] = some (.vamax 21 10 19 0 8 .n64 ⟨5, true⟩ .rlx .c) ∧
    decodeHalves [0xD6EA, 0x0000, 0x0D6D, 0xFFFE, 0x0000] = some (.vldw 21 6 (-2) true .bf16 ⟨5, true⟩) :=
  ⟨rfl, rfl, rfl, rfl, rfl, rfl, rfl, rfl, rfl, rfl, rfl⟩

/-- Engine commands (R226-R250). -/
theorem test_decode_engines :
    decodeHalves [0xD816, 0x3140, 0x0201, 0x0709, 0xC803] = some (.mma 11 6 5 true false ⟨.d, 7, 9, 200, 3⟩) ∧
    decodeHalves [0xD816, 0x3141, 0x0202, 0x0709, 0xC803] = some (.mmaz 11 6 5 false true ⟨.d, 7, 9, 200, 3⟩) ∧
    decodeHalves [0xD856, 0x3140, 0x0203, 0x0709, 0xC803] = some (.mmas 11 6 5 true true ⟨.d, 7, 9, 200, 3⟩) ∧
    decodeHalves [0xD896, 0x3140, 0x0204, 0x0709, 0xC803] = some (.mmaq 11 6 5 false false true ⟨.d, 7, 9, 200, 3⟩) ∧
    decodeHalves [0xD8D6, 0x0000, 0x0280, 0x0709, 0xC803] = some (.azero 11 .n64 ⟨.d, 7, 9, 200, 3⟩) ∧
    decodeHalves [0xD8D6, 0x3001, 0x0258, 0x0709, 0xC803] = some (.astore 11 6 .i32 .ru ⟨.d, 7, 9, 200, 3⟩) ∧
    decodeHalves [0xD8D6, 0x3002, 0x0200, 0x0709, 0xC803] = some (.aload 11 6 .fp32 ⟨.d, 7, 9, 200, 3⟩) ∧
    decodeHalves [0x5900, 0x0000] = some .mqclr ∧
    decodeHalves [0x592A, 0x0001] = some (.mqstat 21) ∧
    decodeHalves [0xDA00, 0x5180, 0x6A00, 0x0709, 0xC803, 0x1234, 0xBEEF, 0x9321, 0x0D61] = some (.sgemv 10 6 13 ⟨true, true, false, 5, 0x432, 0x321, 0xBEEF, 0x1234⟩ ⟨.d, 7, 9, 200, 3⟩) ∧
    decodeHalves [0x5A6A, 0x5000] = some (.smap 21 10) ∧
    decodeHalves [0x5A6A, 0x5001] = some (.sstat 21 10) ∧
    decodeHalves [0xDB00, 0x54C0, 0x3200, 0x0709, 0xC803] = some (.cpyin 10 19 6 ⟨.d, 7, 9, 200, 3⟩) ∧
    decodeHalves [0xDB00, 0x54C1, 0x3200, 0x0709, 0xC803] = some (.cpyout 10 19 6 ⟨.d, 7, 9, 200, 3⟩) ∧
    decodeHalves [0xDB00, 0x54C2, 0x3200, 0x0709, 0xC803] = some (.cpypp 10 19 6 ⟨.d, 7, 9, 200, 3⟩) ∧
    decodeHalves [0xDB00, 0x54C3, 0x3200, 0x0709, 0xC803] = some (.cpysc 10 19 6 ⟨.d, 7, 9, 200, 3⟩) ∧
    decodeHalves [0xDB00, 0x5004, 0x0240, 0x0709, 0xC803] = some (.cpymq 10 64 ⟨.d, 7, 9, 200, 3⟩) ∧
    decodeHalves [0xDB40, 0x5180, 0x2A00, 0x0709, 0xC803, 0xBEEF, 0x005E, 0x0000, 0x0000] = some (.gather 10 6 5 ⟨true, 3, 6, 0xBEEF⟩ ⟨.d, 7, 9, 200, 3⟩) ∧
    decodeHalves [0xDB40, 0x5181, 0x2A00, 0x0709, 0xC803, 0x0007, 0x002A, 0x0000, 0x0000] = some (.scatter 10 6 5 ⟨false, 5, 2, 7⟩ ⟨.d, 7, 9, 200, 3⟩) ∧
    decodeHalves [0xDB80, 0x54C0, 0x32A8, 0x0709, 0xC803] = some (.cred .max .bf16 10 19 6 ⟨.d, 7, 9, 200, 3⟩) ∧
    decodeHalves [0x5BEA, 0x0140] = some (.ecancel 21 5) ∧
    decodeHalves [0x5BEA, 0x0101] = some (.estat 21 4) :=
  ⟨rfl, rfl, rfl, rfl, rfl, rfl, rfl, rfl, rfl, rfl, rfl, rfl, rfl, rfl, rfl, rfl, rfl, rfl, rfl, rfl, rfl, rfl⟩

/-- Groups, routes and streams (R254-R256, R279-R284). -/
theorem test_decode_groups :
    decodeHalves [0x5C2A, 0x5000] = some (.gjoin 21 10) ∧
    decodeHalves [0x5C00, 0x5001] = some (.gleave 10) ∧
    decodeHalves [0xDC6A, 0x54C0, 0x3200, 0x0709, 0xC803] = some (.gload 21 10 19 6 ⟨.d, 7, 9, 200, 3⟩) ∧
    decodeHalves [0x5CAA, 0x5000] = some (.gstat 21 10) ∧
    decodeHalves [0x5D00, 0x54C0] = some (.rtset 10 19) ∧
    decodeHalves [0x5D2A, 0x50C1] = some (.rtget 21 10 3) ∧
    decodeHalves [0x5D2A, 0x5002] = some (.rtchk 21 10) ∧
    decodeHalves [0x5D46, 0x54C0] = some (.sopen 3 10 19) ∧
    decodeHalves [0x5D6A, 0x00C1] = some (.sclose 21 3) ∧
    decodeHalves [0x5D86, 0x5000] = some (.ssend 3 10) ∧
    decodeHalves [0x5D86, 0x3041] = some (.ssendp 3 6 true) :=
  ⟨rfl, rfl, rfl, rfl, rfl, rfl, rfl, rfl, rfl, rfl, rfl⟩

/-- Handles and gates (R208-R217, R336-R345). -/
theorem test_decode_handles :
    decodeHalves [0x5E2A, 0x5000] = some (.halloc 21 10) ∧
    decodeHalves [0x5E00, 0x5001] = some (.hfree 10) ∧
    decodeHalves [0x5E68, 0x54C0] = some (.hsplit 20 10 19) ∧
    decodeHalves [0x5E6A, 0x54C1] = some (.hjoin 21 10 19) ∧
    decodeHalves [0x5E84, 0x5180] = some (.hcpyIn 10 6 true) ∧
    decodeHalves [0x5E82, 0x5180] = some (.hcpyOut 10 6 false) ∧
    decodeHalves [0x5EAA, 0x5001] = some (.hmov 21 10) ∧
    decodeHalves [0x5EAA, 0x50C2] = some (.hinfo 21 10 3) ∧
    decodeHalves [0x5EC0, 0x54C0] = some (.puth 10 19) ∧
    decodeHalves [0x5EEA, 0x5001] = some (.takeh 21 10) ∧
    decodeHalves [0x9F00, 0x54C0, 0x0ABC] = some (.gcall 0xABC 10 19) ∧
    decodeHalves [0x9F00, 0x0004, 0x0000] = some .gret ∧
    decodeHalves [0x5F6A, 0x5000] = some (.gopen 21 10) ∧
    decodeHalves [0x5F40, 0x5001] = some (.gclose 10) ∧
    decodeHalves [0x5F6A, 0x5002] = some (.gquery 21 10) ∧
    decodeHalves [0x5F80, 0x0000] = some .gdoneUnwind ∧
    decodeHalves [0x5F80, 0x0040] = some .gdoneGiveUp ∧
    decodeHalves [0x5FAA, 0x00C1] = some (.dstat 21 3) :=
  ⟨rfl, rfl, rfl, rfl, rfl, rfl, rfl, rfl, rfl, rfl, rfl, rfl, rfl, rfl, rfl, rfl, rfl, rfl⟩

/-! ### Scalar instructions: states that meet the hypotheses -/

/-- Registers at the ends of their range, g1 read and written, g0 as destination, and a divisor of zero. -/
theorem witness_RegisterAluResults :
    ((tR [(1, 0x8000000000000000), (2, 0xFFFFFFFFFFFFFFFF)]).Reads 1 0x8000000000000000 ∧
      (tR [(1, 0x8000000000000000), (2, 0xFFFFFFFFFFFFFFFF)]).Reads 2 0xFFFFFFFFFFFFFFFF ∧
      (tR [(1, 0x8000000000000000), (2, 0xFFFFFFFFFFFFFFFF)]).Takes 1) ∧
    (tState.Reads 0 0 ∧ tState.Reads 31 0 ∧ tState.Takes 0) := by decide +kernel

theorem witness_ImmediateAndBitFieldResults :
    ((tR [(1, 0xFFFFFFFFFFFFFFFF)]).Reads 1 0xFFFFFFFFFFFFFFFF ∧ (tR [(1, 0xFFFFFFFFFFFFFFFF)]).Takes 31) ∧
    ((tR [(1, 5), (2, 0x0C3C), (3, 0)]).Reads 1 5 ∧ (tR [(1, 5), (2, 0x0C3C), (3, 0)]).Reads 2 0x0C3C ∧
      (tR [(1, 5), (2, 0x0C3C), (3, 0)]).Reads 3 0 ∧ (tR [(1, 5), (2, 0x0C3C), (3, 0)]).Takes 3) := by decide +kernel

/-- QMOD is 2^62 − 1 after reset; the largest residue, and an operand that is none. -/
theorem witness_PointerAndModularResults :
    let s := tR [(1, 0x3FFFFFFFFFFFFFFE), (2, 0), (3, 0x3FFFFFFFFFFFFFFF)]
    s.Reads 1 0x3FFFFFFFFFFFFFFE ∧ s.Reads 2 0 ∧ s.Reads 3 0x3FFFFFFFFFFFFFFF ∧ s.Takes 4 ∧
      (0x3FFFFFFFFFFFFFFE : Word).toNat < s.me.sys.qmod.toNat ∧ 0 < s.me.sys.qmod.toNat := by decide +kernel

/-- A register that has been moved from as first and as second source, and a live handle as destination. -/
theorem witness_HandleRegisterTraps :
    let s := tT (fun t => (t.setG 5 0 .movedFrom).setG 6 0x100000000000000 .handle)
    s.me.tagOf 5 = .movedFrom ∧ s.Reads 1 0 ∧ s.Reads 6 0x100000000000000 ∧ s.me.tagOf 6 = .handle := by decide +kernel

/-! ### Control, exceptions and system registers -/

theorem witness_BranchResults :
    (let s := tR [(1, 1), (2, 0xFFFFFFFFFFFFFFFF)]
     s.Reads 1 1 ∧ s.Reads 2 0xFFFFFFFFFFFFFFFF ∧ s.Takes 31 ∧ ¬(1 : Word).toInt < (0xFFFFFFFFFFFFFFFF : Word).toInt ∧
       (1 : Word).toNat < (0xFFFFFFFFFFFFFFFF : Word).toNat) ∧
    (tState.Untraced 0) := by
  refine ⟨?_, Or.inl rfl⟩
  decide +kernel

/-- A loop that starts; one with count 0, whose end's line is well-formed, faults, and fails its check; one that stands on the end of an active loop, and one
whose end is in slot 0; the last and an earlier pass over an end, and its two ways of ending. -/
theorem witness_HardwareLoops :
    (let s := { tState with mem := memWrite tState.mem 0x2000000004000 2 2 }
     s.Reads 1 0 ∧ okAnd ((s.modMe (fun t => t.setLoop 0 zeroLoop)).fetch 0 0 0x4004) (fun _ => true) = true) ∧
    faults ((tState.modMe (fun t => t.setLoop 2 zeroLoop)).fetch 0 0 0x4004) = true ∧
    faultsIn (({ tState with bad := [(0x2000000004000, 2)] }.modMe (fun t => t.setLoop 2 zeroLoop)).fetch 0 0 0x4004) = true ∧
    (let s := tT (fun t => t.setLoop 1 ⟨3, 0x4002, 0x4002, true, 1⟩)
     (s.me.lc[1]).active = true ∧ (s.me.lc[1]).stop = s.me.pc) ∧
    ((0 : BitVec 16).toInt ≤ 0 ∧ slotOf (tState.me.pc + BitVec.ofInt 64 (2 * (31 : BitVec 16).toInt)) = 0) ∧
    (tState.act.out = .fell ∧ ({ tState.act with out := .jumped }).out = .jumped) ∧
    ((∀ m : Fin 3, ¬(tState.me.lc[m].active = true ∧ tState.me.lc[m].stop = tState.me.pc)) ∧ 0 < (1 : BitVec 16).toInt ∧
      slotOf (tState.me.pc + BitVec.ofInt 64 (2 * (1 : BitVec 16).toInt)) ≠ 0 ∧ (tR [(1, 1)]).Reads 1 1 ∧ (1 : Word) ≠ 0) ∧
    (let l : Loop := ⟨1, 0x4002, 0x4006, true, 1⟩
     l.active = true ∧ l.stop = 0x4006 ∧ l.count = 1) ∧
    (let l : Loop := ⟨0, 0x4002, 0x4006, true, 1⟩
     l.active = true ∧ l.stop = 0x4006 ∧ l.count ≠ 1) := by decide +kernel

/-- A state without posted messages, and a fetch that finds a well-formed line in memory: one head, NOP. -/
theorem witness_NopAndFences :
    (tState.release .p = .ok tState ∧ ∀ m ∈ tState.msgs, ¬(m.src = tState.act.core ∧ m.cont = tState.cont)) ∧
    (let s := { tState with mem := memWrite tState.mem 0x2000000004000 2 1 }
     okAnd ((s.modMe (fun x => { x with fetch := [] })).fetchImage s.act.core s.act.thr s.me.pc (s.me.pc + 2))
       (fun x => lineBad x.1 == none) = true) ∧
    (let s := { tT (fun x => { x with pc := 0x403E }) with mem := memWrite tState.mem 0x2000000004000 2 31 }
     slotOf s.me.pc = 31 ∧ okAnd ((s.modMe (fun x => { x with fetch := [] })).fetchImage s.act.core s.act.thr s.me.pc (lineAddr s.me.pc + 66))
       (fun x => lineBad x.1 == none) = true) := by
  refine ⟨⟨rfl, fun m h => nomatch h⟩, ?_⟩
  decide +kernel

theorem tState_canEnter : tState.CanEnter := by
  refine ⟨by decide +kernel, by decide +kernel, fun u h => ?_⟩
  have : tState.me.unwind = none := by decide +kernel
  simp [this] at h

theorem witness_ExceptionEntry : tState.CanEnter := tState_canEnter

/-- No debugger; guest kernel level for ERET, with and without an exception in progress; user level. -/
theorem witness_TrapsAndReturn :
    (tState.CanEnter ∧ ¬(tState.core.dbg.attached = true ∧ tState.core.dbg.brkHalt = true) ∧ ∀ m : Fin 3, tState.me.lc[m].active = false) ∧
    (let s := tT (fun t => { t with level := .guest, sys := { t.sys with tcause := 0x8005, tpc := 0x4004 } })
     s.me.level ≠ .user ∧ s.me.active = true) ∧
    (let s := tT (fun t => { t with level := .guest })
     s.me.level ≠ .user ∧ s.me.active = false) ∧
    tState.me.level = .user := by
  refine ⟨⟨tState_canEnter, ?_⟩, ?_⟩ <;> decide +kernel

/-- VRESUME at user level; TPC at guest kernel level and below it; THREAD, which nothing writes; the least and the greatest modulus and
their neighbours; a write of WDOG in and outside a gate call. -/
theorem witness_SystemRegisters :
    (tState.me.level.atLeast (SysReg.readLevel .vresume) = true ∧ tState.Takes 1 ∧ tState.me.level.atLeast (SysReg.readLevel .tpc) = false) ∧
    (let s := tR [(1, 7)]
     SysReg.writeLevel .vresume = some .user ∧ s.me.level.atLeast .user = true ∧ SysReg.vresume ≠ .tvec ∧ s.Reads 1 7 ∧
       okAnd (s.setSreg .vresume 7) (fun t => t.sreg .vresume == 7) = true) ∧
    SysReg.writeLevel .thread = none ∧
    (SysReg.writeLevel .tpc = some .guest ∧ tState.me.level.atLeast .guest = false) ∧
    (3 ≤ (3 : Word).toNat ∧ (3 : Word).toNat < 2 ^ 62 ∧ (3 : Word).toNat % 2 = 1) ∧
    (3 ≤ (0x3FFFFFFFFFFFFFFF : Word).toNat ∧ (0x3FFFFFFFFFFFFFFF : Word).toNat < 2 ^ 62 ∧ (0x3FFFFFFFFFFFFFFF : Word).toNat % 2 = 1) ∧
    ¬(3 ≤ (1 : Word).toNat ∧ (1 : Word).toNat < 2 ^ 62 ∧ (1 : Word).toNat % 2 = 1) ∧
    ¬(3 ≤ (0x4000000000000001 : Word).toNat ∧ (0x4000000000000001 : Word).toNat < 2 ^ 62 ∧ (0x4000000000000001 : Word).toNat % 2 = 1) ∧
    ((0xFF : Word).getLsbD 7 = true ∧ (0x7F : Word).getLsbD 7 = false) := by decide +kernel

/-- A thread that may write TVEC, before and after the Lodge's answer; tracing off, and on with one place left in the encoder; an
attached debugger. -/
theorem witness_LodgeWritesAndTracing :
    (let s := tT (fun t => { t.setG 1 0x9000 with level := .guest })
     s.me.level ≠ .user ∧ s.Reads 1 0x9000 ∧ s.me.wait = none) ∧
    (let s := tT (fun t => { t with level := .guest, wait := some ⟨.lodge, .done, 0, 0⟩ })
     s.me.level ≠ .user ∧ s.Reads 1 0 ∧ s.me.wait = some ⟨.lodge, .done, 0, 0⟩) ∧
    (let s := tT (fun t => { t with wait := some ⟨.lodge, .no, 0, 0⟩ })
     0 < 4 ∧ (s.getThread 0 (.ofNat 2 0)).wait = some ⟨.lodge, .no, 0, 0⟩) ∧
    (tState.Takes 1 ∧ tState.Reads 1 0 ∧ tState.core.dbg.traceOn = false) ∧
    (let s := tState.modCore1 (fun k => { k with dbg := { k.dbg with traceOn := true }, encoder := List.replicate 63 ⟨0, 0, 0, 0, 0, 0⟩ })
     s.Reads 1 0 ∧ s.core.dbg.traceOn = true ∧ s.core.encoder.length < 64) ∧
    (let s := tState.modCore1 (fun k => { k with dbg := { k.dbg with attached := true, brkHalt := true } })
     s.core.dbg.attached = true ∧ s.core.dbg.brkHalt = true) := by decide +kernel

/-! ### Memory and synchronisation -/

/-- The machine with g1 naming the own pool at an offset. -/
def tPool (off : Nat) : State := tR [(1, poolAddr off)]

/-- The first and the last span of 64 bytes of each region, at user level and, of region R, at hypervisor level too; a misaligned address. -/
theorem witness_OwnPoolAccess :
    (0 < 64 ∧ 64 ∣ 64 ∧ tState.me.frames = [] ∧ tState.me.level.code.toNat < 2 ∧
      (let s := tT (fun t => { t with level := .hyper })
       s.me.frames = [] ∧ 2 ≤ s.me.level.code.toNat)) ∧
    (let pb1 := tState.core.pb1.toNat * 65536
     let pb2 := tState.core.pb2.toNat * 65536
     let pb3 := tState.core.pb3.toNat * 65536
     let mq := 3 * 2 ^ 20 - 2 ^ 14
     (∀ off ∈ [0, 131008, 131072, 1441728, 1441792, 3014592, 3014656, 3129280, 3129344, 3145664, 3145728, 4194240], off % 64 = 0 ∧ off < 2 ^ 22) ∧
      (∀ off ∈ [0, 131008], off < pb1 ∧ off < mq) ∧ (∀ off ∈ [131072, 1441728], pb1 ≤ off ∧ off < pb2 ∧ off < mq) ∧
      (∀ off ∈ [1441792, 3014592], pb1 ≤ off ∧ pb2 ≤ off ∧ off < pb3 ∧ off < mq) ∧
      (∀ off ∈ [3014656, 3129280], pb1 ≤ off ∧ pb2 ≤ off ∧ pb3 ≤ off ∧ off < mq) ∧
      (∀ off ∈ [3129344, 3145664], mq ≤ off ∧ off < 3 * 2 ^ 20) ∧ ∀ off ∈ [3145728, 4194240], 3 * 2 ^ 20 ≤ off) ∧
    (0 < 2 ∧ (1 : Word).toNat % 2 ≠ 0) := by decide +kernel

theorem witness_ReadAfterWrite :
    tState.MemOk ∧ (64 ≤ 64 ∧ paSpace 0x2000000100000 ≠ 3 ∧ paSpace (0x2000000100000 + 64) ≠ 3 ∧
      ∀ u ∈ tState.ucopies, u.line ≠ lineOf 0x2000000100000) := by decide +kernel

/-- A load of a byte and of a doubleword of the own pool, through g1 and through a pointer. -/
theorem witness_LoadResults :
    (∀ n ∈ [1, 8], (tPool 131072).Reads 1 (poolAddr 131072) ∧
      okAnd ((tPool 131072).check { size := n, align := n } (poolAddr 131072 + .ofInt 64 (2 * (0 : BitVec 16).toInt)))
        (fun x => decide (x.1 = .pool 0 131072) && okAnd (x.2.read x.1 n) (fun y => y.1 < 2 ^ (8 * n) && decide (y.2.me.tagOf 3 ≠ .handle)))
          = true) ∧
    (let s := tT (fun t => t.wrP 7 131072)
     ptrAddr (s.me.rdP 7) 0 = poolAddr 131072 ∧
      okAnd (s.check { size := 8, align := 8, badPtr := ptrBad (s.me.rdP 7) } (ptrAddr (s.me.rdP 7) 0))
        (fun x => decide (x.1 = .pool 0 131072) && okAnd (x.2.read x.1 8) (fun y => y.1 < 2 ^ 64 && decide (y.2.me.tagOf 3 ≠ .handle)))
          = true) := by decide +kernel

/-- A store to the own pool, relaxed and released at scope S. -/
theorem witness_StoreResults :
    (∀ o ∈ [StOrd.rlx, .rel .s], (tPool 131072).Reads 1 (poolAddr 131072) ∧ (tPool 131072).Stores 2 0 ∧
      okAnd ((tPool 131072).stOrder o) (fun s0 => okAnd (s0.check { write := true, size := 8, align := 8 } (poolAddr 131072))
        (fun x => decide (x.1 = .pool 0 131072) && okAnd (x.2.unmarked x.1 (poolAddr 131072) 1 [(0, 8)]) (fun _ => true) &&
          okAnd (x.2.me.rdStored 2) (fun y => y == 0))) = true) ∧
    (let s := tT (fun t => t.wrP 0 131072)
     okAnd (s.check { write := true, size := 1, align := 1, badPtr := ptrBad (s.me.rdP 0) } (ptrAddr (s.me.rdP 0) 0))
        (fun x => okAnd (x.2.unmarked x.1 (ptrAddr (s.me.rdP 0) 0) 0 [(0, 1)]) (fun _ => true) &&
          okAnd (x.2.me.rdStored 2) (fun y => y == 0)) = true) := by decide +kernel

theorem witness_PoolLoadStoreFrame :
    (tPool 131072).Reads 1 (poolAddr 131072 - .ofInt 64 (2 * (0 : BitVec 16).toInt)) ∧ (tPool 131072).PoolSpan 131072 8 ∧ (tPool 131072).PoolSound ∧
      (tPool 131072).Takes 3 ∧ (tPool 131072).MemOk ∧ (tPool 131072).Stores 2 0 ∧ (tPool 131072).core.marks = [] ∧
      (tPool 131072).PoolSpan (22 * 65536 - 1) 1 := by decide +kernel

/-- A watch of a cacheable cell, its read, and what a later write needs of gd. -/
theorem tWatch_reads : ∃ (x : Nat) (s1 s2 : State), tState.check { size := 8, align := 8, deny := globalOnly, prop := cacheable } 0x100000 =
      .ok (.cell 0x2000000100000 false 0x2000000100000, s1) ∧ s1.read (.cell 0x2000000100000 false 0x2000000100000) 8 = .ok (x, s2) ∧ s2.Takes 3 := by
  obtain ⟨⟨pl, s1⟩, h1, h2⟩ := okAnd_elim (x := tState.check { size := 8, align := 8, deny := globalOnly, prop := cacheable } 0x100000)
    (p := fun y => decide (y.1 = .cell 0x2000000100000 false 0x2000000100000) && decide (∀ e ∈ y.2.bad, e.1 ≠ lineOf 0x2000000100000) &&
      decide (y.2.ucopies = []) && decide (y.2.me.tagOf 3 ≠ .handle)) (by decide +kernel)
  simp only [Bool.and_eq_true, decide_eq_true_eq] at h2
  obtain ⟨⟨⟨rfl, hb⟩, hu⟩, ht⟩ := h2
  refine ⟨_, s1, _, h1, State.read_cell false _ 8 (State.soundLine_ok hb), ?_⟩
  rw [State.Takes, State.account_me, State.recall_none (by simp [hu])]
  exact ht

theorem witness_MonitorsAndCaches :
    ((tR [(1, 0x100000)]).Reads 1 0x100000) ∧
    (∃ (x : Nat) (s1 s2 : State), tState.check { size := 8, align := 8, deny := globalOnly, prop := cacheable } 0x100000 =
      .ok (.cell 0x2000000100000 false 0x2000000100000, s1) ∧ s1.read (.cell 0x2000000100000 false 0x2000000100000) 8 = .ok (x, s2) ∧ s2.Takes 3) ∧
    (let s := tT (fun t => { t with watch := t.watch.set 1 (some ⟨0x2000000100000, true⟩) })
     s.Reads 1 0 ∧ s.Takes 3 ∧ (watchHit s.me.watch[0]).toNat + 2 * (watchHit s.me.watch[1]).toNat ≠ 0) ∧
    (tState.Reads 1 0 ∧ tState.me.watch[0] = none ∧ tState.me.watch[1] = none) ∧
    (let s := tT (fun t => { t with watch := t.watch.set 0 (some ⟨0x2000000100000, false⟩) })
     (watchHit s.me.watch[0]).toNat + 2 * (watchHit s.me.watch[1]).toNat = 0 ∧ ¬(s.me.watch[0] = none ∧ s.me.watch[1] = none) ∧
       s.me.wait = none) ∧
    (let s := tT (fun t => { t with watch := t.watch.set 0 (some ⟨0x2000000100000, false⟩), wait := some ⟨.sleep 1, .done, 0, 1⟩ })
     (watchHit s.me.watch[0]).toNat + 2 * (watchHit s.me.watch[1]).toNat = 0 ∧ ¬(s.me.watch[0] = none ∧ s.me.watch[1] = none) ∧
       s.me.wait = some ⟨.sleep 1, .done, 0, 1⟩ ∧ s.Reads 1 0 ∧ s.Takes 3) ∧
    (let s := tT (fun t => { t with wait := some ⟨.sleep 1, .no, 0, 1⟩ })
     (s.getThread 0 (.ofNat 2 0)).wait = some ⟨.sleep 1, .no, 0, 1⟩ ∧ (1 : Word) ≠ 0 ∧ (1 : Word).toNat ≤ 1) ∧
    (tState.prefetchable 0xFFFE000000020000 false = none) ∧
    (((tState.prefetchable 0x100000 false).map Prod.fst) = some 0x2000000100000 ∧
      ((tState.prefetchable 0x100000 true).map Prod.fst) = some 0x2000000100000) ∧
    (okAnd (tState.maintain 0xFFFE000000020000) (fun x => x.1 == none) = true) ∧
    (okAnd (tState.maintain 0x100000) (fun x => x.1 == some 0x2000000100000) = true) := by
  refine ⟨by decide +kernel, tWatch_reads, ?_⟩
  decide +kernel

/-- A full and an empty word, the first and the last of region S. -/
theorem witness_FullEmptyWords :
    (let s := (tPool 131072).modCore1 (fun k => { k with full := [131072] })
     WordAt s 1 131072 ∧ s.Takes 3 ∧ s.Takes 4 ∧ 131072 ∉ s.core.marks ∧ 131072 ∈ s.core.full ∧ s.Stores 4 0) ∧
    (let s := tPool (22 * 65536 - 8)
     WordAt s 1 (22 * 65536 - 8) ∧ s.Takes 3 ∧ 22 * 65536 - 8 ∉ s.core.marks ∧ 22 * 65536 - 8 ∉ s.core.full ∧ s.Stores 4 0 ∧
       s.streams = []) := by decide +kernel

/-- The machine whose second GiB is the start of space 4, which g1 names. -/
def tWindow : State := { tR [(1, 0x40000000)] with mem := memWrite tState.mem 0x2000000020008 8 0x2F04000000000003 }

/-- An atomic of 4 and of 8 bytes on the own pool, an ACAS that writes, both widths in space 4, and a thread that waits for the host. -/
theorem witness_AtomicResults :
    (∀ t ∈ [AType.i32, .n64], (tPool 131072).Reads 1 (poolAddr 131072) ∧ (tPool 131072).Stores 2 0 ∧ (tPool 131072).Takes 3 ∧
      okAnd ((tPool 131072).check { write := true, size := (atomicType t).1, align := (atomicType t).1 } (poolAddr 131072))
        (fun x => hostSpace x.1 == 0 && okAnd (x.2.unmarked x.1 (poolAddr 131072) 1 [(0, (atomicType t).1)]) (fun _ => true) &&
          okAnd (x.2.atOrder .ar .p) (fun s2 => okAnd (s2.update x.1 (atomicType t).1 (fun y => some (y + 1)))
            (fun y => y.1 < 2 ^ (8 * (atomicType t).1) && decide (y.2.me.tagOf 3 ≠ .handle)) &&
            okAnd (s2.update x.1 (atomicType t).1 (fun z => if z = 0 then some 5 else none))
              (fun y => y.1 == 0 && decide (y.2.me.tagOf 3 ≠ .handle)))) = true) ∧
    (∀ n ∈ [4, 8], tWindow.Reads 1 0x40000000 ∧ tWindow.Stores 2 0 ∧ tWindow.Takes 3 ∧
      okAnd (tWindow.check { write := true, size := n, align := n } 0x40000000) (fun x => hostSpace x.1 == 4 && x.2.me.wait.isNone) = true) ∧
    (let s := tT (fun t => { t with wait := some ⟨.host, .no, 0, 0⟩ })
     (s.getThread 0 (.ofNat 2 0)).wait = some ⟨.host, .no, 0, 0⟩) := by decide +kernel

theorem witness_ReductionResults :
    ((tPool 131072).Reads 1 (poolAddr 131072) ∧ (tPool 131072).Stores 2 0 ∧ (tPool 131072).PoolSpan 131072 8 ∧ (tPool 131072).PoolSound ∧ (tPool 131072).core.marks = [] ∧
      ∀ n ∈ [4, 8], okAnd ((tPool 131072).check { write := true, size := n, align := n, prop := notHost } (poolAddr 131072))
        (fun x => okAnd (x.2.unmarked x.1 (poolAddr 131072) 1 [(0, n)]) (fun _ => true) &&
          okAnd (x.2.reduce x.1 false .add .n64 1 (poolAddr 131072, 1)) (fun _ => true) &&
          okAnd (x.2.reduce x.1 false .fadd .fp32 1 (poolAddr 131072, 1)) (fun _ => true)) = true) ∧
    (let u : UCopy := ⟨0, 0x2000000100000, .add, .n64, [(0x2000000100000, 5)]⟩
     let s := { tState with ucopies := [u] }
     s.ucopies.find? (fun v => v.core = 0 && v.line = 0x2000000100000) = some u) := by decide +kernel

/-- A semaphore below its threshold and at it, a sum of 0xFFFF, and one past it. -/
theorem witness_SemaphoreResults :
    (tState.poolBarred = false ∧ tState.me.wait = none ∧ tState.core.semq = [] ∧ (0 : BitVec 16).toNat ≤ tState.core.sem 3 ∧
      tState.core.sem 3 < (1 : BitVec 16).toNat ∧ tState.core.sem 3 + (0xFFFF : BitVec 16).toNat ≤ 0xFFFF ∧ tState.Takes 1 ∧ tState.Reads 1 0) ∧
    (let s := tState.modCore1 (fun k => k.setSem 255 1)
     s.poolBarred = false ∧ 0xFFFF < s.core.sem 255 + (0xFFFF : BitVec 16).toNat) := by decide +kernel

/-- An object of 2 parties with one arrival, in LPDDR6. -/
def tBar : State := { tR [(1, 0x100000), (2, 4)] with
  mem := memWrite (memWrite tState.mem 0x2000000100000 8 0x500020001) 0x2000000100008 2 2 }

theorem witness_BarrierResults :
    tBar.Reads 1 0x100000 ∧ tBar.Reads 2 4 ∧
    okAnd (tBar.barrierCell 0x100000) (fun x => decide (x.1 = (0x2000000100000, 0x2000000100000)) && decide (x.2.barrierServed = false) && decide (x.2.me.tagOf 3 ≠ .handle) &&
      decide (x.2.barrierAt x.1.1 = { phase := 5, parties := 2, arrived := 1, observed := 2 }) &&
      decide ((x.2.barrierAt x.1.1).phase.toNat ≠ (4 : Word).toNat % 2 ^ 32) &&
      decide ((x.2.barrierAt x.1.1).phase.toNat = (5 : Word).toNat % 2 ^ 32) &&
      okAnd (x.2.release .p) (fun s2 => decide (s2.me.tagOf 3 ≠ .handle) && (barrierStep (.bara 3 1) (s2.barrierAt x.1.1)).isSome) &&
      (barrierStep (.barj 3 1) (x.2.barrierAt x.1.1)).isSome && (barrierStep (.barl 3 1) (x.2.barrierAt x.1.1)).isSome &&
      (barrierStep (.barw 3 1 2) (x.2.barrierAt x.1.1)).isSome) = true ∧
    (tBar.modMe (fun t => { t with wait := some ⟨.barrier 0x2000000100000 5, .done, 0, 0⟩ })).barrierServed = true := by decide +kernel

/-! ### Vector instructions -/

/-- Every lane, and the lanes of g25. -/
theorem witness_VectorIntegerLanes : (VType.i8).isInt = true ∧ (VType.n64).isInt = true ∧ tState.me.maskOf 0 = .ok (BitVec.allOnes 64) ∧
    (tR [(25, 5)]).me.maskOf 1 = .ok 5 := by decide +kernel

theorem witness_VectorFloatLanes : tState.me.maskOf 0 = .ok (BitVec.allOnes 64) ∧ (tR [(31, 1)]).me.maskOf 7 = .ok 1 := by decide +kernel

/-- Zero, the least subnormal and the greatest finite code of FP32, and the only codes of E2M1's ends. -/
theorem witness_RoundingIsExactOnCodes :
    (∀ c ∈ [0, 1, 0x7F7FFFFF, 0x7F800000, 0x80000000], c < 2 ^ fmtFP32.width ∧ fmtFP32.decode c ≠ .nan) ∧
    (∀ c ∈ [0, 15], c < 2 ^ fmtE2M1.width ∧ fmtE2M1.decode c ≠ .nan) := by decide +kernel

theorem witness_VectorComparesAndReductions :
    (tR [(25, 5)]).me.maskOf 1 = .ok 5 ∧ (tR [(25, 5)]).Takes 3 ∧ (VType.i16).isInt = true ∧ vcvtOk .fp32 .fp16 0 = true ∧
      vcvtOk .fp32 .fp16 1 = true ∧ vcvtOk .i8 .i64 7 = true ∧ typeFloat .fp16 = some fmtFP16 ∧
      (1 : BitVec 5).toNat * (512 / max (VType.fp32).width (VType.fp16).width) ≤ 512 := by decide +kernel

theorem witness_VectorPermutesAndMoves :
    (VType.n32).isMove = true ∧ (tR [(1, 3), (2, 0xFFFFFFFFFFFFFFFF)]).Reads 1 3 ∧
      (tR [(1, 3), (2, 0xFFFFFFFFFFFFFFFF)]).Reads 2 0xFFFFFFFFFFFFFFFF ∧ (tR [(1, 3)]).Takes 4 ∧
      (tR [(1, 3)]).me.maskOf 0 = .ok (BitVec.allOnes 64) := by decide +kernel

/-- Residues below QMOD in every lane, an even destination, one active and one inactive lane. -/
theorem witness_VectorModularAndDot :
    let s := tT (fun t => (t.setG 25 2).wrV 1 (BitVec.ofNat 512 5))
    (∀ k, k < 8 → lane (s.me.rdV 1) 64 k < s.me.sys.qmod.toNat ∧ lane (s.me.rdV 2) 64 k < s.me.sys.qmod.toNat ∧
      lane (s.me.rdV 3) 64 k < s.me.sys.qmod.toNat) ∧ (4 : R).toNat % 2 = 0 ∧ s.me.maskOf 1 = .ok 2 ∧ (2 : Word).getLsbD 0 = false ∧
      (2 : Word).getLsbD 1 = true := by decide +kernel

/-- The machine with lane 0 alone active, g1 naming the own pool and p0 naming it too. -/
def tLane : State := tT (fun t => ((t.setG 25 1).setG 1 (poolAddr 131072)).wrP 0 131072)

/-- A line of the own pool through g1 and through p0, with one active lane and with none; lane 0 of a gather, a scatter, a vector atomic
and a vector reduction. -/
theorem witness_VectorMemoryResults :
    (tLane.Reads 1 (poolAddr 131072) ∧ tLane.me.maskOf 1 = .ok 1 ∧ ptrAddr (tLane.me.rdP 0) 0 = poolAddr 131072) ∧
    (∀ w ∈ [false, true], okAnd (tLane.checkLine w (ptrBad (tLane.me.rdP 0)) 32 1 (poolAddr 131072)) (fun x => x.1 == some (.pool 0 131072) &&
      okAnd (x.2.read (.pool 0 131072) 64 (laneParts 32 1)) (fun _ => true) &&
      okAnd (x.2.unmarked (.pool 0 131072) (poolAddr 131072) 1 (laneParts 32 1)) (fun _ => true)) = true) ∧
    (okAnd (tLane.stOrder (.rel .p)) (fun s0 => okAnd (s0.me.maskOf 1) (fun m => m == 1)) = true) ∧
    ((∀ k, k < 512 / 32 → (0 : Word).getLsbD k = false) ∧ (poolAddr 131072).toNat % 64 = 0 ∧ (tR [(25, 0)]).me.maskOf 1 = .ok 0) ∧
    (let addr := fun (k : Nat) => poolAddr 131072 + (BitVec.ofInt 64 (asI 32 (lane (tLane.me.rdV 2) 32 k)) <<< 0 : Word)
     okAnd (tLane.checkLanes 32 addr (maskLanes 32 1)) (fun x => okAnd (x.2.readLanes 32 addr x.1) (fun y => y.1 == [(0, 0)])) = true ∧
     tLane.me.lanesFrom 32 1 = [0] ∧
     (∀ op ∈ [RedOp.add, .min, .max], (tLane.perLane (fun s k => do
        let (pl, s) ← s.check { write := true, size := 4, align := 4, lane := some k } (addr k)
        s.unmarked pl (addr k) 1 [(0, 4)]
        let s ← atomicLane op .i32 s pl (addr k) k 1
        .ok (s.dataMatch (addr k) true [(0, 4)])) (tLane.me.lanesFrom 32 1)).2 = none) ∧
     (tLane.perLane (fun s k => do
        let (pl, s) ← s.check { write := true, size := 4, align := 4, lane := some k } (addr k)
        s.unmarked pl (addr k) 1 [(0, 4)]
        .ok ((s.write pl 4 (lane (tLane.me.rdV 3) 32 k) (addr k, 1)).dataMatch (addr k) true [(0, 4)])) (tLane.me.lanesFrom 32 1)).2 = none ∧
     (tLane.perLane (fun s k => do
        let (pl, s) ← s.check { write := true, size := 4, align := 4, lane := some k, prop := notHost } (addr k)
        s.unmarked pl (addr k) 1 [(0, 4)]
        let s ← s.reduce pl false .add .i32 1 (addr k, 1)
        .ok (s.dataMatch (addr k) true [(0, 4)])) (tLane.me.lanesFrom 32 1)).2 = none) ∧
    (∃ e : Stop, (fun (_ : State) (_ : Nat) => (raise (flt .misaligned 0) : Ex State)) tState 0 = .error e) := by
  refine ⟨?_, ?_, ?_, ?_, ?_, ⟨_, rfl⟩⟩ <;> decide +kernel

/-- Windows of BF16 (not scaled) and of E4M3 (with its entries in region M) at the start of region S. -/
theorem witness_WindowDecodeResults :
    tState.me.maskOf 0 = .ok (BitVec.allOnes 64) ∧ tState.poolBarred = false ∧ tState.PoolSound ∧
    ∀ e ∈ [((4 : Nat), VType.bf16, 32), (2, .e4m3, 16)],
      let ptr : Word := .ofNat 64 (e.1 * 2 ^ 32 + 131072)
      ptr.getLsbD 39 = false ∧ windowType (ptr.toNat / 2 ^ 32 % 16) = some e.2.1 ∧
        (ptr.toNat % 2 ^ 22) % (512 / 32 * e.2.1.width / 8) = 0 ∧ ptrBad ptr = false ∧
        tState.core.decodeBad e.2.1 131072 (512 / 32 * e.2.1.width / 8) = none := by decide +kernel

/-! ### Engines and groups -/

/-- A command of the executing thread, with a threshold and an increment. -/
def tCmd (thr : BitVec 8) (running done : Bool) : Cmd :=
  ⟨9, .matrix, .azero 0, ⟨.d, 3, thr, 4, 1⟩, 7, 1, 0, 1, .user, 0, true, running, done, none, [], [], [], .no, none, []⟩

/-- The machine with a command in core 0. -/
def tCmds (x : Cmd) : State := tState.modCore1 (fun k => { k with cmds := [x] })

/-- p0 in window W1 and p1 in window W0, both at the start of region S. -/
def tPtr (w : Nat) : State := tT (fun t => (t.wrP 0 (.ofNat 64 (w * 2 ^ 32 + 131072))).wrP 1 131072)

/-- A mapped matrix of 32 rows and 32 columns. -/
def tMatrix : Matrix := ⟨0, 5, 1, 0, 0, 32, 32, 10, []⟩

/-- Tile 0 of the two tiles below PB1 = 2, that is of none past 44 KiB: tile 1 ends at 32 KiB. -/
theorem witness_MatrixEngineIssue :
    (∀ w ∈ [1, 4, 7], (tPtr w).engReady .matrix = .ok () ∧ (tPtr w).needTile 1 = .ok () ∧
      (tPtr w).panels ((tPtr w).me.rdP 0) ((tPtr w).me.rdP 0) 1 true = .ok () ∧
      (tPtr w).panels ((tPtr w).me.rdP 0) ((tPtr w).me.rdP 0) 2 false = .ok ()) ∧
    ((tPtr 6).panels ((tPtr 6).me.rdP 0) ((tPtr 6).me.rdP 0) 1 true = .ok ()) ∧
    ((tPtr 0).poolSpan ((tPtr 0).me.rdP 1) (ptrOffset ((tPtr 0).me.rdP 1)) 2048 128 (fun w => w = 0) [1] false = .ok ()) ∧
    ((tPtr 0).tileMove 1 ((tPtr 0).me.rdP 1) .fp32 true = .ok () ∧ (tPtr 0).tileMove 0 ((tPtr 0).me.rdP 1) .n64 false = .ok ()) ∧
    (let s := { tR [(1, 5), (2, 0x100000)] with matrices := [tMatrix] }
     let s := s.modMe (fun t => t.wrP 0 131072)
     let x : SgemvX := ⟨false, true, false, 0, 0, 0, 31, 0⟩
     s.engReady .grotto = .ok () ∧ s.Reads 1 5 ∧ s.matrix 5 = some tMatrix ∧ x.row0.toNat + x.nrows.toNat + 1 ≤ tMatrix.rows ∧
       x.col0.toNat + x.ncols.toNat + 1 ≤ tMatrix.cols / 32 ∧
       s.sgemvSpan (s.me.rdP 0) ((x.nvec.toNat + 1) * xPitch x) false = .ok () ∧
       s.Reads 2 0x100000 ∧ (0x100000 : Word).toNat % 128 = 0 ∧
       okAnd (s.globalSpan { write := true, size := 1, align := 1 } 0x100000 ((x.nvec.toNat + 1) * yPitch x)) (fun _ => true) = true ∧
       s.sgemvSpan (s.me.rdP 0) ((x.nvec.toNat + 1) * yPitch x) true = .ok ()) := by
  decide +kernel

/-- A layout record of one row of one doubleword at the start of region S, a far address in memory or in the pool, and p0 at the middle
of region S. -/
def tCopy (esz : Nat) (far : Word) : State :=
  (tT (fun t => ((t.setG 1 far).setG 2 (poolAddr 131072)).wrP 0 (.ofNat 64 (2 * 2 ^ 32 + 262144)))).modCore1
    (fun k => { k with pool := memWrite k.pool 131072 8 (1 + 2 ^ 16 + 2 ^ 32 + esz * 2 ^ 48) })

theorem witness_CopyIssue :
    (∀ w ∈ [false, true], (tCopy 3 0x100000).engReady .copy = .ok () ∧ (tCopy 3 0x100000).Reads 1 0x100000 ∧
      okAnd ((tCopy 3 0x100000).copyLayout 2) (fun x => x.1 == ⟨3, 1, 1, 1, 0, 0, 0, 0⟩ && okAnd (x.2.copyRows (nearPool x.1 (x.2.me.rdP 0) (!w))
        (farGlobal x.1 w) (x.1.rows 0x100000 262144)) (fun _ => true)) = true) ∧
    ((tCopy 3 (poolAddr 524288)).Reads 1 (poolAddr 524288) ∧
      okAnd ((tCopy 3 (poolAddr 524288)).copyLayout 2) (fun x => okAnd (x.2.copyRows (nearPool x.1 (x.2.me.rdP 0) false)
        (farPool x.1) (x.1.rows (poolAddr 524288) 262144)) (fun _ => true)) = true) ∧
    (okAnd ((tCopy 1 0x100000).copyLayout 2) (fun x => x.1.esz == 1 && okAnd (x.2.copyRows (nearScale x.1 (x.2.me.rdP 0))
        (farGlobal x.1 false) (x.1.rows 0x100000 262144)) (fun _ => true)) = true) ∧
    ((0x100000 : Word).toNat % 256 = 0 ∧
      okAnd ((tCopy 3 0x100000).globalSpan { size := 1, align := 1 } 0x100000 (256 * (255 : BitVec 8).toNat)) (fun _ => true) = true) := by
  decide +kernel

theorem witness_CopyIssue_index : (tPtr 0).engReady .copy = .ok () ∧ (tPtr 0).Reads 1 0 ∧
    (∀ w ∈ [false, true], (tPtr 0).indexSpans ((tPtr 0).me.rdP 0) ((tPtr 0).me.rdP 1) ⟨true, 0, 3, 0⟩ w = .ok () ∧
      (tPtr 0).indexSpans ((tPtr 0).me.rdP 0) ((tPtr 0).me.rdP 1) ⟨true, 0, 3, 64⟩ w = .ok ()) := by decide +kernel

/-- The greatest count of CRED, from the own pool into it. -/
def tCred : State := tT (fun t => ((t.setG 1 (poolAddr 131072)).setG 2 65536).wrP 0 131072)

theorem witness_CopyIssue_cred :
    tCred.engReady .copy = .ok () ∧ tCred.Reads 1 (poolAddr 131072) ∧ tCred.Reads 2 65536 ∧ (65536 : Word).toNat ≤ 65536 ∧
      tCred.poolSpan (tCred.me.rdP 0) (ptrOffset (tCred.me.rdP 0)) (65536 * 8) 8 anyWindow [1, 3] false = .ok () ∧
      okAnd (tCred.check { write := true, size := 65536 * 8, align := 8, deny := poolOnly, regions := some [1, 3] } (poolAddr 131072))
         (fun _ => true) = true := by decide +kernel

/-- Commands that have not started, that wait, that run alone, and two that run at once; an engine that is full, and a halted core. -/
theorem witness_CommandStarts :
    (let s := tCmds (tCmd 0 true false)
     ((s.getCore 0).engine .matrix).find? (fun x => !x.running) = none ∧ (s.getCore 0).crowded .matrix = true ∧
       s.startable 0 .matrix = [tCmd 0 true false] ∧ s.startable 0 .copy = []) ∧
    (let s := tState.modCore1 (fun k => { k with cmds := [{ tCmd 0 true false with id := 8 }, tCmd 0 false false] })
     ((s.getCore 0).engine .matrix).find? (fun x => !x.running) = some (tCmd 0 false false) ∧ (s.getCore 0).crowded .matrix = true) ∧
    (let x := { tCmd 0 true false with eng := .copy }
     (tState.modCore1 (fun k => { k with cmds := [x, { x with id := 8 }] })).startable 0 .copy = [x, { x with id := 8 }]) ∧
    (let s := tCmds (tCmd 0 false false)
     ((s.getCore 0).engine .matrix).find? (fun x => !x.running) = some (tCmd 0 false false) ∧ (s.getCore 0).dbg.halted = false ∧
       (s.getCore 0).crowded .matrix = false ∧ (tCmd 0 false false).f.thr = 0 ∧
       ((s.modCore 0 (fun k => { k with dbg := { k.dbg with halted := true } })).getCore 0).dbg.halted = true) ∧
    (let s := tCmds (tCmd 2 false false)
     ((s.getCore 0).engine .matrix).find? (fun x => !x.running) = some (tCmd 2 false false) ∧ (s.getCore 0).crowded .matrix = false ∧
       (tCmd 2 false false).f.thr ≠ 0 ∧ (s.getCore 0).semq = [] ∧ (s.getCore 0).sem 3 < (tCmd 2 false false).f.thr.toNat ∧
       (tCmd 2 false false).f.thr.toNat ≤ ((s.modCore 0 (fun k => k.setSem 3 2)).getCore 0).sem 3) := by decide +kernel

/-- A running command of the copy engine, with the page of 0x100000 as it was translated. -/
def tRun (op : CmdOp) : Cmd := { tCmd 0 true false with eng := .copy, op := op, xlat := [(16, 0x2000000100000)] }

/-- Two doublewords in a row. -/
def tLay : Layout := ⟨3, 2, 1, 1, 0, 0, 0, 0⟩

/-- The machine with the data link up, and with core 1, which has the same owner. -/
def tTwo : State := { tState with cxlUp := true }.setCore 1 { resetCore with valid := true }

/-- What a command's effects end in. -/
def endsIn (e : Effect) (p : Halt → Bool) : Bool :=
  match e.2 with
  | some h => p h
  | none => false

theorem witness_CommandStarts_ends :
    (tRun (.cpypp 0 (poolAddr 262144).toNat tLay 131072)).fault = none ∧
    (tTwo.effects 0 (tRun (.cpypp 0 (poolAddr 262144).toNat tLay 131072))).2 = none ∧
    endsIn ({ tTwo with bad := [(0x2000000100000, 2)] }.effects 0 (tRun (.cpyin 0x100000 tLay 131072))) (fun h => match h with
      | .fault .integrity _ 0 => true
      | _ => false) = true := by decide +kernel

theorem witness_CommandStarts_copies :
    tTwo.Served (tRun (.azero 0)).owner ∧ tTwo.EngineClear ∧ (tTwo.getCore 0).PoolClear ∧ (tTwo.getCore 1).PoolClear ∧ tTwo.msgs = [] ∧
    (let cell := fun (va : Word) => cellOf (paUnder (tRun (.azero 0)).xlat va.toNat)
     let es := tLay.elems 0x100000 131072 8
     Apart 8 (es.map (fun e => poolOff e.2)) ∧ Apart 8 (es.map (fun e => cell e.1)) ∧ (∀ e ∈ es, ∀ i, i < 8 → paSpace (cell e.1 + i) ≠ 3)) ∧
    (let es := (⟨1, 2, 1, 1, 0, 0, 0, 0⟩ : Layout).elems 0x100000 131072 (blockBytes .e4m3)
     Apart 2 (es.map (fun e => (tTwo.getCore 0).entryAt .e4m3 e.2))) ∧
    ((tTwo.getCore 0).mq.length = 0 ∧ min 255 (64 - (tTwo.getCore 0).mq.length) < 255) :=
  ⟨State.served_of_shared rfl rfl (by decide +kernel), by decide +kernel⟩

/-- From core 0 to core 1, and between its own words. -/
theorem witness_CommandStarts_remote :
    (∀ y ∈ [0xFFFD001000020000, (poolAddr 262144).toNat], let es := tLay.elems (.ofNat 64 y) 131072 8
      let x := tRun (.cpypp 0 y tLay 131072)
      tTwo.reachAll x 0 (((tLay.rows (.ofNat 64 y) 131072).map (fun r => farCore 0 r.1)).eraseDups) = (tTwo, none) ∧
        (∀ e ∈ es, tTwo.lands x (farCore 0 e.1) = true ∧ tTwo.copyBad x 0 (farCore 0 e.1) = none ∧ (tTwo.getCore (farCore 0 e.1)).PoolClear) ∧
        es.Pairwise (fun e f => farCore 0 e.1 ≠ farCore 0 f.1 ∨ poolOff e.1.toNat + 8 ≤ poolOff f.1.toNat ∨ poolOff f.1.toNat + 8 ≤ poolOff e.1.toNat) ∧
        (∀ e ∈ es, ∀ f ∈ es, farCore 0 e.1 = 0 → poolOff e.1.toNat + 8 ≤ f.2 ∨ f.2 + 8 ≤ poolOff e.1.toNat)) ∧
    (let x := tRun (.cred 1 0xFFFD001000020000 2 131072 .i32 .add)
     tTwo.reachAll x 0 [1] = (tTwo, none) ∧ tTwo.lands x 1 = true ∧ tTwo.copyBad x 0 1 = none) ∧
    (poolOff (poolAddr 262144).toNat + 65536 * 8 ≤ 131072 ∨ 131072 + 2 * 4 ≤ poolOff (poolAddr 262144).toNat) := by decide +kernel

/-- A region of two elements of four bytes at 0x100000. -/
theorem witness_CommandStarts_hcpyOut : let g : Region := ⟨0x100000, 0x0001000100010002, 0, 0x0001000100010002, 4⟩
    let dest := fun i => cellOf (paUnder (tRun (.azero 0)).xlat (g.addr i))
    g.count = 2 ∧ Apart g.size ((List.range g.count).map dest) ∧ (∀ i ∈ List.range g.count, ∀ j, j < g.size → paSpace (dest i + j) ≠ 3) := by
  decide +kernel

/-- Tile 0, the first and the last row of region S as operands, a queue that is short and one that is long enough, and the windows of an ASTORE. -/
theorem witness_TileEffects : tCore.worn = [] ∧ Memory.wf tCore.pool = true ∧ tCore.marks = [] ∧
    (min (4 - 0) tCore.mq.length < 4 ∧ 4 ≤ min (4 - 0) (tCore.mq ++ List.replicate 64 0).length) ∧
    (windowType 0 = none ∧ windowType 4 = some .bf16 ∧ isScaled .bf16 = false ∧ windowType 2 = some .e4m3 ∧ isScaled .e4m3 = true) ∧
    (∀ size ∈ [2048, 16384, 512 * (VType.bf16).width], 131072 + size ≤ 0 * 16384 ∨ (0 + 1) * 16384 ≤ 131072) := by decide +kernel

theorem witness_TileEffects_scaled : let row := 8 * (VType.e4m3).width
    let entry := fun i h => tCore.entryAt .e4m3 (131072 + i * row + h * (row / 2))
    Apart 2 (((List.range 64).map (fun i => [entry i 0, entry i 1])).flatten) ∧
    (∀ i h, i < 64 → h < 2 → (entry i h + 2 ≤ 131072 ∨ 131072 + 512 * (VType.e4m3).width ≤ entry i h) ∧ (entry i h + 2 ≤ 0 ∨ (0 + 1) * 16384 ≤ entry i h)) := by
  have h : ∀ i h, i < 64 → h < 2 → 3014656 ≤ tCore.entryAt .e4m3 (131072 + i * (8 * (VType.e4m3).width) + h * (8 * (VType.e4m3).width / 2)) := by
    intro i h hi hh
    simp only [Core.entryAt]
    have : tCore.mBase = 3014656 := by decide +kernel
    omega
  refine ⟨by decide +kernel, fun i k hi hk => ?_⟩
  have := h i k hi hk
  have hw : 512 * (VType.e4m3).width = 4096 := rfl
  simp only [] at this ⊢
  omega

/-- One row of a matrix in LPDDR6, with its result in the pool, and in the next page of memory. -/
theorem witness_TileEffects_sgemv : let m : Matrix := { tMatrix with xlat := [(16, 0x2000000100000)] }
    let s := { tTwo with matrices := [m] }
    let w : SgemvX := ⟨false, true, false, 0, 0, 0, 0, 0⟩
    let x : Cmd := { tRun (.sgemv 0 5 131072 false 0x110000 w) with xlat := [(17, 0x2000000110000)] }
    s.Served x.owner ∧ s.matrices.find? (fun m => m.stack = 0 && m.slot = 5) = some m ∧ s.EngineClear ∧ (s.getCore 0).PoolClear ∧
    (let out := fun n => n / 1 * yPitch w + 4 * (n % 1)
     let dest := fun n => cellOf (paUnder x.xlat (0x110000 + out n))
     Apart 4 ((List.range 1).map dest) ∧ (∀ n, n < 1 → ∀ i, i < 4 → paSpace (dest n + i) ≠ 3)) :=
  ⟨State.served_of_shared rfl rfl (by decide +kernel), by decide +kernel⟩

theorem witness_CommandCompletes :
    let s := (tCmds (tCmd 0 true true)).modCore 0 (fun k => k.setSem 4 0xFFFE)
    (s.getCore 0).cmds.find? (fun y => y.id = (tCmd 0 true true).id && y.done && y.eng != .group) = some (tCmd 0 true true) ∧
      (tCmd 0 true true).fault = none ∧ (s.getCore 0).semq = [] ∧ (s.getCore 0).sem 4 + (tCmd 0 true true).f.inc.toNat ≤ 0xFFFF := by
  decide +kernel

theorem witness_CommandCompletes_op : ∀ d n o r, (tCmd 0 true true).op ≠ .hcpyOut d n o r := by
  intro d n o r h
  exact nomatch h

theorem witness_EngineControl :
    (tState.poolBarred = false ∧ tState.Takes 1 ∧ tState.Reads 1 0 ∧ tState.matrix 0 = none) ∧
    (let s := { tR [(2, 0x8000000000000005)] with matrices := [tMatrix] }
     s.Reads 2 0x8000000000000005 ∧ s.matrix 5 = some tMatrix ∧ (0x8000000000000005 : Word).getLsbD 63 = true ∧
       s.matrix (0x8000000000000005 &&& 0xFFF) = some tMatrix ∧ s.matrix 6 = none ∧ s.pendingOn tMatrix = 0) ∧
    ((tState.core.cancels 7 tState.cont = [] ∧ tState.core.semq = []) ∧
      (tCmds (tCmd 0 false false)).core.cancels 1 (tCmds (tCmd 0 false false)).cont = [tCmd 0 false false]) := by decide +kernel

theorem witness_EngineControl_op : (∀ t a b, (tCmd 0 false false).op ≠ .mmas t a b) ∧ (∀ d n o r, (tCmd 0 false false).op ≠ .hcpyOut d n o r) := by
  constructor
  · intro t a b h; exact nomatch h
  · intro d n o r h; exact nomatch h

/-- A descriptor of a matrix of 32 rows and columns of BF16 in memory, on an uncached page of LPDDR6, that names that page. -/
def tDesc : State := { tR [(1, 0x100000)] with mem := memWrite (memWrite (memWrite (memWrite (memWrite [] 0x2000000010000 8 0x2000000020001)
  0x2000000020000 8 0x2F02000000000003) 0x2000000100000 8 0x100000) 0x2000000100008 8 (32 + 32 * 2 ^ 32)) 0x2000000100010 8 10 }

/-- tDesc after reads of its words: a cached translation, and replies in the accumulators of core 0. -/
def tDescs (f : Nat) (sums : Vector (BitVec 48) 64) (cnts : Vector (BitVec 32) 64) : State := { tDesc with
  fresh := f
  tlb := [⟨1, 16, 0x2000000100000, 0x2F02000000000003⟩]
  cores := [(0, { tDesc.core with sums := sums, cnts := cnts })] }

theorem tDescs_walk (f : Nat) (sums : Vector (BitVec 48) 64) (cnts : Vector (BitVec 32) 64) (i : Nat) (hi : i ∈ [0, 8, 16, 24]) :
    (tDescs f sums cnts).walk 1 (0x100000 + i) = (.ok (0x2000000100000 + i, 0x2F02000000000003), tDescs f sums cnts) := by
  rw [State.walk_congr (s := tDesc) (t := tDescs f sums cnts) (by rfl) (by rfl) (by rfl) (by rfl) (by rfl) (fun _ => rfl) (fun _ => rfl)]
  have : ∀ i ∈ [0, 8, 16, 24], (tDesc.walk 1 (0x100000 + i)).1.toOption = some (0x2000000100000 + i, 0x2F02000000000003) := by decide +kernel
  have h := this i hi
  revert h
  generalize (tDesc.walk 1 (0x100000 + i)).1 = x
  intro h
  cases x <;> simp_all [Except.toOption]

theorem tDescs_check (f : Nat) (sums : Vector (BitVec 48) 64) (cnts : Vector (BitVec 32) 64) (i : Nat) (hi : i ∈ [0, 8, 16, 24]) :
    (tDescs f sums cnts).check { size := 8, align := 8, deny := globalOnly } (.ofNat 64 (0x100000 + i)) =
      .ok (.cell (0x2000000100000 + i) true (0x2000000100000 + i), tDescs f sums cnts) := by
  have ht : (tDescs f sums cnts).translate 1 (0x100000 + i) = (.ok (0x2000000100000 + i, 0x2F02000000000003), tDescs f sums cnts) := by
    refine State.translate_cached (tDescs_walk f sums cnts i hi) ?_ ?_
    · simp only [List.mem_cons, List.not_mem_nil, or_false] at hi
      rcases hi with rfl | rfl | rfl | rfl <;> rfl
    · simp only [List.mem_cons, List.not_mem_nil, or_false] at hi
      rcases hi with rfl | rfl | rfl | rfl <;> decide
  have hc : ∀ i ∈ [0, 8, 16, 24], classOf (.ofNat 64 (0x100000 + i)) = .global ∧ (BitVec.ofNat 64 (0x100000 + i)).toNat = 0x100000 + i ∧
      cellOf (0x2000000100000 + i) = 0x2000000100000 + i ∧ paSpace (0x2000000100000 + i) = 2 ∧ (0x100000 + i) % 8 = 0 := by decide +kernel
  obtain ⟨h1, h2, h3, h4, h5⟩ := hc i hi
  have hm : (tDescs f sums cnts).me = tDesc.me := by rfl
  have hd : tDesc.me.domid = 1 ∧ tDesc.me.level = .user := by decide +kernel
  have hst : ∀ uc, (tDescs f sums cnts).starved uc (0x2000000100000 + i) = false := fun _ =>
    State.starvedAt_served (State.served_of_shared rfl rfl (show (tDesc.ownerRec tDesc.core.owner).mode ≠ .strict by decide +kernel)) _ _ _
  rw [State.check_global (by rw [h2]; exact h5) h1 rfl, hm, hd.1, hd.2,
    State.checkGlobal_ok (by rw [h2]; exact ht) (by decide +kernel) rfl rfl (by rw [h4]; decide) rfl (by rfl) hst, h3, h4]
  rfl

theorem tDescs_read (f : Nat) (sums : Vector (BitVec 48) 64) (cnts : Vector (BitVec 32) 64) (i : Nat) (hi : i ∈ [0, 8, 16, 24]) :
    ∃ (g : Nat) (u : Vector (BitVec 48) 64) (v : Vector (BitVec 32) 64),
      (tDescs f sums cnts).read (.cell (0x2000000100000 + i) true (0x2000000100000 + i)) 8 = .ok (tDesc.bytesAt (0x2000000100000 + i) 8, tDescs g u v) := by
  have hd : ∀ i ∈ [0, 8, 16, 24], destsOf (0x2000000100000 + i) true = [some 51] := by decide +kernel
  refine ⟨f + 1, ((tDescs f sums cnts).core.account 51 (Config.latency f)).sums, ((tDescs f sums cnts).core.account 51 (Config.latency f)).cnts, ?_⟩
  rw [State.read_cell true _ 8 (State.soundLine_ok (fun e he => absurd (show e ∈ ([] : List (Nat × BitVec 4)) from he) List.not_mem_nil))]
  simp only [if_true, hd i hi, State.account_one, State.recall_nil (show (tDescs f sums cnts).ucopies = [] from rfl),
    State.bytesAt_congr (show (tDescs f sums cnts).mem = tDesc.mem from rfl) (show (tDescs f sums cnts).hostLine = tDesc.hostLine from rfl)]
  rfl

/-- The descriptor's words, read with the rights of the thread. -/
theorem tDescs_words (sums : Vector (BitVec 48) 64) (cnts : Vector (BitVec 32) 64) :
    ∃ (f : Nat) (u : Vector (BitVec 48) 64) (v : Vector (BitVec 32) 64), (tDescs 0 sums cnts).readWords globalOnly 0x100000 4 =
      .ok ([0, 8, 16, 24].map (fun i => .ofNat 64 (tDesc.bytesAt (0x2000000100000 + i) 8)), tDescs f u v) := by
  obtain ⟨f1, u1, v1, h1⟩ := tDescs_read 0 sums cnts 0 (by decide)
  obtain ⟨f2, u2, v2, h2⟩ := tDescs_read f1 u1 v1 8 (by decide)
  obtain ⟨f3, u3, v3, h3⟩ := tDescs_read f2 u2 v2 16 (by decide)
  obtain ⟨f4, u4, v4, h4⟩ := tDescs_read f3 u3 v3 24 (by decide)
  have off : ∀ f u v, ∀ m ∈ (tDescs f u v).core.dbg.m.toList, m.val.extractLsb' 62 2 = 0 := fun _ _ _ => by
    show ∀ m ∈ tCore.dbg.m.toList, m.val.extractLsb' 62 2 = 0
    decide +kernel
  refine ⟨f4, u4, v4, State.readWords_cons (tDescs_check _ _ _ 0 (by decide)) h1 ?_⟩
  rw [State.dataMatch_off (off _ _ _)]
  refine State.readWords_cons (tDescs_check _ _ _ 8 (by decide)) h2 ?_
  rw [State.dataMatch_off (off _ _ _)]
  refine State.readWords_cons (tDescs_check _ _ _ 16 (by decide)) h3 ?_
  rw [State.dataMatch_off (off _ _ _)]
  refine State.readWords_cons (tDescs_check _ _ _ 24 (by decide)) h4 ?_
  rw [State.dataMatch_off (off _ _ _)]
  rfl

/-- SMAP of a descriptor that names a matrix in mapped memory. -/
theorem witness_EngineControl_smap : ∃ (s s1 s2 s3 : State) (w : List Word) (pages : List (Nat × Nat)) (v : Word),
    s.Reads 1 0x100000 ∧ (0x100000 : Word).getLsbD 63 = false ∧ (0x100000 : Word).toNat % 8 = 0 ∧ s.poolBarred = false ∧ s.Takes 3 ∧
      s.readWords globalOnly 0x100000 4 = .ok (w, s1) ∧ descriptorOk w = true ∧
      s1.matrixPages (matrixOf w s1.me.domid) = .ok (pages, s2) ∧ (∀ p ∈ pages, s2.inMotion (cellOf p.2) = false) ∧ s2.mapMatrix (matrixOf w s1.me.domid) pages = (v, s3) := by
  obtain ⟨f, u, v, h⟩ := tDescs_words tCore.sums tCore.cnts
  have hw : ([0, 8, 16, 24].map (fun i => .ofNat 64 (tDesc.bytesAt (0x2000000100000 + i) 8)) : List Word) = [0x100000, 32 + 32 * 2 ^ 32, 10, 0] := by
    decide +kernel
  rw [hw] at h
  have hp : ∃ x, (tDescs f u v).matrixPages (matrixOf [0x100000, 32 + 32 * 2 ^ 32, 10, 0] (tDescs f u v).me.domid) = .ok x ∧
      ∀ p ∈ x.1, x.2.inMotion (cellOf p.2) = false := by
    have ht : (tDescs f u v).translate 1 0x100000 = (.ok (0x2000000100000, 0x2F02000000000003), tDescs f u v) :=
      State.translate_cached (tDescs_walk f u v 0 (by decide)) rfl (by decide)
    have hm : (tDescs f u v).me = tDesc.me := by rfl
    have hd : tDesc.me.domid = 1 ∧ tDesc.me.level = .user := by decide +kernel
    have hs : pagesOf 0x100000 ((32 - 1) * (matrixOf [0x100000, 32 + 32 * 2 ^ 32, 10, 0] 1).pitch +
        (matrixOf [0x100000, 32 + 32 * 2 ^ 32, 10, 0] 1).rowBytes) = [0x100000] := by decide +kernel
    have hn : (0x100000 : Word).toNat = 0x100000 := by decide +kernel
    have hc : (tDescs f u v).checkPa { size := 1, align := 1 } 1 .user 0x100000 0x100000 =
        .ok ((0x2000000100000, true), tDescs f u v) := by
      rw [State.checkPa_ok (pa := 0x2000000100000) (by rw [hn]; exact ht) (by decide +kernel) rfl rfl]
      rfl
    refine ⟨([(16, 0x2000000100000)], tDescs f u v), ?_, fun _ _ => rfl⟩
    have hg : (tDescs f u v).globalSpan { size := 1, align := 1 } 0x100000 ((32 - 1) * (matrixOf [0x100000, 32 + 32 * 2 ^ 32, 10, 0] 1).pitch +
        (matrixOf [0x100000, 32 + 32 * 2 ^ 32, 10, 0] 1).rowBytes) = .ok ([(16, 0x2000000100000)], tDescs f u v) := by
      unfold State.globalSpan
      rw [if_neg (by decide +kernel), hn, hs]
      simp only [State.pagesXlat, hm, hd.1, hd.2]
      rw [if_neg (by decide +kernel)]
      simp only [show (BitVec.ofNat 64 0x100000 : Word) = 0x100000 from rfl, hc, bind, Except.bind]
    rw [hm, hd.1]
    unfold State.matrixPages
    simp only [show (matrixOf [0x100000, 32 + 32 * 2 ^ 32, 10, 0] 1).base = 0x100000 from rfl,
      show (matrixOf [0x100000, 32 + 32 * 2 ^ 32, 10, 0] 1).rows = 32 from rfl, hg, bind, Except.bind]
    rw [if_pos (by decide)]
  obtain ⟨x, hx, hq⟩ := hp
  exact ⟨_, _, _, _, _, _, _, by decide +kernel, by decide, by decide, by decide +kernel, by decide +kernel, h, by decide, hx, hq, rfl⟩

/-- An element of an indexed copy, on a page that is translated already. -/
theorem elemPa_cached {u : State} {x : Cmd} (hx : x.dom = 1 ∧ x.level = .user) (hm : u.mem = tDesc.mem) (hh : u.hostLine = []) (hu : u.ucopies = [])
    (hd : u.domains = tDesc.domains) (hl : ∀ ea, u.entryLost ea = ({ tDesc with cxlUp := true } : State).entryLost ea) (ht : u.tlb = [⟨1, 16, 0x2000000100000, 0x2F02000000000003⟩])
    (hn : u.denied = []) (hr : ∀ a, u.tagPart a = false) (w : Bool) (i : Nat) : u.elemPa x w 8 0x100000 i = .ok (0x2000000100000, u) := by
  have hw : u.walk 1 0x100000 = (.ok (0x2000000100000, 0x2F02000000000003), u) := by
    rw [State.walk_congr (s := { tDesc with cxlUp := true }) (t := u) hm (by rw [hh]; rfl) rfl hu hd hl (fun a => by rw [hr a]; rfl)]
    have : (({ tDesc with cxlUp := true } : State).walk 1 0x100000).1.toOption = some (0x2000000100000, 0x2F02000000000003) := by decide +kernel
    revert this
    generalize (({ tDesc with cxlUp := true } : State).walk 1 0x100000).1 = y
    intro h
    cases y <;> simp_all [Except.toOption]
  have h0 : (0x100000 : Word).toNat = 0x100000 := by decide
  have hc : classOf (0x100000 : Word) = .global := by decide +kernel
  unfold State.elemPa
  rw [if_neg (by decide), hc, hx.1, hx.2]
  simp only [State.checkPa_ok (a := { write := w, size := 8, align := 8 }) (dom := 1) (l := .user) (rep := 0x100000)
    (by rw [h0]; exact State.translate_cached hw ht (by decide)) (by cases w <;> decide +kernel) rfl hn]

/-- The machine of tDescs with the data link up. -/
def tSpread : State := { tDescs 0 tCore.sums tCore.cnts with cxlUp := true }

theorem witness_CommandStarts_gather : tSpread.EngineClear ∧ (tSpread.getCore 0).PoolClear ∧
    tSpread.Served (tRun (.azero 0)).owner ∧
    (let w : IndexX := ⟨true, 0, 3, 1⟩
     let x := tRun (.gather 0x100000 131072 (poolAddr 262144).toNat w)
     (∀ i, i < w.n.toNat → ∀ u : State, u = { tSpread with cores := u.cores, fresh := u.fresh } →
        u.elemPa x false 8 ((tSpread.getCore 0).indexed1 0x100000 131072 w i) i = .ok (0x2000000100000, u)) ∧
      131072 + 8 * w.n.toNat ≤ poolOff (poolAddr 262144).toNat) := by
  refine ⟨by decide +kernel, by decide +kernel, State.served_of_shared rfl rfl (by decide +kernel), fun i hi u hu => ?_, by decide +kernel⟩
  have h0 : i = 0 := by
    have : (⟨true, 0, 3, 1⟩ : IndexX).n.toNat = 1 := rfl
    omega
  subst h0
  have hv : (tSpread.getCore 0).indexed1 0x100000 131072 ⟨true, 0, 3, 1⟩ 0 = 0x100000 := by decide +kernel
  rw [hv]
  have h := @elemPa_cached { tSpread with cores := u.cores, fresh := u.fresh } (tRun (.gather 0x100000 131072 (poolAddr 262144).toNat ⟨true, 0, 3, 1⟩)) ⟨rfl, rfl⟩ rfl rfl rfl rfl (fun _ => rfl) rfl rfl (fun _ => rfl) false 0
  rwa [← hu] at h

theorem witness_CommandStarts_scatter :
    (let w : IndexX := ⟨true, 0, 3, 1⟩
     let x := tRun (.scatter 0x100000 131072 262144 { w with n := .ofNat 16 0 })
     w.n.toNat = 0 + 1 ∧ ({ w with n := .ofNat 16 0 } : IndexX).n = 0 ∧ tSpread.effects 0 x = (tSpread, none) ∧ (tSpread.getCore 0).worn = [] ∧
       tSpread.elemPa x true 8 ((tSpread.getCore 0).indexed1 0x100000 131072 w 0) 0 = .ok (0x2000000100000, tSpread) ∧ tSpread.EngineClear ∧
       tSpread.Served x.owner ∧
       ∀ i, i < 8 → paSpace (cellOf 0x2000000100000 + i) ≠ 3) ∧
    (let w : IndexX := ⟨true, 0, 3, 1⟩
     (tSpread.elemPa (tRun (.azero 0)) true 8 ((tSpread.getCore 0).indexed1 0x100001 131072 w 0) 0).toOption.isNone = true) := by
  have hv : (tSpread.getCore 0).indexed1 0x100000 131072 ⟨true, 0, 3, 1⟩ 0 = 0x100000 := by decide +kernel
  refine ⟨⟨rfl, rfl, rfl, by decide +kernel, ?_, by decide +kernel, State.served_of_shared rfl rfl (by decide +kernel), by decide +kernel⟩, by decide +kernel⟩
  rw [hv]
  exact elemPa_cached (u := tSpread) ⟨rfl, rfl⟩ rfl rfl rfl rfl (fun _ => rfl) rfl rfl (fun _ => rfl) _ _

/-- A group of two members on die 0, slot 4, generation 1, and a request of its member 0. -/
def tMember (enrolled : Bool) : Member := ⟨some 0, enrolled, none, 0, false, false, false, false, 0⟩

def tGroup (enrolled : Bool) (o : Option Round) : Group := ⟨0, 4, 1, 1, 1, 2, 50, 3, [tMember enrolled, tMember true], o, []⟩

def tReq (round : Nat) : GReq := ⟨11, 0, 4, 1, 0, round, 0, 7, 1, 0x100000, 128, 131072, 4, 1, none⟩

/-- The machine with the group; the thread runs its member 0, and g1 names the group. -/
def tGrp (enrolled : Bool) (o : Option Round) : State := { (tT (fun t => ((((t.setG 1 0x1000004).setG 2 128).setG 3 0x100000).wrP 0 131072))) with
  groups := [tGroup enrolled o] }.modMe (fun t => { t with run := some ⟨7, 1, 0, 0, 0, some ⟨0, 4, 1, 0⟩, 0⟩ })

/-- A fill of 8 bytes for core 0. -/
def tFill : Fill := ⟨12, 0, 4, 1, 0, 0, 0, 7, 1, 0x2000000100000, 131072, [1, 2, 3, 4, 5, 6, 7, 8], 4, 1⟩

theorem witness_MulticastGroups_members :
    ((tGrp false none).Reads 1 0x1000004 ∧ (tGrp false none).member 0x1000004 false = .ok (tGroup false none, 0, tMember false) ∧
      (tGrp true none).member 0x1000004 false = .ok (tGroup true none, 0, tMember true) ∧
      (tGrp true none).member 0x1000004 true = .ok (tGroup true none, 0, tMember true) ∧ (tGrp true none).Takes 4 ∧
      (tMember true).enrolled = true ∧ (tMember false).enrolled = false ∧ (tGroup false none).expired 0 = false) ∧
    (let s := tGrp true none
     s.core.cmds.find? (fun x => x.eng = .group && x.cont = s.cont) = none ∧ s.engReady .group = .ok () ∧ s.Reads 2 128 ∧ s.Reads 3 0x100000 ∧
       (128 : Word).toNat % 128 = 0 ∧ 128 ≤ (128 : Word).toNat ∧ (128 : Word).toNat ≤ 65536 ∧ (0x100000 : Word).toNat % 128 = 0 ∧
       s.poolSpan (s.me.rdP 0) (ptrOffset (s.me.rdP 0)) 128 128 (fun _ => true) [1] true = .ok () ∧
       okAnd (s.globalSpan { size := 1, align := 1 } 0x100000 128) (fun x => !x.2.barred x.2.core.owner (toSlice x.2.act.core (tGroup true none).die.toNat (sliceOf (paUnder x.1 0x100000))) &&
         okAnd (x.2.release .p) (fun _ => true)) = true) ∧
    (let y : Cmd := { tCmd 0 false false with eng := .group, served := .done }
     (tCmds y).core.cmds.find? (fun x => x.eng = .group && x.cont = (tCmds y).cont) = some y ∧ y.served = .done) := by decide +kernel

/-- A late request, the first of a round, one of the open round, and one that differs from it; a timer that has run out and one that
has not; a fill. -/
theorem witness_MulticastGroups_rounds :
    (let s := { tGrp true none with greqs := [tReq 2] }
     s.greqs.find? (fun r => r.id = (tReq 2).id) = some (tReq 2) ∧ s.groupAt 0 4 1 = some (tGroup true none) ∧
       (tGroup true none).expired s.cycle = false ∧ (tReq 2).round < (tGroup true none).round ∧ (tGroup true none).round ≤ (tReq 3).round ∧ (tGroup true none).open_ = none) ∧
    (let o : Round := ⟨0x100000, 128, 131072, 0, [tReq 3], none, none⟩
     let s := { tGrp true (some o) with cycle := 51 }
     s.groups.find? (fun g => g.die.toNat = 0 && g.slot = 4) = some (tGroup true (some o)) ∧ (tGroup true (some o)).open_ = some o ∧
       ((o.src, o.len, o.off) = ((tReq 3).src, (tReq 3).len, (tReq 3).off)) ∧ ((o.src, o.len, o.off + 1) ≠ ((tReq 3).src, (tReq 3).len, (tReq 3).off)) ∧
       o.askers.length < (tGroup true (some o)).required 3 ∧ (tGroup true (some { o with askers := [tReq 3, tReq 3] })).required 3 ≤ 2 ∧ (tGroup true (some o)).timer ≠ 0 ∧
       o.since + (tGroup true (some o)).timer < s.cycle ∧ ({ tGrp true (some o) with cycle := 50 } : State).cycle ≤ o.since + (tGroup true (some o)).timer ∧
       o.timed = none ∧ ({ o with timed := some true } : Round).timed ≠ none) ∧
    (let s := { tState with fills := [tFill] }
     s.MemOk ∧ s.fills.find? (fun x => x.id = tFill.id) = some tFill ∧ (s.getCore 0).dbg.halted = false ∧ s.portOf 0 = [] ∧ (s.getCore 0).valid = true ∧
       (s.getCore 0).scrub = none ∧ s.launchOf tFill.launch = none ∧ s.fillBarred tFill (s.getCore 0).owner = false ∧ (s.getCore 0).marks = [] ∧ (s.getCore 0).deferred = [] ∧
       (s.getCore 0).semq = [] ∧ tFill.bytes.length % 8 = 0 ∧ tFill.off % 8 = 0 ∧
       (s.getCore 0).sem tFill.ksig + tFill.inc.toNat ≤ 0xFFFF) := by decide +kernel

/-- A round whose timer has run out, whose source can be read, and whose group stays for the request that finds it so. -/
theorem witness_MulticastGroups_release : let o : Round := ⟨0x100000, 128, 131072, 0, [tReq 3], none, none⟩
    let g := tGroup true (some o)
    let s := { tGrp true (some o) with cycle := 51, greqs := [tReq 3] }
    s.greqs.find? (fun r => r.id = (tReq 3).id) = some (tReq 3) ∧ s.groupAt 0 4 1 = some g ∧ g.timer ≠ 0 ∧ o.since + g.timer < s.cycle ∧
      o.askers.length < g.required g.round ∧
      (({ s with greqs := s.greqs.erase (tReq 3) } : State).releaseRound g o true |>.groupAt 0 4 1).isSome = true ∧
      ((s.readSource g o.src o.len).toOption.map (fun x => x.2.groupAt g.die g.slot g.gen == some g)) = some true := by decide +kernel

/-! ### Continuations, launches and gangs -/

/-- Words written from an address on, 8 bytes each. -/
def tPut (m : Mem) (a : Nat) : List Word → Mem
  | [] => m
  | w :: r => tPut (memWrite m a 8 w.toNat) (a + 8) r

/-- A header of four work items at 0x4000.1 for domain 1 and owner 0, with its completion record at 0x100000. -/
def tHeader : List Word := [0, 0x4002, 0, 0, 0x1000000004, 0x100000004, 0x100000001, 0x100000001, 0x1000000000, 0, 0, 0x2E00160002, 0, 0x100000, 0, 0]

def tLaunch : Launch := ⟨1, tHeader, 0, .device 0 0, 0, 0, [], 0, 0, none, Vector.replicate 4 0, [], none, 0, noGang⟩

/-- The machine with words of its own pool from offset 131072 on, which g1 names. -/
def tWords (l : List Word) : State := (tPool 131072).modCore1 (fun k => { k with pool := tPut k.pool 131072 l })

/-- The same with a second core of the owner. -/
def tPair (l : List Word) : State := (tWords l).setCore 1 { resetCore with valid := true }

/-- A record that waits in core 0's queue, and one whose launch is unknown. -/
def tRecord : Record := ⟨20, 0x4002, 0x10, 0, 3, 1, 0, 2, none, 0, 0, 0, 0, false, true⟩

theorem witness_ContinuationInstructions_end :
    (tState.me.frames = [] ∧ tState.me.handleMask = 0 ∧ tState.openChannel 0 = none ∧ tState.me.run.bind Cont.group = none ∧ tState.Reads 3 0) ∧
    (let s := (tWords [1, 0x4002, 5, 0, 9]).modMe (fun t => t.setG 3 (poolAddr 131072))
     s.me.frames = [] ∧ s.me.handleMask = 0 ∧ s.openChannel 0 = none ∧ s.me.run.bind Cont.group = none ∧ s.Reads 3 (poolAddr 131072) ∧
       poolAddr 131072 ≠ 0 ∧ s.PoolSpan 131072 8 ∧ s.PoolSpan (131072 + 8) 8 ∧ s.PoolSpan (131072 + 16) 8 ∧ s.PoolSpan (131072 + 24) 8 ∧
       s.PoolSpan (131072 + 32) 8 ∧ s.NonePosted ∧ s.MemOk ∧ s.PoolSound ∧ 131072 ∉ s.core.marks ∧
       (∀ d, (s.domain d).state ≠ .revoked) ∧ s.core.word 131072 = 1) := by decide +kernel

/-- A frame of a gate call from domain 1. -/
def tFrame : Frame := ⟨0x4004, 1, 3, 0x100000, 64, some 5, resetThread.g, resetThread.v, resetThread.p, resetThread.lc, startSys, 1, false, true⟩

/-- The machine inside a gate call, in domain 2. -/
def tCalled : State := { (tT (fun t => { t with domid := 2, frames := [tFrame] })) with domains := [(1, ⟨0, 0, 0, 0x8000, .live⟩), (2, ⟨0, 0, 0, 0x8000, .live⟩)] }

theorem witness_ContinuationInstructions_spawn :
    (tCalled.me.frames ≠ [] ∧ tCalled.Reads 1 0 ∧ (0 : Word).toNat % 32 = 0 ∧ tCalled.Takes 2) ∧
    (let s := tPair [0x4002, 5, 0, 2]
     s.Reads 1 (poolAddr 131072) ∧ (poolAddr 131072).toNat % 32 = 0 ∧ s.Takes 2 ∧ s.me.frames = [] ∧
       okAnd (s.readWords (fun _ => none) (poolAddr 131072) 4) (fun x => x.1 == [0x4002, 5, 0, 2] && !x.2.core.queueFull && x.2.core.queueRoom &&
         decide (x.2.NonePosted) && x.2.isCompute x.2.act.core && x.2.hashTarget x.2.core.owner 2 == some 1 && !(x.2.getCore 1).queueFull) = true) ∧
    (let s := (tWords [0x4002, 5, 0, 1]).modCore1 (fun k => { k with queue := List.replicate 64 tRecord, ring := List.replicate 4096 tRecord })
     okAnd (s.readWords (fun _ => none) (poolAddr 131072) 4) (fun x => x.2.core.queueFull) = true) ∧
    (let s := tWords [0x4002, 5, 0, 2]
     okAnd (s.readWords (fun _ => none) (poolAddr 131072) 4) (fun x => x.2.isCompute x.2.act.core && x.2.hashTarget x.2.core.owner 2 == some 0 &&
       !x.2.core.queueFull) = true) ∧
    (let s := { tWords [0x4002, 5, 0, 2] with cores := [(0x408, (tWords [0x4002, 5, 0, 2]).core)], act := { tState.act with core := 0x408 } }
     s.Reads 1 (poolAddr 131072) ∧ s.Takes 2 ∧ s.me.frames = [] ∧
       okAnd (s.readWords (fun _ => none) (poolAddr 131072) 4) (fun x => !x.2.isCompute x.2.act.core && !x.2.core.queueFull) = true) ∧
    (let s := (tPair [0x4002, 5, 0, 2]).modCore 1 (fun k => { k with queue := List.replicate 64 tRecord, ring := List.replicate 4096 tRecord })
     okAnd (s.readWords (fun _ => none) (poolAddr 131072) 4) (fun x => (x.2.getCore 1).queueFull) = true) := by decide +kernel

theorem witness_ContinuationInstructions_waits :
    ((tState.eligible 0 0 || tState.core.parked.any (fun p => p.resumable && !p.frozen && decide (0 ≤ p.prio))) = false) ∧
    (let s := { (tState.modCore1 (fun k => { k with queue := [tRecord] })) with launches := [tLaunch] }
     (s.eligible s.act.core ((s.me.run.map Cont.prio).getD 0) ||
       s.core.parked.any (fun p => p.resumable && !p.frozen && decide ((s.me.run.map Cont.prio).getD 0 ≤ p.prio))) = true ∧
     s.core.slotFree = true ∧ (∀ m : Fin 3, s.me.lc[m].active = false) ∧ s.me.wait = none) ∧
    (let p : Parked := ⟨tThread, false, 0, false, false, 0, true⟩
     let s := tState.modCore1 (fun k => { k with parked := List.replicate parkSlots p })
     s.core.slotFree = false ∧ s.me.wait = none) ∧
    tState.core.slotFree = true ∧
    (let s := tT (fun t => { t with wait := some ⟨.parked, .done, 0, 0⟩ })
     s.me.wait = some ⟨.parked, .done, 0, 0⟩) ∧
    (let s := tT (fun t => { t with level := .hyper })
     s.me.level.atLeast .hyper = true ∧ s.me.wait = none ∧ s.me.held = [] ∧ s.core.dbg.request = none) ∧
    (let s := tT (fun t => { t with level := .hyper, wait := some ⟨.wfi, .done, 0, 0⟩ })
     s.me.level.atLeast .hyper = true ∧ s.me.wait = some ⟨.wfi, .done, 0, 0⟩) ∧
    (let s := tT (fun t => { t with level := .hyper, held := [⟨⟨.watchdog, 0, 0⟩, none, false⟩] })
     s.me.level.atLeast .hyper = true ∧ s.me.wait = none ∧ s.me.held ≠ []) ∧
    (tState.me.level.atLeast .hyper = false) := by decide +kernel

/-- A device queue with its last place free and one that is full; the header read from the own pool. -/
theorem witness_LaunchSubmission_launch :
    (tCalled.Reads 1 0 ∧ (0 : Word).toNat % 8 = 0 ∧ tCalled.Takes 2 ∧ tCalled.me.frames ≠ []) ∧
    (let s := tWords tHeader
     s.Reads 1 (poolAddr 131072) ∧ (poolAddr 131072).toNat % 8 = 0 ∧ s.Takes 2 ∧ s.me.frames = [] ∧
       okAnd (s.readWords (fun _ => none) (poolAddr 131072) 16) (fun x => x.1 == tHeader && x.2.launchQueue x.1 == some (0, 0) &&
         decide ((x.2.devq.filter (fun e => e.die = 0 && e.owner = 0)).length < Config.deviceQueueSize) && decide (x.2.NonePosted)) = true ∧
       tHeader.getD 13 0 ≠ 0 ∧ (tHeader.getD 13 0).toNat % 32 = 0) ∧
    (let s := { tWords tHeader with devq := List.replicate 64 ⟨0, 0, tHeader, 0⟩ }
     okAnd (s.readWords (fun _ => none) (poolAddr 131072) 16) (fun x =>
       decide (Config.deviceQueueSize ≤ (x.2.devq.filter (fun e => e.die = 0 && e.owner = 0)).length)) = true) ∧
    (okAnd ((tWords []).readWords (fun _ => none) (poolAddr 131072) 16) (fun x => x.1.getD 13 0 == 0) = true) := by decide +kernel

/-- A host queue of 16 entries with one that waits, whose header lies in its ring, and with more than its ring holds. -/
def tQueue (tail : Word) : HostQueue := ⟨5, 0x2000000200000, 0, 0x408, 16, tail, 0, 0, 0, false⟩

theorem witness_LaunchSubmission_accept :
    (let e : DevEntry := ⟨0, 0, tHeader, 0⟩
     let s := { tState with devq := [e, ⟨0, 1, tHeader, 0⟩] }
     s.devq.find? (fun x => x.die = e.die && x.owner = e.owner) = some e ∧ s.gangStalls e.header = false ∧ s.headerCheck e.owner e.header = none ∧
       s.devq.find? (fun x => x.die = 0 && x.owner = 1) = some ⟨0, 1, tHeader, 0⟩ ∧ s.headerCheck 1 tHeader ≠ none) ∧
    (let s := { tState with hostq := [tQueue 17] }
     s.hostq.find? (fun y => y.number = 5) = some (tQueue 17) ∧ (tQueue 17).stopped = false ∧ (s.ownerRec 0).frozen = none ∧ s.ctlUp = true ∧
       ((tQueue 17).tail - (tQueue 17).head).toNat ≠ 0 ∧ (tQueue 17).entries.toNat < ((tQueue 17).tail - (tQueue 17).head).toNat ∧
       tQueue 17 ∈ s.hostq) ∧
    (let s := { tState with hostq := [tQueue 16], mem := tPut tState.mem 0x2000000200000 tHeader }
     ((tQueue 16).tail - (tQueue 16).head).toNat ≤ (tQueue 16).entries.toNat ∧ s.entryStalls (tQueue 16) = false ∧ s.headerCheck 0 (s.entryHeader (tQueue 16)).1 = none) ∧
    ({ tState with ctlUp := false }.ctlUp = false) := by decide +kernel

theorem witness_RecordsAndSelection :
    (let s := { tState with launches := [tLaunch] }
     s.launchOf tLaunch.serial = some tLaunch ∧ s.released tLaunch = true ∧ tLaunch.nextItem 3 = some 3 ∧ groupFields tLaunch.header = [] ∧
       s.targetOf tLaunch 3 = ((some 0, none), s) ∧ s.supplies 0 = true) ∧
    (let s := { (tState.modCore1 (fun k => { k with queue := [tRecord] })) with launches := [tLaunch] }
     (∀ r ∈ (s.getCore 0).records, r.id = 20 → r.group ≠ none ∨ r.waited < 65536 ∨ s.pbMatch 0 r.launch = true) ∧ tRecord ∈ (s.getCore 0).records ∧
       tRecord.prio < 3 ∧ tRecord.promo + Config.promoteCycles ≤ ({ s with cycle := 1048576 }).cycle ∧ s.cycle < tRecord.promo + Config.promoteCycles ∧
       s.maySelect 0 = true ∧ (s.getThread 0 (.ofNat 2 1)).run = none ∧ s.chooseOwn 0 = (some (.start tRecord), none) ∧ s.pbMatch 0 1 = true ∧
       (s.domain (s.startThread 0 tRecord).domid).state ≠ .revoked) ∧
    (let r := { tRecord with waited := 65536 }
     let s := { (tState.modCore1 (fun k => { k with queue := [r], pb2 := 21 })) with launches := [tLaunch] }
     (s.getCore 0).records.find? (fun r => r.id = 20 && r.group.isNone && 65536 ≤ r.waited && !s.pbMatch 0 r.launch) = some r) ∧
    (let w : WaitRec := ⟨.sem 3, .no, 0, 257⟩
     let s := { ((tT (fun t => { t with wait := some w })).modCore1 (fun k => { k with queue := [tRecord] })) with launches := [tLaunch] }
     (s.getThread 0 (.ofNat 2 0)).wait = some w ∧ w.kind.parks = true ∧ (s.getThread 0 (.ofNat 2 0)).run ≠ none ∧ s.clocked 0 = true ∧
       Config.parkCycles < w.resident ∧ s.eligible 0 0 = true ∧ (s.getCore 0).slotFree = true) := by decide +kernel

/-- A gang launch whose descriptor names modules 0 and 5, this one first. -/
def tGang (phase : GangPhase) (prepared : List Nat) : Launch :=
  { tLaunch with header := (tHeader.set 8 0x1000040000).set 14 0x100000, gang := { noGang with phase := phase, table := [0, 5], prepared := prepared } }

/-- The machine in which it lives. -/
def tGangs (phase : GangPhase) (prepared : List Nat) (ns : Nat) : State := { tState with
  ns := ns
  launches := [tGang phase prepared]
  mem := tPut (tPut tState.mem 0x2000000100000 [9, 2, 0x100100, 0]) 0x2000000100100 [0, 5] }

/-- Before a gang is read, prepared before and at the deadline, and committed before and at it. -/
theorem witness_GangsAndQuiescence_members :
    (let s := tGangs .none [] 0
     s.launches.find? (fun x => x.serial = 1 && x.die = 0 && x.pending) = some (tGang .none []) ∧ (tGang .none []).gang.phase = .none ∧
       s.gangStalls (tGang .none []).header = false ∧
       ((s.readGang (tGang .none [])).map (fun x => (x.1.table, x.1.self))) = some ([0, 5], 0) ∧
       ((tGang .none []).header.getD 8 0).getLsbD 18 = true) ∧
    (let e : DevEntry := ⟨0, 0, (tGang .none []).header, 0⟩
     let s := { tGangs .none [] 0 with devq := [e], launches := [] }
     s.devq.find? (fun x => x.die = e.die && x.owner = e.owner) = some e ∧ s.gangStalls e.header = false ∧ s.headerCheck e.owner e.header = none ∧
       (e.header.getD 8 0).getLsbD 18 = true) ∧
    (let s := { tGangs .none [] 0 with migTable := [⟨0, 0x2000000100000, 0x3000000000000, false, 0, 0, true, []⟩] }
     s.gangStalls (tGang .none []).header = true) ∧
    (let s := { tGangs .none [] 0 with mem := [] }
     (s.readGang (tGang .none [])).isNone = true) ∧
    (let l := tGang (.prepared 0) [0]
     (tGangs (.prepared 0) [0] 0).launchOf 1 = some l ∧ l.gang.phase = .prepared 0 ∧ l.gang.self = 0 ∧ 1 < l.gang.table.length ∧
       (tGangs (.prepared 0) [0] 0).ns < l.gang.sentAt + 2000000 ∧ l.gang.sentAt + 2000000 ≤ (tGangs (.prepared 0) [0] 2000000).ns ∧
       (1 :: l.gang.prepared).eraseDups.length = l.gang.table.length ∧ (0 :: l.gang.prepared).eraseDups.length ≠ l.gang.table.length ∧
       l.gang.prepared.length < l.gang.table.length ∧ (l.header.getD 8 0).getLsbD 18 = true ∧
       (tGangs (.prepared 0) [0] 0).gangRefuses l.gang 1 = false ∧ (tGangs (.prepared 0) [0] 0).gangRefuses l.gang 0 = false ∧
       { tGangs (.prepared 0) [0] 0 with refused := [(5, 0)] }.gangRefuses l.gang 1 = true) ∧
    (let l := { tGang (.prepared 0) [] with gang := { (tGang (.prepared 0) []).gang with self := 1 } }
     let s := { tGangs (.prepared 0) [] 0 with launches := [l], refused := [(0, 0)] }
     s.launchOf 1 = some l ∧ s.gangRefuses l.gang 0 = true) ∧
    (let l := tGang (.committed 0) [0, 1]
     (tGangs (.committed 0) [0, 1] 0).launchOf 1 = some l ∧ l.gang.phase = .committed 0 ∧ 1 ∉ l.gang.lost ∧
       (tGangs (.committed 0) [0, 1] 0).gangRefuses l.gang 1 = false ∧ { tGangs (.committed 0) [0, 1] 0 with refused := [(5, 0)] }.gangRefuses l.gang 1 = true ∧
       (tGangs (.committed 0) [0, 1] 0).ns < 0 + 2000000 ∧ 0 + 2000000 ≤ (tGangs (.committed 0) [0, 1] 2000000).ns ∧ 1 < l.gang.table.length ∧
       1 ∉ l.gang.commits ∧ (tGangs (.committed 0) [0, 1] 0).collects = []) := by decide +kernel

theorem witness_GangsAndQuiescence_sweeps :
    (let s := { (tState.modMe (fun t => { t with run := none })) with launches := [{ tLaunch with created := [3, 2, 1, 0] }] }
     okAnd (s.recordPlace 0 tHeader) (fun _ => true) = true ∧ faults (s.recordPlace 0 (tHeader.set 13 0x1000000000)) = true ∧
     mustWait ({ s with migTable := [⟨0, 0x2000000100000, 0x3000000000000, false, 0, 0, true, []⟩] }.recordPlace 0 tHeader) = true ∧ s.sweep { tLaunch with created := [3, 2, 1, 0] } = some (0, 0)) ∧
    ({ tState with launches := [tLaunch] }.sweep tLaunch = none) := by decide +kernel

/-! ### Routes, streams and messages -/

/-- A route of one hop to port p of the own router, and the words of its descriptor. -/
def tHop (p : Nat) : Word := .ofNat 64 (2 ^ 60 + p)

/-- An entry that holds it. -/
def tEntry (p : Nat) : RouteEntry := ⟨tHop p, 0, 0, 0, true, false, 0⟩

/-- The machine with g1 naming a descriptor with such a route in the own pool, and entry 63 of the cache. -/
def tRoute (route : Word) (e : RouteEntry) : State := (tWords [route, 0, 0, 0]).modCore1 (fun k => k.setRoute 63 e)

theorem witness_RouteInstructions_cache :
    (∀ e ∈ [tEntry 0, resetRoute], (tRoute 0 e).poolBarred = false ∧ (tRoute 0 e).Reads 1 (poolAddr 131072) ∧ (tRoute 0 e).Takes 2 ∧
      (tRoute 0 e).Reads 0 0 ∧ (tR [(3, 63)]).Reads 3 63 ∧ (63 : Word).toNat < 64 ∧ ((tRoute 0 e).core.route 63) = e) ∧
    ((tEntry 0).valid = true ∧ resetRoute.valid = false ∧ resetRoute.stale = false) ∧
    (okAnd ((tRoute (tHop 0) resetRoute).readWords (fun _ => none) (poolAddr 131072) 4) (fun x =>
      (x.1.getD 3 0).getLsbD 63 == false &&
        (x.2.checkRoute x.2.core.owner x.2.act.core none (x.1.getD 0 0) (x.1.getD 1 0) (x.1.getD 2 0) (x.1.getD 3 0)).toOption.isSome) = true) ∧
    (okAnd ((tRoute 0 resetRoute).readWords (fun _ => none) (poolAddr 131072) 4) (fun x =>
      (x.1.getD 3 0).getLsbD 63 == false &&
        (x.2.checkRoute x.2.core.owner x.2.act.core none (x.1.getD 0 0) (x.1.getD 1 0) (x.1.getD 2 0) (x.1.getD 3 0)).toOption.isNone) = true) := by
  decide +kernel

/-- The start of region S of core 4, which is in cluster 1 of the same router, and 4,096 words from there on. -/
def tFar : Word := 0xFFFD004000020000

theorem witness_RouteInstructions_open :
    let s := { ((tR [(1, 0xFFF003F), (2, tFar)]).setCore 4 { resetCore with valid := true }).modCore1 (fun k => k.setRoute 63 (tEntry 1)) with
      scheds := [(.link 0 0 1, ⟨false, 0⟩ :: List.replicate 63 ⟨true, 0⟩)] }
    let c : Word := 0xFFF003F
    s.poolBarred = false ∧ s.streamAt s.act.core 0 = none ∧ s.Reads 1 c ∧ s.Reads 2 tFar ∧ c.extractLsb' 28 36 = 0 ∧ c.extractLsb' 6 10 = 0 ∧
      (s.core.route (c.extractLsb' 0 6)).valid = true ∧ (c.extractLsb' 16 12).toNat + 1 = 4096 ∧
      okAnd (s.recheck s.act.core (c.extractLsb' 0 6)) (fun s1 => okAnd (s1.check ({ write := true, size := 8 * 4096, align := 8, deny := remoteOnly, regions := some [1], noRoute := true } : Acc) tFar) (fun x => decide (x.1 = .pool 4 131072) &&
          (x.2.checkRoute x.2.core.owner x.2.act.core (some (4 / 4 % 4)) (tHop 1) 0 0 (endAt 0 4)).toOption.isSome &&
          x.2.core.route 63 == tEntry 1)) = true := by
  decide +kernel

/-- The hop over the first link direction of the executing core's router, as the first of a route. -/
def tLink : PathHop := ⟨.router 0 0 4, 0, 0, 0⟩

/-- A stream of the executing thread to the start of region S of core 1, over that link direction, which it may hold. -/
def tStream (credits : Nat) (broken : Option (BitVec 28)) (words : List Word) (held : Nat) : Stream :=
  ⟨7, 0, 0, 7, 1, 0, 0, [tLink], 1, 131072, 2, 0, 3, words, credits, broken, held, false, false, none⟩

/-- A schedule that gives owner 0 its first slot on the link of the stream. -/
def tSlots : List (Resource × List Slot) := [(.link 0 0 4, ⟨false, 0⟩ :: List.replicate 63 ⟨true, 0⟩)]

/-- The machine with the stream under channel 3, the other core, and p0 at the start of region S. -/
def tStreams (x : Stream) : State := { (tT (fun t => t.wrP 0 131072)) with streams := [x], scheds := tSlots }.modCore1 (fun k => k.setChan 3 (some 7))
  |>.setCore 1 { resetCore with valid := true }

theorem witness_RouteInstructions_send :
    (∀ x ∈ [tStream 0 none [] 1, tStream 1 none [] 1, tStream 8 none [] 1, tStream 1 (some 6) [] 1],
      (tStreams x).streamAt (tStreams x).act.core 3 = some x ∧ x.cont = (tStreams x).cont ∧ (tStreams x).NonePosted ∧ (tStreams x).poolBarred = false ∧
        (tStreams x).Stores 2 0 ∧ (tStreams x).Takes 2 ∧
        (tStreams x).poolSpan ((tStreams x).me.rdP 0) (ptrOffset ((tStreams x).me.rdP 0)) 64 8 anyWindow [1, 3] false = .ok ()) ∧
    (let s := (tStreams (tStream 8 none [] 1)).modMe (fun t => t.wrP 0 0x8000000001)
     s.streamAt s.act.core 3 = some (tStream 8 none [] 1) ∧ (tStream 8 none [] 1).cont = s.cont ∧ s.poolBarred = false ∧ (s.me.rdP 0).getLsbD 39 = true) ∧
    (tState.streamAt tState.act.core 0 = none) := by decide +kernel

/-- A message of the executing thread to a core; one of the same router, or one of another. -/
def tMsg (dst : Nat) : Msg := ⟨8, 0, 7, 1, 0, 0, 1, dst, 131072, .store [(0, 5)], [tLink], (0xFFFD001000020000, 2), none, []⟩

def tMsgs (dst : Nat) : State := { tState with msgs := [tMsg dst] }

/-- A machine with the first link direction of its router down. -/
def tCut (s : State) : State := { s with links := [((0, 0, 4), .down, 4)] }

theorem witness_NetworkSteps_streams :
    (∀ n ∈ [3, 4], (let x := tStream 1 none [] 0
      let s := { tState with streams := x :: List.replicate n { x with id := 9, held := 1 }, scheds := tSlots }
      s.streams.find? (fun y => y.id = x.id) = some x ∧ x.links[x.held]? = some tLink ∧ (∃ die key p, tLink.port = .router die key p) ∧ x.broken = none ∧
        s.linkBad x x.held = none ∧ ((tCut s).linkBad x x.held).isSome = true ∧ s.routesHeld x.owner tLink.port = n)) ∧
    (let x := { tStream 1 none [] 0 with links := [⟨.switch 70, 1, 0, 0⟩] }
     let s := { tState with streams := [x], switches := [(70, ⟨.up, true, 1, 0, 0, 0⟩)] }
     x.links[x.held]? = some ⟨.switch 70, 1, 0, 0⟩ ∧ (∀ die key p, PortId.switch 70 ≠ .router die key p) ∧ s.linkBad x x.held = none) ∧
    (let x := tStream 1 none [5, 6] 1
     let s := tStreams x
     let k := s.getCore x.dstCore
     s.streams.find? (fun y => y.id = x.id) = some x ∧ x.words = 5 :: [6] ∧ x.links.length ≤ x.held ∧ k.dbg.halted = false ∧ k.valid = true ∧
       k.owner = x.owner ∧ k.scrub = none ∧ s.portOf x.dstCore = [] ∧ x.waiting = false ∧ s.streamBad x = none ∧ ((tCut s).streamBad x).isSome = true ∧ x.dstOff + 8 * (x.arrived % x.n) = 131080 ∧ 131080 ∉ k.full ∧ 131080 ∉ k.marks ∧ k.deferred = [] ∧ s.MemOk ∧
       131080 ∈ ((s.modCore 1 (fun k => { k with full := [131080] })).getCore 1).full) ∧
    ((tStream 1 none [] 1).words = [] ∧ (tStream 1 none [] 1).links.length ≤ (tStream 1 none [] 1).held ∧ (tStream 1 none [5] 0).words ≠ [] ∧ (tStream 1 (some 6) [] 0).broken ≠ none) := by
  refine ⟨?_, ⟨by decide +kernel, (fun _ _ _ h => nomatch h), by decide +kernel⟩, ?_, ?_⟩
  · intro n hn
    simp only [List.mem_cons, List.not_mem_nil, or_false] at hn
    rcases hn with rfl | rfl <;> exact ⟨by decide +kernel, by decide +kernel, ⟨0, 0, 4, rfl⟩, by decide +kernel, by decide +kernel, by decide +kernel, by decide +kernel⟩
  all_goals decide +kernel

theorem witness_NetworkSteps_messages :
    (∀ v ∈ [true, false], let s := (tMsgs 1).setCore 1 { resetCore with valid := v }
     s.msgs.find? (fun y => y.id = (tMsg 1).id) = some (tMsg 1) ∧ (tMsg 1).refused = none ∧
       s.msgs.find? (fun y => y.refused.isNone && y.src = (tMsg 1).src && y.dst = (tMsg 1).dst) = some (tMsg 1) ∧ s.portOf 1 = [] ∧
       s.pathBad (tMsg 1).owner (tMsg 1).path = none ∧ ((tCut s).pathBad (tMsg 1).owner (tMsg 1).path).isSome = true ∧ (∀ w ∈ (tMsg 1).words, w ∉ (s.getCore 1).marks) ∧
       (s.getCore (tMsg 1).dst).dbg.halted = false ∧ (tMsg 1).op = .store [(0, 5)] ∧
       (s.getCore 1).valid = v ∧ (s.getCore 1).owner = (tMsg 1).owner ∧ (s.getCore 1).scrub = none) ∧
    (let m := { tMsg 1 with op := .reduce .add .n64 5 }
     let s := { tState with msgs := [m] }.setCore 1 { resetCore with valid := true }
     m.op = .reduce .add .n64 5 ∧ (∀ w ∈ (s.getCore 1).worn, meets (m.off / 8 * 8) 8 w 8 = false) ∧ (s.getCore 1).valid = true ∧
       (∃ w ∈ ((s.modCore 1 (fun k => { k with worn := [131072] })).getCore 1).worn, meets (m.off / 8 * 8) 8 w 8 = true) ∧
       m.words.find? (fun w => ((s.modCore 1 (fun k => { k with marks := [131072] })).getCore 1).marks.contains w) = some 131072) ∧
    (({ tMsg 16 with refused := some (flt .integrity 2) }).refused = some (flt .integrity 2)) := by decide +kernel

theorem witness_NetworkSteps_changes :
    (let s := tMsgs 16
     s.msgs.find? (fun y => y.id = (tMsg 16).id && y.refused.isNone) = some (tMsg 16) ∧ (tMsg 16).path[(0 : BitVec 4).toNat]? = some tLink ∧ (6 : BitVec 8) ≠ 0 ∧
       (s.getCore (tMsg 16).src).runner (tMsg 16).cont = some 0 ∧ (s.getThread (tMsg 16).src 0).domAt (tMsg 16).depth = some (tMsg 16).dom) ∧
    (let s := { tState.modCore1 (fun k => k.setRoute 63 { tEntry 4 with desc := 1 }) with
        fports := [(17, ⟨.up, true, 1, 0, 0, 0⟩)], switches := [(70, ⟨.up, true, 1, 0, 0, 0⟩)] }
     (s.hasItem (mapItem 3 31 14) = true ∧ s.hasItem (mapItem 0 0 4) = true ∧ s.hasItem (mapItem 4 17 0) = true ∧ s.hasItem (mapItem 5 1 6) = true) ∧
       0 ∈ s.coreNums ∧ ((s.getCore 0).route 63).valid = true ∧
       (∃ h ∈ s.entryPath 0 ((s.getCore 0).route 63), mapItem 0 0 4 ∈ h.items) ∧ s.itemState (mapItem 5 1 6) = .up) ∧
    ((∃ h ∈ (tStream 1 none [] 1).links, mapItem 0 0 4 ∈ h.items) ∧ tState.itemState (mapItem 0 0 5) = .up ∧ tState.itemState (mapItem 0 0 15) ≠ .up ∧ [tStream 1 none [] 1].Pairwise (fun x y => x.id ≠ y.id)) := by decide +kernel

/-! ### Handles -/

theorem pickFree_mem {α : Type} {n : Nat} {l : List α} (h : l ≠ []) : ∃ x ∈ l, pickFree n l = some x :=
  have hn : n % l.length < l.length := Nat.mod_lt _ (List.length_pos_iff.2 h)
  ⟨l[n % l.length], List.getElem_mem hn, List.getElem?_eq_getElem hn⟩

/-- An entry is taken as long as a free one is left, and what is taken was free. -/
theorem takeEntry_ok {s : State} {die m : Nat} {other : Option Nat} (hm : m < 65536) (ho : some m ≠ other)
    (hf : s.entry die (.ofNat 16 m) = freeEntry) :
    ∃ n, s.takeEntry die other = .ok (n, s.spent) ∧ (s.entry die n).state = .free := by
  have mem : ∀ x, x ∈ (s.freeEntries die).filter (fun n => some n ≠ other) ↔
      (x < 65536 ∧ (s.entry die (.ofNat 16 x)).state = .free ∧ (s.entry die (.ofNat 16 x)).pending = []) ∧ some x ≠ other := by
    intro x
    simp only [State.freeEntries, List.mem_filter, List.mem_range, decide_eq_true_eq]
  obtain ⟨x, hx, h⟩ := pickFree_mem (n := s.free) (List.ne_nil_of_mem ((mem m).2 ⟨⟨hm, by rw [hf]; exact ⟨rfl, rfl⟩⟩, ho⟩))
  refine ⟨.ofNat 16 x, ?_, ?_⟩
  · unfold State.takeEntry
    simp only [h]
  · exact ((mem x).1 hx).1.2.1

/-- The machine whose memory is a page for tiles, with a tile descriptor in the own pool, and three entries of die 0: a root in
state held, 5; another with two children, 6, 7 and 8. -/
def tTiles (pending : List Nat) : State := { (tWords [0x100000, 0x0001000100010002, 0, 0]).modMe (fun t => (((t.setG 2 0x0005010000000000 .handle).setG 3 0x0007010000000000
      .handle).setG 4 0x0008010000000000 .handle).setG 5 1 |>.wrP 0 262144) with
  mem := memWrite (memWrite [] 0x2000000010000 8 0x2000000020001) 0x2000000020000 8 0x1F02000000000003
  cxlUp := true
  trellis := [(5, ⟨0x200000, 0, 0x0001000100010002, 5, 5, 1, 1, 0, 0, 0, .held, pending, none⟩),
    (6, ⟨0x200000, 0, 0x0001000100010002, 6, 6, 1, 1, 0, 0, 0, .split, [], none⟩),
    (7, ⟨0x200000, 0, 0x0001000100010001, 6, 8, 1, 1, 0, 0, 0, .held, pending, none⟩),
    (8, ⟨0x200000, 1, 0x0001000100010001, 6, 7, 1, 1, 0, 0, 0, .held, [], none⟩)] }

theorem witness_HandleInstructions_halloc : ∃ (w : List Word) (x : List (Nat × Nat)) (n : BitVec 16) (s1 s2 s3 : State),
    (tTiles []).isCompute (tTiles []).act.core = true ∧ (tTiles []).Takes 6 ∧ (tTiles []).Reads 1 (poolAddr 131072) ∧
      (poolAddr 131072).toNat % 8 = 0 ∧ (tTiles []).readWords (fun _ => none) (poolAddr 131072) 4 = .ok (w, s1) ∧ tileOk w = true ∧
      s1.globalSpan { write := true, size := 1, align := 1, ex := true } (w.getD 0 0) 2 = .ok (x, s2) ∧
      s2.overlaps (w.getD 0 0) 2 = false ∧ s2.takeEntry s2.die none = .ok (n, s3) := by
  obtain ⟨⟨w, s1⟩, h1, h2⟩ := okAnd_elim (x := (tTiles []).readWords (fun _ => none) (poolAddr 131072) 4) (p := fun y => y.1 == [0x100000, 0x0001000100010002, 0, 0] &&
    okAnd (y.2.globalSpan { write := true, size := 1, align := 1, ex := true } 0x100000 2) (fun z => !z.2.overlaps 0x100000 2 &&
      decide (z.2.entry z.2.die 9 = freeEntry))) (by decide +kernel)
  simp only [Bool.and_eq_true, beq_iff_eq] at h2
  obtain ⟨rfl, h2⟩ := h2
  obtain ⟨⟨x, s2⟩, h3, h4⟩ := okAnd_elim h2
  simp only [Bool.and_eq_true, Bool.not_eq_true', decide_eq_true_eq] at h4
  obtain ⟨n, hn, -⟩ := takeEntry_ok (s := s2) (die := s2.die) (m := 9) (other := none) (by decide) (by decide) h4.2
  exact ⟨_, x, n, s1, s2, _, by decide +kernel, by decide +kernel, by decide +kernel, by decide +kernel, h1, by decide +kernel, h3, h4.1, hn⟩

theorem witness_HandleInstructions_held :
    (∀ n ∈ [[], [9]], okAnd ((tTiles n).heldHandle 2) (fun x => x.1 == 5 && x.2.parent == 5 && x.2.pending == n) = true ∧
      okAnd ((tTiles n).heldHandle 3) (fun x => x.1 == 7 && x.2.parent == 6 && x.2.pending == n && x.2.sibling == 8) = true ∧
      okAnd ((tTiles n).heldHandle 4) (fun x => x.1 == 8 && x.2.parent == 6 && x.2.pending == [] && x.2.sibling == 7) = true) ∧
    ((tTiles []).entry (tTiles []).die 8).state ≠ .lost ∧ (tTiles []).Takes 6 ∧ (6 : R) ≠ 2 ∧ (7 : BitVec 16) ≠ 8 ∧ (7 : BitVec 16) ≠ 6 ∧ (8 : BitVec 16) ≠ 6 := by
  decide +kernel

theorem witness_HandleInstructions_hsplit : ∃ (l u : BitVec 16) (e : TEntry) (s1 s2 : State),
    (tTiles []).heldHandle 2 = .ok (5, e) ∧ (tTiles []).Reads 5 1 ∧ (tTiles []).Takes 6 ∧ (tTiles []).Takes 7 ∧ (1 : Word).extractLsb' 18 46 = 0 ∧
      ((1 : Word).extractLsb' 16 2).toNat ≤ e.rank.toNat ∧ 0 < ((1 : Word).extractLsb' 0 16).toNat ∧
      ((1 : Word).extractLsb' 0 16).toNat < axisOf e.ext ((1 : Word).extractLsb' 16 2).toNat ∧
      (tTiles []).takeEntry (tTiles []).die none = .ok (l, s1) ∧ s1.takeEntry (tTiles []).die (some l.toNat) = .ok (u, s2) ∧ 5 ≠ l ∧ 5 ≠ u := by
  obtain ⟨⟨n, e⟩, h1, h2⟩ := okAnd_elim (x := (tTiles []).heldHandle 2) (p := fun x => x.1 == 5 && x.2.rank == 0 && axisOf x.2.ext 0 == 2) (by decide +kernel)
  simp only [Bool.and_eq_true, beq_iff_eq] at h2
  obtain ⟨⟨rfl, hr⟩, he⟩ := h2
  have hs : ∀ n : BitVec 16, ((tTiles []).entry (tTiles []).die n).state = .free → 5 ≠ n := by
    rintro n h rfl
    revert h
    decide +kernel
  obtain ⟨l, hl, hlf⟩ := takeEntry_ok (s := tTiles []) (die := (tTiles []).die) (m := 9) (other := none) (by decide) (by decide) (by decide +kernel)
  obtain ⟨m, hm, hlm, hf⟩ : ∃ m, m < 65536 ∧ some m ≠ some l.toNat ∧ (tTiles []).entry (tTiles []).die (.ofNat 16 m) = freeEntry := by
    by_cases h : l.toNat = 9
    · exact ⟨10, by decide, fun h' => absurd ((Option.some.inj h').trans h) (by decide), by decide +kernel⟩
    · exact ⟨9, by decide, fun h' => h (Option.some.inj h').symm, by decide +kernel⟩
  obtain ⟨u, hu, huf⟩ := takeEntry_ok (s := (tTiles []).spent) (die := (tTiles []).die) hm hlm hf
  refine ⟨l, u, e, _, _, h1, by decide +kernel, by decide +kernel, by decide +kernel, by decide +kernel, ?_, by decide +kernel, ?_, hl, hu, hs l hlf, hs u huf⟩
  · rw [hr]; decide
  · show 1 < axisOf e.ext 0
    omega

theorem witness_HandleInstructions_hcpy :
    ((tTiles []).engReady .copy = .ok () ∧ okAnd ((tTiles []).hcpyChecks 2 0 true) (fun _ => true) = true) ∧
    (okAnd ((tTiles [9]).hcpyChecks 2 0 false) (fun x => x.1.2.1.pending != []) = true) ∧
    (okAnd ((tTiles []).hcpyChecks 2 0 false) (fun x =>
      let o := x.1.2.2.2
      let r := x.1.2.2.1
      x.1.2.1.pending == [] && (spanWords o r.bytes).all (fun w => !x.2.2.core.marks.contains w) && decide (x.2.2.EngineClear) &&
        decide (x.2.2.PoolSound) && decide (x.2.2.core.deferred = [])) = true) := by decide +kernel

/-- Where the checks of that HCPY.IN pass, every resource grants the owner a slot. -/
theorem witness_HandleInstructions_served : ∃ x, (tTiles []).hcpyChecks 2 0 false = .ok x ∧ x.2.2.Served x.2.2.core.owner := by
  have h : okAnd ((tTiles []).hcpyChecks 2 0 false) (fun x => decide (x.2.2.scheds = []) && decide (x.2.2.schedNew = []) &&
    decide ((x.2.2.ownerRec x.2.2.core.owner).mode ≠ .strict)) = true := by decide +kernel
  revert h
  cases (tTiles []).hcpyChecks 2 0 false with
  | error e => intro h; exact absurd h (by simp [okAnd])
  | ok x =>
    intro h
    simp only [okAnd, Bool.and_eq_true, decide_eq_true_eq] at h
    exact ⟨x, rfl, State.served_of_shared h.1.1 h.1.2 h.2⟩

/-- A marked word at the start of region S that holds the handle of entry 5, and g1 naming it. -/
def tMarked (full marks : List Nat) (e : HState) : State := (tTiles []).modCore1 (fun k => { k with full := full, marks := marks, pool := memWrite k.pool 131072 8 0x0005010000000000 })
  |>.modEntry 0 5 (fun x => { x with state := e, word := some (0, 131072) })

theorem witness_HandleInstructions_puth :
    WordAt (tMarked [] [] .held) 1 131072 ∧ (tMarked [] [] .held).isCompute (tMarked [] [] .held).act.core = true ∧
      okAnd ((tMarked [] [] .held).heldHandle 2) (fun x => x.1 == 5) = true ∧ (tMarked [] [] .held).Reads 2 0x0005010000000000 ∧
      (tMarked [] [] .held).core.marks.length < 64 ∧ 131072 ∉ (tMarked [] [] .held).core.full ∧ (tMarked [] [] .held).Takes 6 ∧
      (tMarked [] [] .held).msgs = [] := by decide +kernel

theorem witness_HandleInstructions_takeh :
    (WordAt (tMarked [131072] [131072] .inWord) 1 131072 ∧ 131072 ∈ (tMarked [131072] [131072] .inWord).core.full ∧
      131072 ∈ (tMarked [131072] [131072] .inWord).core.marks ∧ ((tMarked [131072] [131072] .inWord).entry 0 5).domain = (tMarked [] [] .inWord).me.domid ∧
      ((tMarked [131072] [131072] .inWord).core.word 131072).extractLsb' 48 16 = 5 ∧ (tMarked [131072] [131072] .inWord).die = 0) ∧
    (WordAt (tMarked [131072] [] .inWord) 1 131072 ∧ 131072 ∈ (tMarked [131072] [] .inWord).core.full ∧
      131072 ∉ (tMarked [131072] [] .inWord).core.marks ∧ 131072 ∉ (tMarked [] [] .inWord).core.full) := by decide +kernel

/-! ### Gates and unwinding -/

/-- A gate into domain 1 at 0x8000 with two arguments, open to domain 1. -/
def tGate (st : GateState) : Gate := ⟨0x8002, 0, 5, 1, 2, 64, 2, st⟩

/-- The machine with that gate under the last index, and the words of a request for one in the own pool. -/
def tGates (st : GateState) (request : Word) : State := { tWords [0x8002, 0, request, 64, 2, 0, 0, 0] with gates := [(4095, tGate st)] }

theorem witness_GateInstructions_gcall :
    (∀ st ∈ [GateState.opened, .closed, .revoked], (tGates st 0).me.level = .user ∧ (tGates st 0).me.frames.length < 8 ∧
      (tGates st 0).gate 4095 = tGate st ∧ (tGate st).callers.getLsbD (tGates st 0).me.domid.toNat = true ∧ (tGates st 0).Takes 1) ∧
    ((tState.gate 0).state = .free ∧ tState.Reads 1 0 ∧ tState.Reads 2 0 ∧ (0 : Word).toNat ≤ (tGate .opened).wmax.toNat ∧
      ((tR [(2, 64)]).Reads 2 64 ∧ (64 : Word).toNat ≤ (tGate .opened).wmax.toNat ∧ classOf 0x100000 = .global) ∧
      (∀ n : R, 16 ≤ n.toNat ∧ n.toNat < 16 + (tGate .opened).nargs.toNat → tState.me.tagOf n ≠ .handle ∧ tState.me.tagOf n ≠ .movedFrom)) ∧
    ((tT (fun t => { t with level := .guest })).me.level ≠ .user) ∧
    ((tT (fun t => { t with frames := List.replicate 8 tFrame })).me.level = .user ∧
      (tT (fun t => { t with frames := List.replicate 8 tFrame })).me.frames.length = 8) := by decide +kernel

theorem witness_GateInstructions_gret :
    (tState.me.level = .user ∧ tState.me.frames = []) ∧
    (∀ f ∈ [tFrame, { tFrame with intact := false }], (let s := tCalled.modMe (fun t => { t with frames := [f] })
     s.me.level = .user ∧ s.me.frames = f :: [] ∧ s.me.handleMask = 0 ∧ s.openChannel s.me.frames.length = none)) ∧
    (tFrame.intact = true ∧ ∀ d, (tCalled.domain d).state ≠ .revoked) ∧
    (tCalled.modMe (fun t => t.setG 24 0 .handle)).me.handleMask ≠ 0 := by decide +kernel

/-- At level guest. -/
def tGuest (s : State) : State := s.modMe (fun t => { t with level := .guest })

/-- A request for a gate into domain 1, which the core's owner has; one into domain 3, which has none; one with a bit that has to be
0; and a table with no free entry. -/
theorem witness_GateInstructions_gopen :
    ((tGuest (tGates .opened 0x10200)).me.level ≠ .user ∧ (tGuest (tGates .opened 0x10200)).Reads 1 (poolAddr 131072) ∧ (tGuest (tGates .opened 0x10200)).Takes 2) ∧
    ((tGuest (tGates .opened 0x30200)).me.level ≠ .user ∧ (tGuest (tGates .opened 0x30200)).Reads 1 (poolAddr 131072) ∧ (tGuest (tGates .opened 0x30200)).Takes 2) ∧
    ((tGuest (tGates .opened 1)).me.level ≠ .user ∧ (tGuest (tGates .opened 1)).Reads 1 (poolAddr 131072) ∧ (tGuest (tGates .opened 1)).Takes 2) ∧
    ((poolAddr 131072).toNat % 64 = 0) ∧
    (okAnd ((tGuest (tGates .opened 0x10200)).readWords (fun _ => none) (poolAddr 131072) 8) (fun x => requestOk x.1 &&
      decide ((x.2.domain (gateOf x.1).domain).state = .live) && (x.2.domain (gateOf x.1).domain).owner == x.2.core.owner &&
      decide ((x.2.gate 0).state = .free)) = true) ∧
    (okAnd ((tGuest (tGates .opened 0x30200)).readWords (fun _ => none) (poolAddr 131072) 8) (fun x => requestOk x.1 &&
      decide ((x.2.domain (gateOf x.1).domain).state ≠ .live)) = true) ∧
    (okAnd ((tGuest (tGates .opened 1)).readWords (fun _ => none) (poolAddr 131072) 8) (fun x => !requestOk x.1) = true) := by decide +kernel

theorem getKey_map {α : Type} (d v : α) (n : Nat) : ∀ l : List Nat, n ∈ l → getKey n d (l.map (fun k => (k, v))) = v
  | k :: l, h => by
    simp only [List.map_cons, getKey]
    split
    · rfl
    · exact getKey_map d v n l ((List.mem_cons.1 h).resolve_left ‹_›)

theorem mem_freeGates {s : State} {n : Nat} : n ∈ s.freeGates ↔ n < 4096 ∧ (s.gate (.ofNat 12 n)).state = .free := by
  simp only [State.freeGates, List.mem_filter, List.mem_range, decide_eq_true_eq]

theorem freeGates_full {s : State} {g : Gate} {l : List Nat} (hg : s.gates = l.map (fun n => (n, g))) (hl : ∀ n < 4096, n ∈ l)
    (hs : g.state ≠ .free) : s.freeGates = [] := by
  refine List.eq_nil_iff_forall_not_mem.2 (fun n hn => hs ?_)
  obtain ⟨h, hn⟩ := mem_freeGates.1 hn
  rwa [State.gate, hg, BitVec.toNat_ofNat, Nat.mod_eq_of_lt h, getKey_map _ _ _ _ (hl n h)] at hn

theorem range_all (m : Nat) : ∃ l : List Nat, ∀ n < m, n ∈ l := ⟨List.range m, fun _ h => List.mem_range.2 h⟩

/-- A table with all its entries in use, and one with none. -/
theorem witness_GateInstructions_full : (∃ l : List Nat, ({ tState with gates := l.map (fun n => (n, tGate .opened)) }).freeGates = []) ∧ tState.freeGates ≠ [] :=
  ⟨(range_all 4096).imp (fun _ hl => freeGates_full rfl hl (fun h => nomatch h)),
   List.ne_nil_of_mem (a := 0) (mem_freeGates.2 ⟨by decide, by decide +kernel⟩)⟩

theorem witness_GateInstructions_others :
    (∀ st ∈ [GateState.opened, .closed], (let s := (tGuest (tGates st 0)).modMe (fun t => t.setG 3 4095)
     s.me.level ≠ .user ∧ s.Reads 3 4095 ∧ (4095 : Word).toNat < 4096 ∧ (s.gate 4095).state = st ∧ (s.domain (s.gate 4095).domain).owner = s.core.owner)) ∧
    ((tR [(3, 4096)]).Reads 3 4096 ∧ 4096 ≤ (4096 : Word).toNat ∧ (tState.gate 0).state = .free) ∧
    ((tGate .opened).state = .opened ∧ (tGate .opened).callers.getLsbD 1 = true ∧ (tGate .closed).state ≠ .opened) ∧
    (tState.Takes 2 ∧ tState.me.frames = [] ∧ tCalled.Takes 2 ∧ tCalled.me.frames = tFrame :: []) := by decide +kernel

/-- An unwind that is due, to a depth. -/
def tUnwind (down : Nat) (kill : Bool) (h : Option Nat) : Unwind := ⟨down, .killed, 2, kill, h, some 0, true⟩

/-- The machine inside a call of a gate whose unwind handler is at an address, with an unwind. -/
def tUnwinds (unwind : Word) (frames : List Frame) (u : Unwind) : State := { (tT (fun t => { t with frames := frames, unwind := some u })) with
  gates := [(3, { tGate .opened with unwind := unwind })] }

theorem witness_Unwinding_gdone :
    (let s := tGuest (tUnwinds 0x9000 [tFrame] (tUnwind 0 false (some 5)))
     s.me.level ≠ .user ∧ s.me.inHandler = true) ∧
    (let s := (tGuest tCalled).modMe (fun t => { t with sys := { t.sys with tcause := causeWord .watchdog true .user } })
     s.me.level ≠ .user ∧ s.me.inHandler = false ∧ s.me.active = true ∧ s.me.frames ≠ [] ∧ s.me.unwind = none) ∧
    ((tGuest tState).me.active = false ∧ (tGuest tState).me.frames = []) := by decide +kernel

theorem witness_Unwinding_steps : ∀ x ∈ [((0 : Word), [tFrame], tUnwind 0 false none), (0x9000, [tFrame], tUnwind 0 false none), (0, [], tUnwind 0 true none)],
    let s := tUnwinds x.1 x.2.1 x.2.2
    let t := s.getThread 0 (.ofNat 2 0)
    t.unwind = some x.2.2 ∧ t.frames = x.2.1 ∧ t.run ≠ none ∧ x.2.2.handler = none ∧ x.2.2.due = true ∧ (s.getCore 0).dbg.halted = false ∧ (s.getCore 0).dbg.request = none ∧ s.clocked 0 = true ∧ t.wait = none ∧
      tFrame.intact = true ∧ t.handleMask = 0 ∧ s.streams = [] ∧ t.held = [] ∧ (∀ e ∈ s.domains, e.2.state ≠ .revoked) ∧ t.run.bind Cont.group = none ∧
      (s.gate tFrame.gate).unwind = x.1 ∧ tFrame.gaveUp = false ∧ (s.domain t.domid).state = .live ∧
      ((x.2.2.kill = false ∧ x.2.2.down + 1 = x.2.1.length) ∨ (x.2.2.kill = true ∧ x.2.2.down = 0 ∧ x.2.1 = [])) := by decide +kernel

/-- A handler without budget; an unwind at a thread that has not reached a safe point, before its notice has run out and after; the
budget of a call at zero. -/
theorem witness_Unwinding_times :
    ((tUnwinds 0x9000 [tFrame] (tUnwind 0 false (some 0))).getThread 0 (.ofNat 2 0)).unwind = some (tUnwind 0 false (some 0)) ∧
    (let u := { tUnwind 0 false none with due := false }
     let s := { tUnwinds 0x9000 [tFrame] u with cycle := 1024 }
     (s.getThread 0 (.ofNat 2 0)).unwind = some u ∧ u.due = false ∧ u.handler = none ∧ (s.getThread 0 (.ofNat 2 0)).run ≠ none ∧
       u.notice = some 0 ∧ 0 + Config.forcedSaveCycles ≤ s.cycle ∧ (tUnwinds 0x9000 [tFrame] u).cycle < 0 + Config.forcedSaveCycles) ∧
    (let f := { tFrame with left := some 0 }
     let t := (tT (fun t => { t with frames := [f] })).getThread 0 (.ofNat 2 0)
     0 < 1 ∧ 1 ≤ t.frames.length ∧ t.frames[t.frames.length - 1]? = some f ∧ f.left = some 0 ∧ t.run ≠ none ∧ t.unwind = none) := by decide +kernel

/-! ### Domains, boundaries and the Lodge -/

theorem witness_DomainSteps :
    ((tState.domain 2).state ≠ .live ∧ (tState.domain 1).state = .live ∧ (tState.domain 2).state = .free ∧
      (0 ∈ tState.coreNums ∧ (tState.getThread 0 0).names 1 = true)) ∧
    ((tGates .closed 0).gate 4095 = tGate .closed ∧ (tGate .closed).domain = 1 ∧ (tGates .closed 0).gateNamed 4095 = false ∧
      (tGate .opened).state = .opened ∧ tCalled.gateNamed 3 = true) ∧
    (tState.cores.find? (fun e => (e.2.runner 7).isSome) = some (0, tCore) ∧ tState.getCore 0 = tCore ∧ tCore.runner 7 = some 0 ∧
      (tCore.thread 0).unwind = none) ∧
    ((∃ e ∈ (tCmds { tCmd 0 true false with xlat := [(16, 0x2000000100000)] }).cores, ∃ x ∈ e.2.cmds, x.dom = 1 ∧ (x.xlat ≠ [] ∨ x.op.stack ≠ none)) ∧
      ¬(∃ e ∈ tState.cores, ∃ x ∈ e.2.cmds, x.dom = 1 ∧ (x.xlat ≠ [] ∨ x.op.stack ≠ none)) ∧ ∀ d, (tState.domain d).state ≠ .revoked) := by decide +kernel

/-- A revoked domain that nothing names, and one whose thread still runs. -/
theorem witness_DomainSteps_revoked :
    ({ tState with domains := [(1, ⟨0, 0, 0, 0, .live⟩), (2, ⟨0, 0, 0, 0, .revoked⟩)] }.goneDomain 2 = true) ∧
    (let s := { tState with domains := [(1, ⟨0, 0, 0, 0, .revoked⟩)] }
     (s.domain 1).state = .revoked ∧ s.domainNamed 1 = true) := by decide +kernel

def tHeld : Held := ⟨⟨.watchdog, 0, 0⟩, none, false⟩

theorem witness_BoundariesAndPreemption_traps :
    (let s := tT (fun t => { t with held := [tHeld] })
     let t := s.getThread 0 (.ofNat 2 0)
     s.takesHeld 0 t = true ∧ t.nextHeld = some tHeld ∧ (s.domain t.domid).tvec ≠ 0) ∧
    (tThread.wdog ≠ 0x100000000 ∧
      (let t := (tT (fun t => { t with wdog := 0x100000000 })).getThread 0 (.ofNat 2 0)
       t.wdog = 0x100000000 ∧ t.run ≠ none ∧ t.frames = [] ∧ t.preempt = none)) := by decide +kernel

/-- Four threads that run, and records of priority 0 and 3 that have waited long. -/
def tFull (prio : Nat) : State := { tState with
  cycle := 65536
  cores := [(0, { tCore with threads := Vector.replicate 4 tThread, queue := [{ tRecord with prio := prio }] })] }

theorem witness_BoundariesAndPreemption_requests :
    (∀ r ∈ ((tFull 0).getCore 0).queue, (tFull 0).pressing 0 r = false) ∧
    (∃ r ∈ ((tFull 3).getCore 0).queue, (tFull 3).pressing 0 r = true) ∧
    (∀ j : BitVec 2, ((tFull 3).getThread 0 j).prio ≤ 3 ∧ ((tFull 3).getThread 0 j).preempt = none) := by decide +kernel

/-- The thread at its boundary, asked to leave, with a mask or none, and a handle in g6. -/
def tSaved (mask : Option Word) (wait : Option WaitRec) (n : Nat) : State :=
  tT (fun t => { (t.setG 6 0 .handle) with preempt := some n, mask := mask, boundary := true, wait := wait })

theorem witness_BoundariesAndPreemption_saves :
    ((tSaved none none 0).mayPreempt 0 ((tSaved none none 0).getThread 0 0) = true ∧ ((tSaved none none 0).getThread 0 0).atSafePoint = true ∧
      ((tSaved none none 0).getThread 0 0).mask = none) ∧
    ((tSaved (some 5) none 0).mayPreempt 0 ((tSaved (some 5) none 0).getThread 0 0) = true ∧
      ((tSaved (some 5) none 0).getThread 0 0).atSafePoint = true ∧ ((tSaved (some 5) none 0).getThread 0 0).inWait = false ∧
      ((tSaved (some 5) none 0).getThread 0 0).mask = some 5 ∧ (((tSaved (some 5) none 0).getThread 0 0).greg 6).tag = .handle) ∧
    ((tSaved none (some ⟨.parked, .no, 0, 0⟩) 0).mayPreempt 0 ((tSaved none (some ⟨.parked, .no, 0, 0⟩) 0).getThread 0 0) = true ∧
      ((tSaved none (some ⟨.parked, .no, 0, 0⟩) 0).getThread 0 0).atSafePoint = true ∧
      ((tSaved none (some ⟨.parked, .no, 0, 0⟩) 0).getThread 0 0).inWait = true) ∧
    ((tSaved none none 0xFFFFFFFF).mayPreempt 0 ((tSaved none none 0xFFFFFFFF).getThread 0 0) = true ∧
      ((tSaved none none 0xFFFFFFFF).getThread 0 0).overdue = true) := by decide +kernel

/-- A core without a continuation, and one that is being scrubbed for another owner. -/
def tScrubbed (cycle : Nat) : State := { (tState.setCore 2 { resetCore with scrub := some (true, 3, 0) }) with cycle := cycle }

/-- A schedule written in cycle 100, from slot 0 of its next round on. -/
def tDue (cycle : Nat) : State := { tState with cycle := cycle, schedNew := [(.slicePort 0 0, List.replicate 64 ⟨false, 3⟩, nextSlot0 100)] }

theorem witness_LodgeSteps_owners :
    ((tState.ownerRec 3).created = false ∧ (tState.modOwner 3 (fun r => { r with created := true }) |>.ownerRec 3).created = true ∧
      (1023 < 1024 ∧ 0x408 ≤ 0x447 ∧ 0x447 < 0x448 ∧ 4 ≤ 12 ∧ 12 ≤ 12 ∧ (128 : Word).toNat % 128 = 0 ∧
        (tState.hostq.filter (fun x => x.kiosk = 0x447 && x.number != 1023)).length < 16)) ∧
    ((1 : BitVec 32) ≠ 0 ∧ (tState.domain 1).state = .live ∧ (tState.domain 1).owner = 0) ∧
    (tState.isCompute 2 = true ∧ tState.idleCore 0 = false ∧ tState.idleCore 2 = true ∧ tState.streamsTo 2 = false ∧
      ((tState.getCore 2).scrub.map (fun x => (x.1, x.2.1))).getD ((tState.getCore 2).valid, (tState.getCore 2).owner) ≠ (true, 3) ∧
      (((tScrubbed 0).getCore 2).scrub.map (fun x => (x.1, x.2.1))).getD (((tScrubbed 0).getCore 2).valid, ((tScrubbed 0).getCore 2).owner) = (true, 3)) ∧
    ((∀ n ∈ [8191, 8192], ((tScrubbed n).getCore 2).scrub = some (true, 3, 0)) ∧ (tScrubbed 8191).cycle < 0 + 8192 ∧ 0 + 8192 ≤ (tScrubbed 8192).cycle) ∧
    ((List.replicate 64 (⟨false, 3⟩ : Slot)).length = 64 ∧ [(⟨false, 3⟩ : Slot)].length ≠ 64 ∧
      (tDue 128).schedNew.find? (fun x => x.1 = Resource.slicePort 0 0 && x.2.2 ≤ (tDue 128).cycle) = some (Resource.slicePort 0 0, List.replicate 64 ⟨false, 3⟩, nextSlot0 100) ∧
      (tDue 127).schedNew.find? (fun x => x.1 = Resource.slicePort 0 0 && x.2.2 ≤ (tDue 127).cycle) = none) := by decide +kernel

/-- A gang launch of two modules, this one the first, and its collective record of both at 0x200000 of LPDDR6. -/
def tMembers : Launch := { tLaunch with gang := { noGang with table := [0, 5], gangId := 9 } }

def tCollective (count : Word) (c : List Collective) : State := { tState with
  launches := [tMembers]
  collects := c
  mem := tPut (tPut tState.mem 0x2000000200000 [9, 0x30000 + count, 0x100100, 0, 0, 0, 0, 0]) 0x2000000100100 [0x10000] }

/-- Its digests. -/
def tDigests : Collective := ⟨1, 0x2000000200000, 3, [0, 1], [8, 6], false⟩

theorem witness_LodgeSteps_collectives :
    ((tCollective 2 []).launchOf tMembers.serial = some tMembers ∧ okAnd ((tCollective 2 []).dropEnded.collective tMembers 0x2000000200000) (fun x => (x.1, x.2.1) == (3, [0, 1])) = true ∧
      faults ((tCollective 1 []).dropEnded.collective tMembers 0x2000000200000) = true ∧
      (let s := { tCollective 2 [] with migTable := [⟨0, 0x2000000100000, 0x3000000000000, false, 0, 0, true, []⟩] }
       mustWait (s.dropEnded.collective tMembers 0x2000000200000) = true)) ∧
    ((tCollective 2 [tDigests]).launches = [tMembers] ∧ tMembers.gang.table.findIdx? (fun x => x = 5) = some 1 ∧
      (∃ x ∈ (tCollective 2 [tDigests]).dropEnded.collects, x.launch = tMembers.serial ∧ x.differs 1 7 = true) ∧
      (∀ x ∈ (tCollective 2 [tDigests]).dropEnded.collects, x.launch = tMembers.serial → x.differs 1 6 = false) ∧
      (tCollective 2 [tDigests]).streams.Pairwise (fun x y => x.id ≠ y.id)) := by decide +kernel

theorem witness_LodgeSteps_freezes :
    (let s := { (tState.modOwner 0 (fun r => { r with created := true, confirmed := false })) with ctlUp := true, ctlBack := some 0, ns := 30000000000 }
     s.freezes 0 = true ∧ 0 ∈ s.coreNums ∧ (s.getThread 0 0).run.map Cont.owner = some 0) ∧
    (let s := { (tState.modOwner 0 (fun r => { r with created := true, confirmed := false, frozen := some 0 })) with ns := 600000000000 }
     s.scrubs 0 = true ∧ s.ownerRuns 0 = true ∧ 0 ∈ s.coreNums ∧ (s.getThread 0 0).ownedBy 0 = true ∧ (s.domain 1).owner = 0 ∧ (s.domain 1).state ≠ .free ∧
       { s with ns := 599999999999 }.scrubs 0 = false) ∧
    (let s := { ((tState.setCore 0 { resetCore with valid := true }).modOwner 0 (fun r => { r with created := true, confirmed := false, frozen := some 0 })) with
       ns := 600000000000 }
     s.scrubs 0 = true ∧ s.ownerRuns 0 = false ∧ 0 ∈ s.locked 0 ∧ (s.endOwner 0).ownerRevoked 0 = true ∧
       (let u := { s with tlb := [⟨1, 16, 0x2000000100000, 0x2F02000000000003⟩] }
        u.scrubs 0 = true ∧ u.ownerRuns 0 = false ∧ (u.endOwner 0).ownerRevoked 0 = false)) := by decide +kernel

/-! ### Sessions, the host's memory, debug and power -/

/-- A session at a stage, with the certificate of owner 0's record. -/
def tSession (stage : Nat) (created : Bool) : State :=
  (tState.setSession ⟨4, stage, some 77, .none⟩).modOwner 0 (fun r => { r with created := created, cert := 77 })

theorem witness_SpdmSessions :
    ((tSession 0 false).answers = true ∧ (∀ e ∈ [2, 3, 4, 4, 5], ((tSession 0 false).session 4).stage + 1 < e ∧ e ≤ ((tSession 4 false).session 4).stage + 1) ∧
      5 ≤ ((tSession 5 false).session 4).stage ∧ 6 ≤ ((tSession 6 false).session 4).stage ∧ ((tSession 7 false).session 4).stage = 7 ∧
      ((tSession 8 false).session 4).stage ≠ 7 ∧ (tSession 0 false).tripped = false ∧ (tSession 0 false).ctlUp = true) ∧
    ((tSession 8 true).answers = true ∧ ((tSession 8 true).session 4).stage = 8 ∧ ((tSession 8 true).ownerRec 0).created = true ∧
      ((tSession 8 true).session 4).cert = some ((tSession 8 true).ownerRec 0).cert ∧ ((tSession 8 true).domain 1).state = .live ∧
      ((tSession 8 true).domain 1).owner = 0) ∧
    ¬(((tSession 7 true).session 4).stage = 8 ∧ ((tSession 7 true).ownerRec 0).created = true ∧
      ((tSession 7 true).session 4).cert = some ((tSession 7 true).ownerRec 0).cert) := by decide +kernel

/-- The machine whose first 64 KiB of LPDDR6 the host may read and write. -/
def tShared : State := { tState with cxlUp := true, shared := [(0x2000000000000, 65536)] }

/-- A page that moves to the host. -/
def tPage (moving : Bool) : MigPage := ⟨6, 0x2000000500000, 0x3000000000000, false, 5, 9, moving, []⟩

/-- Two writes of one buffered half, and one of another, that the host made and no XFENCE has drained. -/
def tBuffered : State := { tShared with ctlUp := true, cxlBuf := [(cellOf 0x2000000000040, 1), (cellOf 0x2000000000080, 2), (cellOf 0x2000000000040, 3)] }

theorem witness_HostSteps_fence :
    tBuffered.ctlUp = true ∧ tBuffered.cxlUp = true ∧ tBuffered.MemOk ∧ tBuffered.ucopies = [] ∧
      (∀ e ∈ tBuffered.cxlBuf, halfOf e.1 = e.1 ∧ cellOf e.1 = e.1 ∧ paSpace e.1 ≤ 2) ∧
      tBuffered.cxlBuf = [(cellOf 0x2000000000040, 1), (cellOf 0x2000000000080, 2)] ++ (cellOf 0x2000000000040, 3) :: [] ∧
      tBuffered.cxlBuf = [(cellOf 0x2000000000040, 1)] ++ (cellOf 0x2000000000080, 2) :: [(cellOf 0x2000000000040, 3)] ∧
      (∀ e ∈ [((cellOf 0x2000000000040, 3) : Nat × BitVec 512)], e.1 ≠ cellOf 0x2000000000080) ∧
      (∀ e ∈ tBuffered.cxlBuf, halfOf 0x20000000000C0 ≠ e.1) := by decide +kernel

theorem witness_HostSteps_links :
    ((∀ b ∈ [true, false], { tState with ctlUp := b }.ctlUp = b ∧ { tState with ctlUp := true, cxlUp := b }.ctlUp = true ∧
      { tState with ctlUp := true, cxlUp := b }.cxlUp = b)) ∧
    (paOk 0x2000000000040 = true ∧ paSpace 0x2000000000040 ≤ 2 ∧ tShared.hostMay (cellOf (halfOf 0x2000000000040)) = true ∧
      { tState with cxlUp := true }.hostMay (cellOf (halfOf 0x2000000000040)) = false ∧ tShared.cxlUp = true ∧ tShared.ucopies = [] ∧ tShared.bad = [] ∧
      tShared.cxlBuf = [] ∧ tShared.inMotion (cellOf (halfOf 0x2000000000040)) = false ∧
      (let s := { tShared with migTable := [⟨6, 0x2000000000000, 0x3000000000000, false, 5, 9, true, []⟩] }
       s.hostMay (cellOf (halfOf 0x2000000000040)) = true ∧ s.inMotion (cellOf (halfOf 0x2000000000040)) = true)) ∧
    (paSpace 0x3000000000000 = 3) ∧
    ({ tState with migctl := 0 }.migctl.extractLsb' 8 8 = 0 ∧ { tState with migctl := 0x100 }.migctl.extractLsb' 8 8 ≠ 0 ∧
      { tState with cxlUp := false }.hostDown = true ∧ { tState with cxlUp := true }.hostDown = false) ∧
    (∃ s : State, s.MemOk ∧ s.hostDown = false ∧ s.movable (tPage true) = true ∧ (∀ d ∈ s.leafDomains (tPage true), s.translating d = false) ∧
      s.ucopies = [] ∧ s.cxlBuf = [] ∧ s.late = [] ∧ s.hostLine = [(0x3000000000040, 7)] ∧ halfOf 0x3000000000040 = 0x3000000000040 ∧ paSpace 0x3000000000040 = 3 ∧
      s.migTable.find? (fun x => x.id = (tPage true).id && x.moving) = some (tPage true) ∧ s.migRing = 0 ∧
      frameOf (tPage true).dev = (tPage true).dev ∧ frameOf (tPage true).host = (tPage true).host ∧ paOk (tPage true).dev = true ∧ (tPage true).leaves = []) ∧
    (({ tState with migTable := [tPage true] }.migTable.find? (fun x => x.id = (tPage true).id && x.moving)) = some (tPage true) ∧
      ({ tState with migTable := [tPage true] }.movable (tPage true)) = true ∧ tState.movable { tPage true with leaves := [0x2000000020000] } = true ∧
      { tState with mem := memWrite [] 0x2000000020000 8 0x1F02000000000003 }.movable { tPage true with leaves := [0x2000000020000] } = false) := by
  refine ⟨by decide +kernel, by decide +kernel, by decide +kernel, by decide +kernel, ⟨{ tState with
    cxlUp := true, migTable := [tPage true], hostLine := [(0x3000000000040, 7)] }, by decide +kernel⟩, by decide +kernel⟩

/-- A page whose leaf is written, and the event of its move: neither lies in the frame it moves to. -/
theorem witness_HostSteps_apart : ∀ n ≤ 8, ∀ j i : Nat, j < n → i < 65536 → cellOf 0x2000000020000 + j ≠ cellOf (0x3000000000000 + i) := by
  intro n hn j i hj hi
  have e : cellOf 0x2000000020000 = 0x2000000020000 := by decide +kernel
  have f : cellOf (0x3000000000000 + i) = 0x3000000000000 + i := by
    have : (0x3000000000000 + i) / 2 ^ 48 = 3 := by omega
    simp only [cellOf, paSpace, this]
    rfl
  rw [e, f]
  omega

theorem witness_HostSteps_migration :
    let s := { (tT (fun t => { t with wait := some ⟨.moving 0x100000, .no, 7, 0⟩ })) with ns := 50007 }
    (s.getCore 0).dbg.request = none ∧ s.clocked 0 = true ∧ (s.getThread 0 (.ofNat 2 0)).held = [] ∧ (s.getThread 0 (.ofNat 2 0)).preempt = none ∧
      (s.getThread 0 (.ofNat 2 0)).wait = some ⟨.moving 0x100000, .no, 7, 0⟩ ∧ (s.getThread 0 (.ofNat 2 0)).run ≠ none ∧ (s.getCore 0).dbg.halted = false ∧
      7 + 50000 ≤ s.ns ∧ tState.ns < 7 + 50000 ∧ (s.getThread 0 (.ofNat 2 0)).active = false ∧ (s.getThread 0 (.ofNat 2 0)).unwind = none ∧
      (s.domain (s.getThread 0 (.ofNat 2 0)).domid).tvec ≠ 0 := by decide +kernel

/-- A queue whose ring is at 0x200000 and whose tail is at 0x200400 of domain 1, with one command: to read 4 bytes into 0x100000, or one
whose buffer is not mapped. -/
def tStorage : StorageQueue := ⟨2, 0, 1, 0x440, 0, 0x200000, 4, 0x200400, 0⟩

def tGet (buf : Word) : State := { tState with
  storeqs := [tStorage]
  mem := tPut (tPut tState.mem 0x2000000200000 [2, 5, 0, buf, 4, 0, 0, 0]) 0x2000000200400 [1] }

/-- What a command needs: the tail, the command's words, and whether its buffer is found. -/
def tTaken (buf : Word) (ok : Bool) : Bool :=
  match (tGet buf).domainWords tStorage.dom tStorage.tailVa 1 with
  | .ok (tail, s1) => tail == [1] &&
    (match s1.domainWords tStorage.dom (tStorage.ring + .ofNat 64 (tStorage.head % tStorage.entries.toNat * 64)) 8 with
    | .ok (w, s2) => w == [2, 5, 0, buf, 4, 0, 0, 0] && entryOk w &&
      (let x : StorageCmd := ⟨s2.nextId, tStorage.number, tStorage.dom, w⟩
       let u : State := { s2 with nextId := s2.nextId + 1 }
       if ok then okAnd (u.bufferMay x) (fun _ => true) && okAnd (u.storageRecord x 2 0 0) (fun _ => true)
       else faults (u.bufferMay x) && okAnd (u.storageRecord x 3 0 0) (fun _ => true))
    | .error _ => false)
  | .error _ => false

theorem witness_HostSteps_storage :
    ((tGet 0).storeqs.find? (fun x => x.number = tStorage.number) = some tStorage ∧ tStorage.head < ([(1 : Word)].getD 0 0).toNat) ∧
    tTaken 0x100000 true = true ∧ tTaken 0x1000000000 false = true ∧ entryOk [2, 5, 0, 0, 4, 0, 1, 0] = false ∧
    mustWait ({ tGet 0 with migTable := [⟨0, 0x2000000200000, 0x3000000000000, false, 0, 0, true, []⟩] }.storageWords tStorage) = true := by decide +kernel

theorem witness_HostSteps_completions :
    (∀ op ∈ [1, 2, 3, 4], ({ tState with storing := [(⟨8, 2, 1, [.ofNat 64 op, 5, 0, 0x100000, 4, 0, 0, 0]⟩ : StorageCmd)] }.storing.find? (fun y : StorageCmd => y.id = 8)) =
        some ⟨8, 2, 1, [.ofNat 64 op, 5, 0, 0x100000, 4, 0, 0, 0]⟩ ∧ cmdOp [.ofNat 64 op, 5, 0, 0x100000, 4, 0, 0, 0] = op) ∧
    ([1, 2, 3, 4].length ≤ valueLen [2, 5, 0, 0x100000, 4, 0, 0, 0] ∧ okAnd (tState.domainPut 1 0x100000 [1, 2, 3, 4]) (fun _ => true) = true) ∧
    (let x : StorageCmd := ⟨8, 2, 1, [2, 5, 0, 0x100000, 4, 0x100040, 0, 0]⟩
     ∀ r ∈ [StorageResult.notFound, .unreachable, .success [1, 2, 3, 4]],
      okAnd (tState.storageEnd x r) (fun _ => true) = true ∧
      mustWait ({ tState with migTable := [⟨0, 0x2000000100000, 0x3000000000000, false, 0, 0, true, []⟩] }.storageEnd x r) = true) := by decide +kernel

/-- Core 0 with its debug module attached, halted or not, thread 0's g5 a handle. -/
def tDebug (halted : Bool) (sel : BitVec 16) : State := (tT (fun t => t.setG 5 0 .handle)).modCore1 (fun k => { k with
  dbg := { k.dbg with attached := true, halted := halted, sel := sel } })

theorem witness_DebugAndPower_module :
    (tState.isCompute 0 = true ∧ (⟨1, none⟩ : Requester).level.toNat < 2 ∧ 2 ≤ (⟨2, none⟩ : Requester).level.toNat ∧
      ((tDebug false 0).getCore 0).dbg.attached = true ∧ ((tDebug false 0).getCore 0).dbg.halted = false ∧ ((tDebug true 0).getCore 0).dbg.halted = true) ∧
    (((tDebug false 0).modCore1 (fun k => { k with dbg := { k.dbg with request := some 1 } }) |>.getCore 0).dbg.request = some 1 ∧
      (∀ i : BitVec 2, ((tDebug false 0).getThread 0 i).inProgress = false) ∧
      (∃ i : BitVec 2, ((tT (fun t => { t with wait := some ⟨.host, .no, 0, 0⟩ })).getThread 0 i).inProgress = true)) ∧
    ({ (tDebug true 0).modMe (fun t => { t with unwind := some (tUnwind 0 true none) }) with cycle := 1024 }.stopOver 0 = true ∧ tState.stopOver 0 = false) ∧
    ((⟨1, some 0⟩ : Requester).level ≠ 0 ∧ (⟨1, some 0⟩ : Requester).owner = some (tState.domain (tState.getThread 0 0).domid).owner ∧
      (⟨1, some 1⟩ : Requester).owner ≠ some (tState.domain (tState.getThread 0 0).domid).owner ∧
      (31 : BitVec 16).extractLsb' 11 3 = 0 ∧ ((31 : BitVec 16).extractLsb' 0 11).toNat < 32 ∧ (31 : BitVec 16).extractLsb' 14 2 = 0 ∧
      ((tDebug true 31).getCore 0).dbg.sel = 31 ∧ ((tDebug true 31).getThread 0 0).tagOf 5 = .handle ∧ ((tDebug true 31).getThread 0 0).tagOf 31 ≠ .handle ∧
      ((tDebug true 31).getThread 0 0).wait = none ∧ ((tDebug true 31).getThread 0 0).late = [] ∧
      (((tDebug true 31).modMe (fun t => { t with wait := some ⟨.host, .no, 0, 0⟩ })).getThread 0 0).wait ≠ none) ∧
    ((0x1F3 : Word).getLsbD 2 = false ∧ (0x1F3 : Word).getLsbD 3 = false ∧ (if (0x1F3 : Word).getLsbD 61 then 1 else 2) ≤ (⟨2, none⟩ : Requester).level.toNat) := by
  decide +kernel

/-- The clock of die 0 under an alarm, and 10 ms after one. -/
def tClocks (alarm : Bool) : State := { tState with ns := 10000000, clocks := Vector.replicate 4 { tState.clock 0 with alarm := alarm, clear := some 0 } }

theorem witness_DebugAndPower_power :
    (0 ∈ tState.coreNums ∧ tState.isCompute 0 = true ∧ 0 / 256 % 4 = (0 : BitVec 2).toNat ∧ (tState.getThread 0 0).run ≠ none ∧
      ((tClocks true).clock 0).alarm = true ∧ ((tClocks false).clock 0).alarm = false ∧ ((tClocks false).clock 0).clear = some 0 ∧
      0 + 10000000 ≤ (tClocks false).ns) ∧
    (State.reset.power = .active ∧ State.reset.restful = true ∧ State.reset.ltr = none ∧ { State.reset with ltr := some (40000, 2000000) }.ltr = some (40000, 2000000) ∧
      tState.restful = false) ∧
    ((let s := { State.reset with agenda := [] }
      s.ready = false ∧ s.tripped = false ∧ s.bootCause = 0 ∧ s.booting ≠ some .signature ∧ BootResult.signature ≠ .ok ∧ s.bootStep.toNat < 6) ∧
      { State.reset with bootStep := 6 }.bootStep = 6 ∧ State.reset.booting = some .ok ∧ { State.reset with booting := some .signature }.booting = some .signature ∧ tState.ready = true) := by decide +kernel

/-! ### The whole machine -/

/-- What a step needs: nothing is due, thread 0 issues, and its line is fetched; what the head decodes to, the state the instruction
begins in, and whether the thread waited. -/
noncomputable def tIssuesAt (s : State) (p : Except DErr Decoded → State → Bool → Bool) : Bool :=
  let u := s.tick
  let c := u.act.core
  let i := u.core.last + 1
  let pc := (u.getThread c i).pc
  u.agenda.isEmpty && u.ready && !u.tripped && u.ready? c i && (u.issueMatch c i).isNone &&
    okAnd (u.fetch c i pc) (fun x => p (decodeHead (coreType c) (x.1.getD (slotOf pc) 0) (lineTail x.1 (slotOf pc)))
      (x.2.begin c i (x.1.getD (slotOf pc) 0) (nextLoc x.1 pc)) (u.getThread c i).inWait)

/-- The same at a placed head, which no thread waits in. -/
noncomputable def tIssues (nbits w : Nat) (p : Except DErr Decoded → Bool) : Bool :=
  tIssuesAt (State.reset.withFetchWord nbits w) (fun d _ waited => p d && !waited)

/-- A head without a guard. -/
def tUnguarded : Except DErr Decoded → Bool
  | .ok x => x.guard.isNone
  | .error _ => false

/-- A head under a guard that a register of zeros makes false. -/
def tGuarded : Except DErr Decoded → Bool
  | .ok x => x.guard == some ⟨5, 0, false⟩
  | .error _ => false

/-- NOP, NOP under a guard, and a word with no instruction. -/
theorem witness_StepRunsDecodedInstruction :
    tIssues 16 0 tUnguarded = true ∧ tIssues 32 0x40012800 tGuarded = true ∧ tIssues 16 0xFFFF (fun x => match x with | .ok _ => false | .error _ => true) = true := by decide +kernel

/-- The thread of a placed WFI, at level hyper, waiting or not. -/
def tWfi (wait : Option WaitRec) : State :=
  let s := State.reset.withFetchWord 32 0x43001000
  s.modThread s.tick.act.core (s.tick.core.last + 1) (fun t => { t with wait := wait, level := .hyper })

/-- What the placed instruction ends as, and whether its thread waits in it afterwards. -/
noncomputable def tEnds (p : Out → Bool → Bool) (d : Except DErr Decoded) (s : State) : Bool :=
  match d with
  | .ok x => x.guard.isNone && (match exec x.instr s with
    | .next t => p t.act.out (t.getThread s.act.core s.act.thr).inWait
    | _ => false)
  | .error _ => false

/-- WFI begins to wait, and completes once it is served; and no line can be fetched from a domain without a table, nor one that fails its check. -/
theorem witness_StepRunsDecodedInstruction_waits :
    tIssuesAt (tWfi none) (fun d s waited => !waited && tEnds (fun o w => o == .waits && w) d s) = true ∧
    tIssuesAt (tWfi (some ⟨.wfi, .done, 0, 0⟩)) (fun d s waited => waited && tEnds (fun o _ => o != .waits && o != .trapped) d s) = true ∧
    (let u := ({ (tWfi none).modThread (tWfi none).tick.act.core ((tWfi none).tick.core.last + 1) (fun t => { t with fetch := [], inLine := 0 }) with domains := [] }).tick
     let c := u.act.core
     let i := u.core.last + 1
     u.agenda = [] ∧ u.ready = true ∧ u.tripped = false ∧ u.ready? c i = true ∧ u.issueMatch c i = none ∧ (u.getThread c i).inWait = false ∧
       faults (u.fetch c i (u.getThread c i).pc) = true) ∧
    (let u := ({ tState with bad := [(0x2000000004000, 2)] }.modCore1 (fun k => { k with last := 3 })).tick
     let c := u.act.core
     let i := u.core.last + 1
     u.agenda = [] ∧ u.ready = true ∧ u.tripped = false ∧ u.ready? c i = true ∧ u.issueMatch c i = none ∧ (u.getThread c i).inWait = false ∧
       faultsIn (u.fetch c i (u.getThread c i).pc) = true) := by decide +kernel

theorem witness_EncodeThenDecode : WellFormed (.add 3 1 2) = true ∧ encode (.add 3 1 2) ≠ [] := by decide +kernel

theorem exists_next {c : Prop} [Decidable c] {a b : Outcome} (ha : ∃ t : State, a = .next t) (hb : ∃ t : State, b = .next t) :
    ∃ t : State, (if c then a else b) = .next t := by
  split <;> assumption

theorem fundamentalReset_answers (r : BootResult) (s : State) : ∃ t : State, execFundamentalReset r s = .next t := by
  simp only [execFundamentalReset]
  exact exists_next ⟨_, rfl⟩ (exists_next ⟨_, rfl⟩ ⟨_, rfl⟩)

theorem takeStep_answers {i : Instr} {s : State} (h : ∀ s, ∃ t : State, exec i s = .next t) : ∃ t : State, s.takeStep i = .next t := by
  simp only [State.takeStep]
  exact exists_next (h _) ⟨_, rfl⟩

theorem witness_MemoryStaysCanonical : State.reset.MemOk ∧ ∃ t : State, step State.reset = .next t := by
  refine ⟨by decide +kernel, ?_⟩
  have ha : State.reset.tick.agenda = [.fundamentalReset .ok] := by decide +kernel
  have hr : State.reset.tick.ready = false := by decide +kernel
  suffices h : ∃ t : State, State.reset.tick.choice = .next t by
    obtain ⟨t, h⟩ := h
    exact ⟨t.turn, by rw [step, h]; rfl⟩
  unfold State.choice
  simp only [ha, hr, Bool.false_and, Bool.false_eq_true, if_false]
  split
  · rename_i i hi
    obtain rfl : i = .fundamentalReset .ok := List.mem_singleton.1 (List.mem_of_getElem? hi)
    exact takeStep_answers (fundamentalReset_answers .ok)
  · exact ⟨_, rfl⟩

/-! ### Results that spec/ works out -/

/-- An instruction answers a next state that satisfies a test. -/
noncomputable def tAfter (i : Instr) (s : State) (p : State → Bool) : Bool :=
  match exec i s with
  | .next t => p t
  | _ => false

/-- The machine with vector registers 2, 3 and 4 set. -/
def tV (x y z : VReg) : State := tT (fun t => { t with v := ((t.v.set 2 x).set 3 y).set 4 z })

/-- The example of R163: 100 and 50 saturate to 127, 200 and 100 wrap to 44 and saturate to 255. -/
theorem test_vadd_saturates :
    tAfter (.vadd 1 2 3 .i8 true ⟨0, false⟩) (tV 100 50 0) (fun t => t.me.v[1] == 127) = true ∧
    tAfter (.vadd 1 2 3 .n8 false ⟨0, false⟩) (tV 200 100 0) (fun t => t.me.v[1] == 44) = true ∧
    tAfter (.vadd 1 2 3 .n8 true ⟨0, false⟩) (tV 200 100 0) (fun t => t.me.v[1] == 255) = true := by decide +kernel

/-- The example of R163: the high half of -32,768. -/
theorem test_vmulh_signed :
    tAfter (.vmulh 1 2 3 .i16 ⟨0, false⟩) (tV 0xFFFE 0x4000 0) (fun t => t.me.v[1] == 0xFFFF) = true := by decide +kernel

/-- The example of R155 and R173: with q = 97 the butterfly of 5, 30 and 10 gives 14 and 93. -/
theorem test_vbfly_in_place :
    tAfter (.vbfly 2 2 3 4 ⟨0, false⟩) ((tV 5 30 10).modMe (fun t => { t with sys := { t.sys with qmod := 97 } }))
      (fun t => t.me.v[2] == 14 && t.me.v[3] == 93) = true := by decide +kernel

/-- R157: the reciprocal square root of -0 is minus infinity, and that of a negative number is NaN. -/
theorem test_vrsq_special :
    tAfter (.vrsq 1 2 .fp32 ⟨0, false⟩) (tV 0xC080000080000000 0 0) (fun t => (t.me.v[1]).extractLsb' 0 64 == 0x7FC00000FF800000) = true := by
  decide +kernel

/-- The example of R380: TRAP #5 saves 0x8050, the next location and the code, and goes to the handler at guest level. -/
theorem test_trap_enters :
    tAfter (.trap 5) tState (fun t => t.me.pc == 0x8000 && t.me.sys.tcause == 0x8050 && t.me.sys.tpc == 0x4004 && t.me.sys.tinfo == 5 &&
      t.me.level == .guest) = true := by decide +kernel

/-- R120: a division by zero gives all ones, and the overflowing one its dividend. -/
theorem test_div_corners :
    tAfter (.div 3 1 2) (tR [(1, 7)]) (fun t => t.me.g[3].val == 0xFFFFFFFFFFFFFFFF) = true ∧
    tAfter (.div 3 1 2) (tR [(1, 0x8000000000000000), (2, 0xFFFFFFFFFFFFFFFF)]) (fun t => t.me.g[3].val == 0x8000000000000000) = true := by
  decide +kernel

/-- A store to region S of the own pool is read back, sign-extended by a signed load (R194). -/
theorem test_store_then_load :
    tAfter (.st8 1 2 .rlx 0) (tR [(1, 0x180), (2, 0xFFFE000000020000)])
      (fun t => t.core.pool == [(0x20000, 0x80)] && tAfter (.lds8 3 2 .rlx 0) t (fun t => t.me.g[3].val == 0xFFFFFFFFFFFFFF80)) = true := by
  decide +kernel

/-- A fetched NOP falls through to the next slot of its line. -/
theorem test_step_runs_nop :
    tIssues 16 0 (fun x => match x with | .ok d => d.instr == .nop | .error _ => false) = true := by decide +kernel

end Sys2Proof.Tests
end

section
/-! Launches, from the header to the live launch (O41). What an access of an agent to memory leaves of the state that launches are
accepted by (R20 to R42), then the acceptance of a header, LAUNCH, and the host queues. -/

namespace Sys2Proof.Machine

/-! ### What accesses to memory leave of launches and their queues -/

/-- Each core with what R49 counts it by: whether its owner is valid, the owner, and that no scrub runs. -/
def State.claims (s : State) : List (Nat × Bool × BitVec 4 × Bool) := s.cores.map (fun e => (e.1, e.2.valid, e.2.owner, e.2.scrub.isNone))

/-- The launches, their queues, the pending steps and the tables that a header is checked by are the same in two states. -/
structure LaunchesKept (s t : State) : Prop where
  launches : t.launches = s.launches
  devq     : t.devq = s.devq
  hostq    : t.hostq = s.hostq
  agenda   : t.agenda = s.agenda
  owners   : t.owners = s.owners
  domains  : t.domains = s.domains
  bin      : t.bin = s.bin
  claims   : t.claims = s.claims

theorem LaunchesKept.refl (s : State) : LaunchesKept s s := ⟨rfl, rfl, rfl, rfl, rfl, rfl, rfl, rfl⟩

theorem LaunchesKept.trans {s t u : State} (h : LaunchesKept s t) (k : LaunchesKept t u) : LaunchesKept s u where
  launches := k.launches.trans h.launches
  devq := k.devq.trans h.devq
  hostq := k.hostq.trans h.hostq
  agenda := k.agenda.trans h.agenda
  owners := k.owners.trans h.owners
  domains := k.domains.trans h.domains
  bin := k.bin.trans h.bin
  claims := k.claims.trans h.claims

/-- A fold whose every step keeps the launches keeps them. -/
theorem LaunchesKept.foldl {α : Type} {f : State → α → State} (hf : ∀ s a, LaunchesKept s (f s a)) (l : List α) (s : State) :
    LaunchesKept s (l.foldl f s) := by
  induction l generalizing s with
  | nil => exact .refl s
  | cons a r ih => exact (hf s a).trans (ih _)

theorem LaunchesKept.ownerRec {s t : State} (h : LaunchesKept s t) (o : BitVec 4) : t.ownerRec o = s.ownerRec o := by
  simp only [State.ownerRec, h.owners]

theorem State.locked_eq_claims (s : State) (o : BitVec 4) :
    s.locked o = (s.claims.filter (fun c => s.isCompute c.1 && c.2.1 && c.2.2.1 = o && c.2.2.2)).map Prod.fst := by
  simp only [State.locked, State.claims, List.filter_map, List.map_map]
  rfl

theorem LaunchesKept.locked {s t : State} (h : LaunchesKept s t) (o : BitVec 4) : t.locked o = s.locked o := by
  simp only [State.locked_eq_claims, h.claims, State.isCompute, h.bin]

theorem LaunchesKept.domain {s t : State} (h : LaunchesKept s t) (d : BitVec 8) : t.domain d = s.domain d := by
  simp only [State.domain, h.domains]

theorem LaunchesKept.headerCheck {s t : State} (k : LaunchesKept s t) (o : BitVec 4) (h : List Word) :
    t.headerCheck o h = s.headerCheck o h := by
  unfold State.headerCheck
  rw [k.locked, k.domain]

/-- Cores changed in nothing that R49 counts them by. -/
theorem launchesKept_mapCores (s : State) {f : Nat → Core → Core}
    (hf : ∀ c k, (f c k).valid = k.valid ∧ (f c k).owner = k.owner ∧ (f c k).scrub = k.scrub) : LaunchesKept s (s.mapCores f) where
  launches := rfl
  devq := rfl
  hostq := rfl
  agenda := rfl
  owners := rfl
  domains := rfl
  bin := rfl
  claims := by simp [State.claims, State.mapCores, hf]

@[simp] theorem Core.hitLine_claim (k : Core) (now line : Nat) :
    (k.hitLine now line).valid = k.valid ∧ (k.hitLine now line).owner = k.owner ∧ (k.hitLine now line).scrub = k.scrub := by
  unfold Core.hitLine; split <;> exact ⟨rfl, rfl, rfl⟩

@[simp] theorem Core.releaseIf_claim (k : Core) (now : Nat) (f : Thread → Bool) :
    (k.releaseIf now f).valid = k.valid ∧ (k.releaseIf now f).owner = k.owner ∧ (k.releaseIf now f).scrub = k.scrub := by
  unfold Core.releaseIf; split <;> exact ⟨rfl, rfl, rfl⟩

theorem launchesKept_hitLine (s : State) (line : Nat) : LaunchesKept s (s.hitLine line) := by
  have h := launchesKept_mapCores s (f := fun _ k => (k.hitLine s.cycle line).releaseIf s.cycle (s.barrierOver line)) (fun c k => by simp)
  exact h.trans ⟨rfl, rfl, rfl, rfl, rfl, rfl, rfl, rfl⟩

theorem launchesKept_writeBack (s : State) (half : Nat) : LaunchesKept s (s.writeBack half) := by
  unfold State.writeBack
  split
  · next e _ =>
    generalize memWrite s.mem half 64 e.2.toNat = m
    exact ⟨rfl, rfl, rfl, rfl, rfl, rfl, rfl, rfl⟩
  · exact .refl s

theorem launchesKept_roomDirty (s : State) : LaunchesKept s s.roomDirty := by
  unfold State.roomDirty
  split
  · split
    · exact .refl s
    · exact launchesKept_writeBack s _
  · exact .refl s

theorem launchesKept_putByte (s : State) (uc : Bool) (cell : Nat) (x : Byte) : LaunchesKept s (s.putByte uc cell x) := by
  have hb := launchesKept_writeBack s (halfOf cell)
  have hr := launchesKept_roomDirty s
  unfold State.putByte
  split
  · split
    · exact ⟨rfl, rfl, rfl, rfl, rfl, rfl, rfl, rfl⟩
    · exact hr.trans ⟨rfl, rfl, rfl, rfl, rfl, rfl, rfl, rfl⟩
  · split
    · exact hb.trans ⟨rfl, rfl, rfl, rfl, rfl, rfl, rfl, rfl⟩
    · exact ⟨rfl, rfl, rfl, rfl, rfl, rfl, rfl, rfl⟩

theorem launchesKept_putBytes (s : State) (uc : Bool) (cell n v : Nat) : LaunchesKept s (s.putBytes uc cell n v) := by
  induction n generalizing s cell v with
  | zero => exact .refl s
  | succ n ih => exact (launchesKept_putByte s uc cell _).trans (ih ..)

theorem launchesKept_combine (s : State) (u : UCopy) : LaunchesKept s (s.combine u) :=
  LaunchesKept.foldl (fun s _ => launchesKept_putBytes s ..) _ s

theorem launchesKept_recallLoop (n : Nat) (l : List UCopy) (s : State) : LaunchesKept s (recallLoop n l s) := by
  induction n generalizing l s with
  | zero => exact .refl s
  | succ n ih =>
    unfold recallLoop
    split
    · exact .refl s
    · next u _ =>
      have hs : LaunchesKept s s.spent := ⟨rfl, rfl, rfl, rfl, rfl, rfl, rfl, rfl⟩
      exact ((hs.trans (launchesKept_combine _ u)).trans (launchesKept_hitLine _ _)).trans (ih ..)

theorem launchesKept_recall (s : State) (line : Nat) : LaunchesKept s (s.recall line) := by
  unfold State.recall
  simp only
  split
  · exact .refl s
  · have h : LaunchesKept s { s with ucopies := s.ucopies.filter (fun u => u.line != line) } := ⟨rfl, rfl, rfl, rfl, rfl, rfl, rfl, rfl⟩
    exact h.trans (launchesKept_recallLoop ..)

theorem launchesKept_poke (s : State) (pa n v : Nat) : LaunchesKept s (s.poke pa n v) := by
  unfold State.poke
  refine .trans ?_ (launchesKept_hitLine _ _)
  refine .trans ?_ (launchesKept_putBytes _ _ _ _ _)
  have h := launchesKept_recall s (lineOf (cellOf pa))
  exact h.trans ⟨rfl, rfl, rfl, rfl, rfl, rfl, rfl, rfl⟩

theorem launchesKept_pokeWords (s : State) (pa : Nat) (l : List Word) : LaunchesKept s (s.pokeWords pa l) := by
  induction l generalizing s pa with
  | nil => exact .refl s
  | cons w r ih => exact (launchesKept_poke s pa 8 _).trans (ih ..)

theorem launchesKept_peek (s : State) (pa n : Nat) : LaunchesKept s (s.peek pa n).2 := by
  induction n generalizing s pa with
  | zero => exact .refl s
  | succ n ih => exact (launchesKept_recall s _).trans (ih ..)

/-! ### What translations and the reads of a gang's descriptor leave -/

theorem launchesKept_walkFrom (va : Nat) (l : List (Nat × Nat)) (lvl table : Nat) (s : State) :
    LaunchesKept s (walkFrom va l lvl table s).2 := by
  induction l generalizing lvl table s with
  | nil => exact .refl s
  | cons e r ih =>
    obtain ⟨sh, bits⟩ := e
    unfold walkFrom
    simp only
    split
    · exact .refl s
    · split
      · exact .refl s
      · split
        · exact launchesKept_recall s _
        · split
          · exact launchesKept_recall s _
          · exact (launchesKept_recall s _).trans (ih ..)

theorem launchesKept_walk (s : State) (dom : BitVec 8) (va : Nat) : LaunchesKept s (s.walk dom va).2 := by
  unfold State.walk
  simp only
  split
  · exact .refl s
  · exact launchesKept_walkFrom ..

theorem launchesKept_translate (s : State) (dom : BitVec 8) (va : Nat) : LaunchesKept s (s.translate dom va).2 := by
  refine (launchesKept_walk s dom va).trans ?_
  unfold State.translate
  simp only
  generalize s.walk dom va = w
  obtain ⟨r, t⟩ := w
  cases r with
  | error n => simp only; split <;> exact ⟨rfl, rfl, rfl, rfl, rfl, rfl, rfl, rfl⟩
  | ok x => simp only; split <;> split <;> exact ⟨rfl, rfl, rfl, rfl, rfl, rfl, rfl, rfl⟩

/-- A check that passes has done no more than translate. -/
theorem launchesKept_checkPa {s t : State} {a : Acc} {dom : BitVec 8} {l : Level} {va rep : Word} {x : Nat × Bool}
    (h : s.checkPa a dom l va rep = .ok (x, t)) : LaunchesKept s t := by
  have hk := launchesKept_translate s dom va.toNat
  unfold State.checkPa at h
  generalize s.translate dom va.toNat = w at h hk
  obtain ⟨r, u⟩ := w
  simp only [raise, Acc.fault] at h
  repeat' split at h
  all_goals cases h
  exact hk

theorem launchesKept_agentPlace {s t : State} {a : Acc} {dom : BitVec 8} {va : Word} {pa : Nat}
    (h : s.agentPlace a dom va = .ok (pa, t)) : LaunchesKept s t := by
  unfold State.agentPlace at h
  simp only [raise, Acc.fault] at h
  split at h
  · cases h
  split at h
  · cases h
  split at h
  · cases h
  next hc =>
    repeat' split at h
    all_goals cases h
    exact launchesKept_checkPa hc

theorem launchesKept_lineRead {s t : State} {pa n elem x : Nat} {va : Word} (h : s.lineRead pa n va elem = .ok (x, t)) :
    LaunchesKept s t := by
  unfold State.lineRead at h
  simp only at h
  split at h
  · cases h
  · cases h
    exact launchesKept_recall s _

theorem launchesKept_domainWords {s t : State} {dom : BitVec 8} {va : Word} {n : Nat} {w : List Word}
    (h : s.domainWords dom va n = .ok (w, t)) : LaunchesKept s t := by
  induction n generalizing s va w with
  | zero => cases h; exact .refl _
  | succ n ih =>
    simp only [State.domainWords, bind, Except.bind, raise] at h
    split at h
    · cases h
    next hp =>
    split at h
    next hr =>
      split at h
      · cases h
      next hw =>
      cases h
      exact ((launchesKept_agentPlace hp).trans (launchesKept_lineRead hr)).trans (ih hw)
    · cases h

theorem launchesKept_gangWords {s t : State} {h w m : List Word} (e : s.gangWords h = .ok (w, m, t)) : LaunchesKept s t := by
  simp only [State.gangWords, bind, Except.bind] at e
  split at e
  · cases e
  next h1 =>
  split at e
  · cases e
  next h2 =>
  cases e
  exact (launchesKept_domainWords h1).trans (launchesKept_domainWords h2)

theorem launchesKept_readGang {s t : State} {l : Launch} {g : Gang} (h : s.readGang l = some (g, t)) : LaunchesKept s t := by
  unfold State.readGang at h
  split at h
  · cases h
  next hw =>
  simp only at h
  split at h
  · cases h
  · cases h
    exact launchesKept_gangWords hw

theorem launchesKept_recordPlace {s t : State} {o : BitVec 4} {h : List Word} {pa : Nat} (e : s.recordPlace o h = .ok (pa, t)) :
    LaunchesKept s t := by
  simp only [State.recordPlace, raise] at e
  split at e
  · cases e
  · exact launchesKept_agentPlace e

/-! ### The acceptance of a header (R20, R34) -/

/-- The record of a launch that comes from no host queue changes no queue. -/
theorem launchesKept_writeRecord_device (s : State) (o p : BitVec 4) (d producer : Nat) (h : List Word) (status check : BitVec 8)
    (run faults : Nat) : LaunchesKept s (s.writeRecord o (.device d p) producer h status check run faults) := by
  unfold State.writeRecord
  split
  next hp => exact (launchesKept_recordPlace hp).trans (launchesKept_pokeWords ..)
  · exact ⟨rfl, rfl, rfl, rfl, rfl, rfl, rfl, rfl⟩
  · exact .refl s

/-- A header from a device queue that fails a check leaves no launch. -/
theorem launchesKept_accept_refused {s : State} {o : BitVec 4} {h : List Word} (hc : s.headerCheck o h ≠ none) (p : BitVec 4)
    (d producer die : Nat) : LaunchesKept s (s.accept o (.device d p) producer die h) := by
  unfold State.accept
  split
  · exact .refl s
  · exact launchesKept_writeRecord_device ..
  next hn => exact absurd hn hc

/-- The launch that a header becomes. -/
def newLaunch (id : Nat) (o : BitVec 4) (src : LaunchSrc) (producer die : Nat) (h : List Word) : Launch :=
  { serial := id, header := h, owner := o, src := src, producer := producer, die := die, created := [], run := 0, faults := 0,
    dealt := none, sent := Vector.replicate 4 0, seen := [], sums := none, status := 0, gang := noGang }

/-- A launch is entered among the live ones, and its owner's mode follows (R53). -/
def State.enter (s : State) (l : Launch) : State := { s.newId.2 with launches := s.launches ++ [l] }.remode l.owner

/-- An accepted launch is entered; of a gang's launch the descriptor is read, and PREPARE may follow (R40). -/
theorem State.accept_live {s : State} {o : BitVec 4} {h : List Word} (hc : s.headerCheck o h = none) (src : LaunchSrc) (producer die : Nat) :
    let v := s.enter (newLaunch s.nextId o src producer die h)
    ∃ w, LaunchesKept v w ∧ (s.accept o src producer die h = w ∨ s.accept o src producer die h = w.post (.prepare die s.nextId)) ∧
      (hdrFlag h 18 = false → s.accept o src producer die h = v) := by
  intro v
  have e : s.accept o src producer die h =
      if !hdrFlag h 18 then v
      else
        match v.readGang (newLaunch s.nextId o src producer die h) with
        | none => v.post (.prepare die s.nextId)
        | some (g, w) => if g.self = 0 then w.post (.prepare die s.nextId) else w := by
    unfold State.accept
    rw [hc]
    rfl
  rw [e]
  cases hf : hdrFlag h 18
  · exact ⟨v, .refl v, .inl rfl, fun _ => rfl⟩
  · cases hg : v.readGang (newLaunch s.nextId o src producer die h) with
    | none => exact ⟨v, .refl v, .inr rfl, nofun⟩
    | some x =>
      refine ⟨x.2, launchesKept_readGang hg, ?_, nofun⟩
      by_cases hs : x.1.self = 0
      · exact .inr (by simp [hs])
      · exact .inl (by simp [hs])

@[simp] theorem State.ownerRec_modOwner (s : State) (o : BitVec 4) (f : OwnerRec → OwnerRec) : (s.modOwner o f).ownerRec o = f (s.ownerRec o) := by
  simp [State.ownerRec, State.modOwner]

/-- An owner with a live launch that asks for strict slots is strict (R53). -/
theorem State.remode_strict {s : State} {l : Launch} (h : l ∈ s.launches) (hf : hdrFlag l.header 19 = true) :
    ((s.remode l.owner).ownerRec l.owner).mode = .strict := by
  have hs : (s.launches.filter (fun x => x.owner = l.owner)).any (fun x => hdrFlag x.header 19) = true :=
    List.any_eq_true.2 ⟨l, List.mem_filter.2 ⟨h, by simp⟩, hf⟩
  simp [State.remode, hs]

/-- What an accepted header leaves: one launch more, the queues as they were, no step posted but for a gang, and its owner strict where it
asks for that. -/
theorem State.accept_live_leaves {s : State} {o : BitVec 4} {h : List Word} (hc : s.headerCheck o h = none) (src : LaunchSrc)
    (producer die : Nat) :
    let t := s.accept o src producer die h
    t.launches = s.launches ++ [newLaunch s.nextId o src producer die h] ∧ t.devq = s.devq ∧ t.hostq = s.hostq ∧
      (hdrFlag h 18 = false → t.agenda = s.agenda) ∧ (hdrFlag h 19 = true → (t.ownerRec o).mode = .strict) := by
  intro t
  obtain ⟨w, hk, ht, ha⟩ := State.accept_live hc src producer die
  have hm : hdrFlag h 19 = true → (w.ownerRec o).mode = .strict := fun hf => by
    rw [hk.ownerRec]
    exact State.remode_strict (l := newLaunch s.nextId o src producer die h) (by simp) hf
  have hp : t.launches = w.launches ∧ t.devq = w.devq ∧ t.hostq = w.hostq ∧ t.owners = w.owners := by
    rcases ht with (e : t = _) | (e : t = _) <;> rw [e] <;> exact ⟨rfl, rfl, rfl, rfl⟩
  obtain ⟨hl, hd, hq, ho⟩ := hp
  refine ⟨hl.trans hk.launches, hd.trans hk.devq, hq.trans hk.hostq, fun hf => ?_, fun hf => ?_⟩
  · simp only [t, ha hf]
    rfl
  · simp only [State.ownerRec, ho]
    exact hm hf

/-! ### LAUNCH (R37, R38) -/

theorem State.g_gives (t : State) (d : R) (v : Word) : (t.gives d v).me.g = (t.me.setG d v).g := by simp

/-- What LAUNCH does once the header at x has been read in the state t. -/
def launchRead (d : R) (x : Word) (h : List Word) (t : State) : Ex State :=
  if h.getD 13 0 = 0 ∨ (h.getD 13 0).toNat % 32 ≠ 0 then .ok (t.gives d 2)
  else
    match t.launchQueue h with
    | none => .ok (t.gives d 4)
    | some (die, o) =>
      if Config.deviceQueueSize ≤ (t.devq.filter (fun e => e.die = die && e.owner = o)).length then .ok (t.gives d 1)
      else do
        let t ← t.release .p
        .ok ({ t.gives d 0 with devq := t.devq ++ [(⟨die, o, h, x⟩ : DevEntry)] }.post (.launchAccept (.device die o)))

section
variable {d a : R} {x : Word} {s : State} (hr : s.Reads a x) (hx : x.toNat % 8 = 0) (hd : s.Takes d)
include hr hx hd

theorem exec_launch_called (hf : s.me.frames ≠ []) : exec (.launch d a) s = .next (s.gives d 3) := by
  unfold State.Reads at hr
  show execLaunch d a s = _
  have hn : s.me.depth ≠ 0 := by simpa [Thread.depth] using hf
  simp only [execLaunch, hr, hx, faultIf, Thread.freeG_ok hd, hn, bind, Except.bind, ne_eq, not_true_eq_false, decide_false,
    Bool.false_eq_true, not_false_eq_true, if_false, if_true]
  rfl

theorem exec_launch_read {h : List Word} {t : State} (hf : s.me.frames = []) (hw : s.readWords (fun _ => none) x 16 = .ok (h, t)) :
    exec (.launch d a) s = settle s (launchRead d x h t) := by
  unfold State.Reads at hr
  show execLaunch d a s = _
  simp only [execLaunch, hr, hx, faultIf, Thread.freeG_ok hd, Thread.depth, hf, hw, bind, Except.bind, launchRead,
    Bool.or_eq_true, decide_eq_true_eq]
  rfl

end

/-- A thread without posted messages has none to perform (R366). -/
theorem State.release_nonePosted {s : State} (h : s.NonePosted) (sc : Scope) : s.release sc = .ok s := by
  have ha : ∀ m, s.ahead m = false := fun m => by
    simp only [State.ahead, Bool.and_eq_false_imp, decide_eq_true_eq, List.any_eq_false]
    intro hm y hy hc
    simp only [Bool.and_eq_true, decide_eq_true_eq] at hc
    obtain ⟨⟨⟨hsrc, hcont⟩, -⟩, -⟩ := hc
    exact h y hy ⟨hsrc.trans hm, hcont⟩
  have hd : s.deliverMsgs s.ahead = s := by simp [State.deliverMsgs, ha, List.partition_eq_filter_filter, Function.comp_def]
  cases sc <;> simp [State.release, ha, hd]

theorem launchRead_badRecord {d : R} {x : Word} {h : List Word} {t : State} (hw : h.getD 13 0 = 0 ∨ (h.getD 13 0).toNat % 32 ≠ 0) :
    launchRead d x h t = .ok (t.gives d 2) := if_pos hw

section
variable {d : R} {x : Word} {h : List Word} {t : State} {die : Nat} {o : BitVec 4} (h0 : h.getD 13 0 ≠ 0)
  (h32 : (h.getD 13 0).toNat % 32 = 0) (hq : t.launchQueue h = some (die, o))
include h0 h32 hq

theorem launchRead_full (hl : Config.deviceQueueSize ≤ (t.devq.filter (fun e => e.die = die && e.owner = o)).length) :
    launchRead d x h t = .ok (t.gives d 1) := by
  unfold launchRead
  rw [if_neg (not_or.2 ⟨h0, not_not.2 h32⟩), hq]
  exact if_pos hl

theorem launchRead_queues (hl : (t.devq.filter (fun e => e.die = die && e.owner = o)).length < Config.deviceQueueSize) (hn : t.NonePosted) :
    launchRead d x h t = .ok ({ t.gives d 0 with devq := t.devq ++ [(⟨die, o, h, x⟩ : DevEntry)] }.post (.launchAccept (.device die o))) := by
  unfold launchRead
  rw [if_neg (not_or.2 ⟨h0, not_not.2 h32⟩), hq]
  simp only
  rw [if_neg (Nat.not_le.2 hl), State.release_nonePosted hn]
  rfl

end

/-! ### Host queues (R32 to R35) -/

/-- A Kiosk core looks at a queue's entries: some wait, and neither the queue nor its owner nor the control link stops it. -/
def State.QueueReady (s : State) (x : HostQueue) : Prop :=
  x.stopped = false ∧ (s.ownerRec x.owner).frozen = none ∧ s.ctlUp = true ∧ (x.tail - x.head).toNat ≠ 0

theorem State.mem_modQueue {s : State} {x : HostQueue} (h : x ∈ s.hostq) (f : HostQueue → HostQueue) : f x ∈ (s.modQueue x.number f).hostq :=
  List.mem_map.2 ⟨x, h, if_pos rfl⟩

theorem State.mem_modQueue_ne {s : State} {x : HostQueue} {q : Nat} (h : x ∈ s.hostq) (hq : x.number ≠ q) (f : HostQueue → HostQueue) :
    x ∈ (s.modQueue q f).hostq :=
  List.mem_map.2 ⟨x, h, if_neg hq⟩

/-- The next entry of a host queue has been accepted, at a die. -/
def State.entryTaken (s : State) (x : HostQueue) (die : Nat) : State :=
  ((s.entryHeader x).2.accept x.owner (.host x.number) x.head.toNat die (s.entryHeader x).1).modQueue x.number
    (fun y => { y with head := y.head + 1 })

/-- Reading an entry's header changes no check of it. -/
theorem State.headerCheck_entryHeader (s : State) (x : HostQueue) (o : BitVec 4) (h : List Word) :
    (s.entryHeader x).2.headerCheck o h = s.headerCheck o h := (launchesKept_peek s x.entryAt 16).headerCheck o h

theorem State.entryTaken_leaves {s : State} {x : HostQueue} (hx : x ∈ s.hostq) (hh : s.headerCheck x.owner (s.entryHeader x).1 = none)
    (die : Nat) :
    { x with head := x.head + 1 } ∈ (s.entryTaken x die).hostq ∧
      ∃ id, (s.entryTaken x die).launches =
        s.launches ++ [newLaunch id x.owner (.host x.number) x.head.toNat die (s.entryHeader x).1] := by
  have hk : LaunchesKept s (s.entryHeader x).2 := launchesKept_peek s x.entryAt 16
  have hc := (s.headerCheck_entryHeader x _ _).trans hh
  unfold State.entryTaken
  generalize s.entryHeader x = p at hk hc ⊢
  obtain ⟨hl, -, hq, -⟩ := State.accept_live_leaves hc (.host x.number) x.head.toNat die
  rw [hk.hostq] at hq
  rw [hk.launches] at hl
  exact ⟨State.mem_modQueue (hq.symm ▸ hx) (fun y => { y with head := y.head + 1 }), _, hl⟩

/-- What a Kiosk core tests before it looks at a queue. -/
theorem State.QueueReady.not_idle {s : State} {x : HostQueue} (h : s.QueueReady x) :
    (x.stopped || (s.ownerRec x.owner).frozen.isSome || !s.ctlUp || decide ((x.tail - x.head).toNat = 0)) = false := by
  obtain ⟨hs, hf, hc, hw⟩ := h
  simp only [hs, hf, hc, hw, Option.isSome_none, Bool.not_true, decide_false, Bool.or_self]

section
variable {s : State} {x : HostQueue} (hr : s.QueueReady x)
include hr

theorem State.takeEntryOf_overfull (hn : x.entries.toNat < (x.tail - x.head).toNat) :
    s.takeEntryOf x = s.modQueue x.number (fun y => { y.report 2 y.head with stopped := true }) := by
  simp only [State.takeEntryOf, hr.not_idle, Bool.false_eq_true, if_false, if_pos hn]

theorem State.takeEntryOf_stalls (hn : (x.tail - x.head).toNat ≤ x.entries.toNat) (hm : s.entryStalls x = true) :
    s.takeEntryOf x = s.post (.launchAccept (.host x.number)) := by
  simp only [State.takeEntryOf, hr.not_idle, Bool.false_eq_true, if_false, if_neg (Nat.not_lt.2 hn), hm, if_true]

/-- An entry whose header passes its checks is accepted, and the next one is looked at where more wait. -/
theorem State.takeEntryOf_accepts (hn : (x.tail - x.head).toNat ≤ x.entries.toNat) (hm : s.entryStalls x = false)
    (hh : s.headerCheck x.owner (s.entryHeader x).1 = none) :
    ∃ die, s.takeEntryOf x = s.entryTaken x die ∨ s.takeEntryOf x = (s.entryTaken x die).post (.launchAccept (.host x.number)) := by
  have hk := (s.headerCheck_entryHeader x _ _).trans hh
  refine ⟨(((s.entryHeader x).2.locked x.owner).head?.map coreDie).getD 0, ?_⟩
  simp only [State.takeEntryOf, hr.not_idle, Bool.false_eq_true, if_false, if_neg (Nat.not_lt.2 hn), hm, hk, reduceCtorEq]
  by_cases h1 : 1 < (x.tail - x.head).toNat
  · exact .inr (if_pos h1)
  · exact .inl (if_neg h1)

end

theorem exec_launchAccept_host {s : State} {x : HostQueue} {q : Nat} (h : s.hostq.find? (fun y => y.number = q) = some x) :
    exec (.launchAccept (.host q)) s = .next (s.takeEntryOf x) := by
  show execLaunchAccept (.host q) s = _
  simp only [execLaunchAccept, h]

section
variable {s : State} {e : DevEntry} (h : s.devq.find? (fun x => x.die = e.die && x.owner = e.owner) = some e)
include h

theorem exec_launchAccept_device_stalls (hg : s.gangStalls e.header = true) :
    exec (.launchAccept (.device e.die e.owner)) s = .next (s.post (.launchAccept (.device e.die e.owner))) := by
  show execLaunchAccept (.device e.die e.owner) s = _
  simp only [execLaunchAccept, h, hg, if_true]

theorem exec_launchAccept_device (hg : s.gangStalls e.header = false) :
    exec (.launchAccept (.device e.die e.owner)) s =
      .next ({ s with devq := s.devq.erase e }.accept e.owner (.device e.die e.owner) 0 e.die e.header) := by
  show execLaunchAccept (.device e.die e.owner) s = _
  simp only [execLaunchAccept, h, hg, Bool.false_eq_true, if_false]

end

theorem exec_queueTailWrite_down {s : State} (h : s.ctlUp = false) (q : Nat) (tail : Word) : exec (.queueTailWrite q tail) s = .next s := by
  show execQueueTailWrite q tail s = _
  simp [execQueueTailWrite, h]

theorem exec_queueTailWrite_up {s : State} {x : HostQueue} (h : s.ctlUp = true) (hx : x ∈ s.hostq) (tail : Word) :
    exec (.queueTailWrite x.number tail) s =
      .next ((s.modQueue x.number (fun y => { y with tail := tail })).post (.launchAccept (.host x.number))) := by
  have hn : s.hostq.all (fun y => y.number != x.number) = false := List.all_eq_false.2 ⟨x, hx, by simp⟩
  show execQueueTailWrite x.number tail s = _
  simp only [execQueueTailWrite, h, hn, Bool.not_true, Bool.or_self, Bool.false_eq_true, if_false]

/-! ### The obligation -/

/-- Settles O41: it holds, by the cases of LAUNCH, of the acceptance of a device entry and of a host entry, and of a write of TAIL; an agent's
accesses to memory on the way keep the launches and the queues. -/
theorem launchSubmission : Obligations.LaunchSubmission := by
  refine ⟨fun d a x s hr hx hd => ⟨exec_launch_called hr hx hd, fun h t hf hw => ?_⟩, fun e s h => ⟨?_, fun hg hc => ?_, fun hg hc => ?_⟩,
    fun q x s h hs hf hc hw => ?_, fun q tail x s h hx hq => ?_, fun q tail s h => exec_queueTailWrite_down h q tail⟩
  · rw [exec_launch_read hr hx hd hf hw]
    refine ⟨fun hb => ?_, fun die o h0 h32 hq => ⟨fun hl => ?_, fun hl hn => ?_⟩⟩
    · rw [launchRead_badRecord hb, settle_ok]
    · rw [launchRead_full h0 h32 hq hl, settle_ok]
    · rw [launchRead_queues h0 h32 hq hl hn, settle_ok]
      exact ⟨_, rfl, t.g_gives d 0, rfl, rfl, rfl⟩
  · exact exec_launchAccept_device_stalls h
  · obtain ⟨hl, hd, -, ha, hm⟩ :=
      State.accept_live_leaves (s := { s with devq := s.devq.erase e }) hc (.device e.die e.owner) 0 e.die
    exact ⟨_, _, exec_launchAccept_device h hg, hd, hl, rfl, rfl, rfl, rfl, rfl, rfl, rfl, ha, hm⟩
  · have hk := launchesKept_accept_refused (s := { s with devq := s.devq.erase e }) hc e.owner e.die 0 e.die
    exact ⟨_, exec_launchAccept_device h hg, hk.devq, hk.launches⟩
  · obtain rfl : x.number = q := by simpa using List.find?_some h
    have hx : x ∈ s.hostq := List.mem_of_find?_eq_some h
    have hr : s.QueueReady x := ⟨hs, hf, hc, hw⟩
    rw [exec_launchAccept_host h]
    refine ⟨fun hn => ?_, fun hn hm => ?_, fun hn hm hh => ?_⟩
    · rw [State.takeEntryOf_overfull hr hn]
      exact ⟨_, rfl, rfl, State.mem_modQueue hx _⟩
    · rw [State.takeEntryOf_stalls hr hn hm]
    · obtain ⟨die, ht⟩ := State.takeEntryOf_accepts hr hn hm hh
      obtain ⟨hq, id, hl⟩ := State.entryTaken_leaves hx hh die
      generalize s.entryTaken x die = t at ht hq hl
      generalize (s.entryHeader x).1 = w at hl ⊢
      rcases ht with e | e <;> exact ⟨_, _, congrArg _ e, hq, hl, rfl, rfl, rfl, rfl⟩
  · subst hq
    rw [exec_queueTailWrite_up h hx]
    exact ⟨_, rfl, State.mem_modQueue hx _, rfl, fun y hy hn => State.mem_modQueue_ne hy hn _⟩

end Sys2Proof.Machine
end

section
/-! Handles and the Trellis (O46). The rules of entries and of handle operands, then HALLOC, HFREE, HMOV, HINFO, HSPLIT and HJOIN, each by the
state that it ends in on operands that pass its checks, and what that state holds. -/

namespace Sys2Proof.Machine

/-! ### Trellis entries after an update (R331) -/

theorem entryKey_inj {die : Nat} {m n : BitVec 16} (h : entryKey die m = entryKey die n) : m = n :=
  BitVec.eq_of_toNat_eq (Nat.add_left_cancel h)

@[simp] theorem State.entry_modEntry (s : State) (die : Nat) (n : BitVec 16) (f : TEntry → TEntry) :
    (s.modEntry die n f).entry die n = f (s.entry die n) := getKey_putKey ..

theorem State.entry_modEntry_ne (s : State) {die : Nat} {m n : BitVec 16} (f : TEntry → TEntry) (h : m ≠ n) :
    (s.modEntry die n f).entry die m = s.entry die m := getKey_putKey_ne _ _ _ (fun e => h (entryKey_inj e))

theorem State.entry_freeEntryAt (s : State) (die : Nat) (n : BitVec 16) :
    (s.freeEntryAt die n).entry die n = { freeEntry with gen := (s.entry die n).gen, pending := (s.entry die n).pending } :=
  State.entry_modEntry ..

theorem State.entry_freeEntryAt_ne (s : State) {die : Nat} {m n : BitVec 16} (h : m ≠ n) :
    (s.freeEntryAt die n).entry die m = s.entry die m := State.entry_modEntry_ne _ _ h

@[simp] theorem State.modEntry_act (s : State) (die : Nat) (n : BitVec 16) (f : TEntry → TEntry) : (s.modEntry die n f).act = s.act := rfl
@[simp] theorem State.modEntry_me (s : State) (die : Nat) (n : BitVec 16) (f : TEntry → TEntry) : (s.modEntry die n f).me = s.me := rfl
@[simp] theorem State.modEntry_core (s : State) (die : Nat) (n : BitVec 16) (f : TEntry → TEntry) : (s.modEntry die n f).core = s.core := rfl
@[simp] theorem State.freeEntryAt_act (s : State) (die : Nat) (n : BitVec 16) : (s.freeEntryAt die n).act = s.act := rfl
@[simp] theorem State.entry_setMe (s : State) (t : Thread) : (s.setMe t).entry = s.entry := rfl
@[simp] theorem State.entry_fell (s : State) : s.fell.entry = s.entry := rfl

/-- Taking an entry changes no entry and uses a free value (R331). -/
theorem State.takeEntry_spent {s t : State} {die : Nat} {other : Option Nat} {n : BitVec 16} (h : s.takeEntry die other = .ok (n, t)) :
    t = s.spent := by
  unfold State.takeEntry at h
  split at h
  · cases h; rfl
  · cases h

/-- An entry taken beside another is not that one (R339). -/
theorem State.takeEntry_ne {s t : State} {die : Nat} {l n : BitVec 16} (h : s.takeEntry die (some l.toNat) = .ok (n, t)) : n ≠ l := by
  unfold State.takeEntry at h
  split at h
  next m hm =>
    obtain ⟨hf, hn⟩ := List.mem_filter.1 (List.mem_of_getElem? hm)
    cases h
    rintro rfl
    simp only [State.freeEntries, List.mem_filter, List.mem_range] at hf
    simp [Nat.mod_eq_of_lt hf.1] at hn
  · cases h

/-! ### Operands that hold handles (R330, R333, R334) -/

theorem State.trellisPort_ok {s : State} (h : s.isCompute s.act.core = true) : s.trellisPort = .ok () := by
  simp [State.trellisPort, h, faultIf]

/-- Register a of the executing thread holds a handle of entry n, which reads as e. -/
structure State.HoldsEntry (s : State) (a : R) (n : BitVec 16) (e : TEntry) : Prop where
  ne_zero : a ≠ 0
  reads   : s.Reads a (s.me.greg a).val
  number  : n = handleEntry (s.me.greg a).val
  entry   : e = s.entry s.die n

theorem Thread.ne_zero_of_handle {t : Thread} {a : R} (h : t.tagOf a = .handle) : a ≠ 0 := by
  rintro rfl
  exact absurd h (by simp [Thread.tagOf])

theorem Thread.rdG_handle {t : Thread} {a : R} (h : t.tagOf a = .handle) : t.rdG a = .ok (t.greg a).val := by
  have ha := Thread.ne_zero_of_handle h
  simp only [Thread.rdG, h, ha, if_false]

theorem State.heldHandle_holds {s : State} {a : R} {n : BitVec 16} {e : TEntry} (h : s.heldHandle a = .ok (n, e)) : s.HoldsEntry a n e := by
  have ht : s.me.tagOf a = .handle := by
    by_contra ht
    rcases s.me.rdG_cases a with ⟨x, hx⟩ | ⟨-, hx⟩ <;>
      simp [State.heldHandle, hx, ht, faultIf, bind, Except.bind, raise] at h
  have hr := Thread.rdG_handle ht
  simp only [State.heldHandle, hr, ht, bind, Except.bind, faultIf, raise] at h
  repeat' split at h
  all_goals cases h
  exact ⟨Thread.ne_zero_of_handle ht, hr, rfl, rfl⟩

theorem Thread.handleDest_ok {t : Thread} {d : R} {used : List R} (h : d ∈ used ∨ t.tagOf d ≠ .handle) : t.handleDest d used = .ok () := by
  unfold Thread.handleDest
  split
  next => rfl
  next hc => exact Thread.freeG_ok (h.resolve_left (by simpa using hc))

theorem handleFault_eq (c : Cause) {n : Nat} (a : R) (h : n < 256) : handleFault c n a = ⟨c, 0, .ofNat 64 (n + 256 * a.toNat)⟩ := by
  have ha := a.isLt
  have e : BitVec.ofNat 64 n ||| a.setWidth 64 <<< 8 = .ofNat 64 (n + 256 * a.toNat) := by
    apply BitVec.eq_of_toNat_eq
    have hs : a.toNat <<< 8 = a.toNat * 256 := Nat.shiftLeft_eq ..
    rw [BitVec.toNat_or, BitVec.toNat_shiftLeft, BitVec.toNat_setWidth, BitVec.toNat_ofNat, BitVec.toNat_ofNat, Nat.or_comm,
      Nat.mod_eq_of_lt (a := n) (by omega), Nat.mod_eq_of_lt (a := a.toNat) (by omega), Nat.mod_eq_of_lt (by omega),
      ← Nat.shiftLeft_add_eq_or_of_lt (by omega), hs]
    omega
  simp only [handleFault, flt, e]

@[simp] theorem handleValue_entry (n : BitVec 16) (gen : BitVec 8) : (handleValue n gen).extractLsb' 48 16 = n := by
  have e : (n ++ gen ++ 0#40 : BitVec (16 + 8 + 40)).extractLsb' 48 16 = n := by
    rw [BitVec.extractLsb'_append_eq_of_le (by decide), BitVec.extractLsb'_append_eq_of_le (by decide)]
    simp
  exact e

theorem Thread.moveFrom_tag (t : Thread) {a : R} (h : a ≠ 0) : ((t.moveFrom a).greg a).tag = .movedFrom := by
  rw [Thread.moveFrom, Thread.greg_setG _ _ _ _ h]

/-! ### HALLOC and HFREE (R336, R337) -/

/-- The bytes of a tile with a descriptor (R335). -/
def tileSize (w : List Word) : Nat :=
  tileElem ((w.getD 2 0).extractLsb' 0 4) * axisOf (w.getD 1 0) 0 * axisOf (w.getD 1 0) 1 * axisOf (w.getD 1 0) 2 * axisOf (w.getD 1 0) 3

/-- The entry of a new root that a descriptor gives to a domain (R336). -/
def rootEntry (w : List Word) (n : BitVec 16) (gen : BitVec 8) (dom : BitVec 8) : TEntry :=
  ⟨w.getD 0 0, 0, w.getD 1 0, n, n, gen, dom, (w.getD 2 0).extractLsb' 0 4, (w.getD 2 0).extractLsb' 4 2, 0, .held, [], none⟩

theorem exec_halloc {s s1 s2 s3 : State} {d a : R} {va : Word} {w : List Word} {x : List (Nat × Nat)} {n : BitVec 16}
    (hc : s.isCompute s.act.core = true) (hd : s.Takes d) (hr : s.Reads a va) (ha : va.toNat % 8 = 0)
    (hw : s.readWords (fun _ => none) va 4 = .ok (w, s1)) (ht : tileOk w = true)
    (hx : s1.globalSpan { write := true, size := 1, align := 1, ex := true } (w.getD 0 0) (tileSize w) = .ok (x, s2))
    (ho : s2.overlaps (w.getD 0 0) (tileSize w) = false) (hn : s2.takeEntry s2.die none = .ok (n, s3)) :
    let gen := (s3.entry s3.die n).gen + 1
    exec (.halloc d a) s = .next ((s3.modEntry s3.die n (fun _ => rootEntry w n gen s3.me.domid)).setMe
      (s3.me.setG d (handleValue n gen) .handle)).fell := by
  unfold State.Reads at hr
  unfold tileSize at hx ho
  show execHalloc d a s = _
  simp only [execHalloc, State.trellisPort_ok hc, Thread.freeG_ok hd, hr, ha, hw, ht, hx, ho, hn, faultIf, bind, Except.bind,
    ne_eq, not_true_eq_false, decide_false, Bool.not_true, Bool.false_eq_true, if_false]
  rfl

section
variable {s : State} {a : R} {n : BitVec 16} {e : TEntry} (hc : s.isCompute s.act.core = true) (h : s.heldHandle a = .ok (n, e))
include hc h

theorem exec_hfree_root (hp : e.parent = n) (hq : e.pending = []) :
    exec (.hfree a) s = .next ((s.freeEntryAt s.die n).setMe (s.me.moveFrom a)).fell := by
  show execHfree a s = _
  simp only [execHfree, State.trellisPort_ok hc, h, hp, hq, faultIf, bind, Except.bind, decide_true, Bool.true_or, Bool.not_true,
    Bool.false_eq_true, ne_eq, not_true_eq_false, if_false, if_true]
  rfl

theorem exec_hfree_waits (hp : e.parent = n) (hq : e.pending ≠ []) :
    exec (.hfree a) s = .next (s.waits (some (.handle s.die [n]))) := by
  show execHfree a s = _
  simp only [execHfree, State.trellisPort_ok hc, h, hp, hq, faultIf, bind, Except.bind, decide_true, Bool.true_or, Bool.not_true,
    Bool.false_eq_true, ne_eq, not_false_eq_true, if_false, if_true]
  rfl

theorem exec_hfree_child (hp : e.parent ≠ n) (hs : (s.entry s.die e.sibling).state ≠ .lost) :
    exec (.hfree a) s = .next (s.trap (handleFault .handleMismatch 5 a)) := by
  have ho : s.orphan s.die n = false := by
    simp [State.orphan, ← (State.heldHandle_holds h).entry, hs]
  show execHfree a s = _
  simp only [execHfree, State.trellisPort_ok hc, h, hp, ho, faultIf, raise, bind, Except.bind, decide_false, Bool.or_self, Bool.not_false,
    if_true]
  rfl

/-! ### HMOV and HINFO (R343, R344) -/

theorem exec_hmov {d : R} (hd : d ≠ a) (ht : s.Takes d) :
    exec (.hmov d a) s = .next (s.setMe ((s.me.setG d (s.me.greg a).val .handle).setG a 0 .movedFrom)).fell := by
  have hr : s.me.rdG a = .ok (s.me.greg a).val := (State.heldHandle_holds h).reads
  show execHmov d a s = _
  simp only [execHmov, State.trellisPort_ok hc, h, hd, Thread.freeG_ok ht, hr, bind, Except.bind, if_false]
  rfl

theorem exec_hmov_self : exec (.hmov a a) s = .next s.fell := by
  show execHmov a a s = _
  simp only [execHmov, State.trellisPort_ok hc, h, bind, Except.bind, if_true]
  rfl

theorem exec_hinfo {d : R} (sel : BitVec 2) (ht : s.Takes d) :
    exec (.hinfo d a sel) s = .next (s.gives d (if sel = 0 then e.last else if sel = 1 then e.org else if sel = 2 then e.ext else e.base)) := by
  show execHinfo d a sel s = _
  simp only [execHinfo, State.trellisPort_ok hc, h, Thread.wrG_ok _ ht, bind, Except.bind]
  have hsel : sel = 0 ∨ sel = 1 ∨ sel = 2 ∨ sel = 3 := by revert sel; decide
  obtain rfl | rfl | rfl | rfl := hsel <;> rfl

end

/-! ### HSPLIT and HJOIN (R339, R340) -/

theorem axisOf_lt (x : Word) (i : Nat) : axisOf x i < 65536 := (x.extractLsb' (16 * i) 16).isLt

theorem axisOf_setAxis (x : Word) {i : Nat} (v : Nat) (hi : i < 4) : axisOf (setAxis x i v) i = v % 65536 := by
  have e : (setAxis x i v).extractLsb' (16 * i) 16 = .ofNat 16 v := by
    apply BitVec.eq_of_getLsbD_eq
    intro j hj
    have h1 : ¬ 16 * i + j < 16 * i := by omega
    have h2 : 16 * i + j < 64 := by omega
    have h3 : Nat.testBit 65535 j = true := by simpa [hj] using Nat.testBit_two_pow_sub_one 16 j
    have h4 : (v % 65536).testBit j = v.testBit j := by simpa [hj] using Nat.testBit_mod_two_pow v 16 j
    have h5 : j < 64 := by omega
    simp only [setAxis, BitVec.getLsbD_extractLsb', BitVec.getLsbD_or, BitVec.getLsbD_and, BitVec.getLsbD_not, BitVec.getLsbD_shiftLeft,
      BitVec.getLsbD_ofNat, hj, h1, h2, h3, h4, h5, Nat.add_sub_cancel_left, decide_true, decide_false, Bool.not_false, Bool.not_true,
      Bool.true_and, Bool.and_false, Bool.false_or]
  rw [axisOf, e, BitVec.toNat_ofNat]

/-- The child of a split that keeps the part below the cut (R339). -/
def lowerChild (e : TEntry) (p u : BitVec 16) (gen : BitVec 8) (axis cut : Nat) : TEntry :=
  { e with parent := p, axis := .ofNat 2 axis, state := .held, word := none, ext := setAxis e.ext axis cut, sibling := u, gen := gen }

/-- The child of a split that takes the part from the cut on (R339). -/
def upperChild (e : TEntry) (p l : BitVec 16) (gen : BitVec 8) (axis cut : Nat) : TEntry :=
  { e with
    parent := p, axis := .ofNat 2 axis, state := .held, word := none
    org := setAxis e.org axis (axisOf e.org axis + cut), ext := setAxis e.ext axis (axisOf e.ext axis - cut), sibling := l, gen := gen }

/-- The two free entries of a die after its HSPLIT, with the entry that it splits. -/
def State.splitEntry (s : State) (p l u : BitVec 16) (e : TEntry) (axis cut : Nat) : State :=
  ((s.modEntry s.die l (fun _ => lowerChild e p u ((s.entry s.die l).gen + 1) axis cut)).modEntry s.die u
    (fun _ => upperChild e p l ((s.entry s.die u).gen + 1) axis cut)).modEntry s.die p (fun e => { e with state := .split })

theorem exec_hsplit {s s1 s2 : State} {d a b : R} {p l u : BitVec 16} {e : TEntry} {x : Word} (hc : s.isCompute s.act.core = true)
    (h : s.heldHandle a = .ok (p, e)) (hx : s.Reads b x) (hd : d = a ∨ s.Takes d) (hd1 : d + 1 = a ∨ s.Takes (d + 1))
    (hz : x.extractLsb' 18 46 = 0) (ha : (x.extractLsb' 16 2).toNat ≤ e.rank.toNat) (h0 : 0 < (x.extractLsb' 0 16).toNat)
    (hlt : (x.extractLsb' 0 16).toNat < axisOf e.ext (x.extractLsb' 16 2).toNat) (hl : s.takeEntry s.die none = .ok (l, s1))
    (hu : s1.takeEntry s.die (some l.toNat) = .ok (u, s2)) :
    exec (.hsplit d a b) s =
      .next ((s2.splitEntry p l u e (x.extractLsb' 16 2).toNat (x.extractLsb' 0 16).toNat).setMe
        (((s2.me.moveFrom a).setG d (handleValue l ((s2.entry s2.die l).gen + 1)) .handle).setG (d + 1)
          (handleValue u ((s2.entry s2.die u).gen + 1)) .handle)).fell := by
  have hd' : s.me.handleDest d [a] = .ok () := Thread.handleDest_ok (hd.imp_left List.mem_singleton.2)
  have hd1' : s.me.handleDest (d + 1) [a] = .ok () := Thread.handleDest_ok (hd1.imp_left List.mem_singleton.2)
  have hu' : s1.takeEntry s1.die (some l.toNat) = .ok (u, s2) := by
    rw [State.takeEntry_spent hl] at hu ⊢
    exact hu
  unfold State.Reads at hx
  show execHsplit d a b s = _
  simp only [execHsplit, State.trellisPort_ok hc, h, hx, hd', hd1', hz, hl, hu', faultIf, bind, Except.bind, ne_eq, not_true_eq_false,
    decide_false, Nat.not_lt.2 ha, Nat.not_le.2 hlt, Nat.ne_of_gt h0, Bool.or_self, Bool.false_eq_true, if_false]
  rfl

section
variable {s : State} {d a b : R} {m n : BitVec 16} {x y : TEntry} (hc : s.isCompute s.act.core = true)
  (ha : s.heldHandle a = .ok (m, x)) (hb : s.heldHandle b = .ok (n, y)) (hd : d = a ∨ d = b ∨ s.Takes d) (hmn : m ≠ n)
  (hxm : x.parent ≠ m) (hp : x.parent = y.parent) (hxn : x.sibling = n) (hym : y.sibling = m)

include hmn hxm hp hxn hym in
/-- The test of HJOIN finds the two children of one split (R340). -/
theorem joins_test :
    (decide (m = n) || decide (x.parent = m) || decide (x.parent ≠ y.parent) || decide (x.sibling ≠ n) || decide (y.sibling ≠ m)) = false := by
  simp [hmn, hp, hxn, hym, hp ▸ hxm]

include hc ha hb hd hmn hxm hp hxn hym

theorem exec_hjoin (hx : x.pending = []) (hy : y.pending = []) :
    let t := ((s.freeEntryAt s.die m).freeEntryAt s.die n).modEntry s.die x.parent (fun e => { e with state := .held })
    exec (.hjoin d a b) s =
      .next (t.setMe (((s.me.moveFrom a).moveFrom b).setG d (handleValue x.parent (t.entry s.die x.parent).gen) .handle)).fell := by
  have hd' : s.me.handleDest d [a, b] = .ok () :=
    Thread.handleDest_ok ((or_assoc.2 hd).imp_left (by simp))
  show execHjoin d a b s = _
  simp only [execHjoin, State.trellisPort_ok hc, ha, hb, hd', joins_test hmn hxm hp hxn hym, hx, hy, faultIf, bind, Except.bind, ne_eq,
    not_true_eq_false, or_self, Bool.false_eq_true, if_false]
  rfl

theorem exec_hjoin_waits (hq : x.pending ≠ [] ∨ y.pending ≠ []) :
    exec (.hjoin d a b) s = .next (s.waits (some (.handle s.die [m, n]))) := by
  have hd' : s.me.handleDest d [a, b] = .ok () :=
    Thread.handleDest_ok ((or_assoc.2 hd).imp_left (by simp))
  show execHjoin d a b s = _
  simp only [execHjoin, State.trellisPort_ok hc, ha, hb, hd', joins_test hmn hxm hp hxn hym, hq, faultIf, bind, Except.bind,
    Bool.false_eq_true, if_false, if_true]
  rfl

end

/-! ### What the handle instructions leave -/

theorem State.greg_setMe_fell (s : State) (t : Thread) (n : R) : (s.setMe t).fell.me.greg n = t.greg n := by simp [Thread.greg]

/-- HALLOC makes a held root under the next generation, and no other entry changes (R336). -/
theorem halloc_leaves (s : State) (d : R) (w : List Word) (n : BitVec 16) :
    let gen := (s.entry s.die n).gen + 1
    let t := ((s.modEntry s.die n (fun _ => rootEntry w n gen s.me.domid)).setMe (s.me.setG d (handleValue n gen) .handle)).fell
    t.entry s.die n = rootEntry w n gen s.me.domid ∧
      t.me.greg d = (if d = 0 then s.me.greg 0 else ⟨handleValue n gen, .handle⟩) ∧ t.me.pc = s.act.next ∧
      ∀ k : Nat, k ≠ entryKey s.die n → getKey k freeEntry t.trellis = getKey k freeEntry s.trellis := by
  intro gen t
  refine ⟨by simp [t], ?_, by simp [t], fun k hk => getKey_putKey_ne _ _ _ hk⟩
  rw [State.greg_setMe_fell]
  split
  next h => subst h; rfl
  next h => exact Thread.greg_setG _ _ _ _ h

theorem hfree_leaves (s : State) (n : BitVec 16) {a : R} (h : a ≠ 0) :
    let t := ((s.freeEntryAt s.die n).setMe (s.me.moveFrom a)).fell
    (t.entry s.die n).state = .free ∧ (t.entry s.die n).gen = (s.entry s.die n).gen ∧ (t.me.greg a).tag = .movedFrom ∧
      t.me.pc = s.act.next := by
  intro t
  have he : t.entry s.die n = _ := s.entry_freeEntryAt ..
  exact ⟨by rw [he]; rfl, by rw [he], by rw [State.greg_setMe_fell, Thread.moveFrom_tag _ h], by simp [t]⟩

section
variable (s : State) {p l u : BitVec 16} (e : TEntry) (axis cut : Nat) (hpl : p ≠ l) (hpu : p ≠ u) (hul : u ≠ l)

theorem State.splitEntry_parent : ((s.splitEntry p l u e axis cut).entry s.die p).state = .split := by
  rw [State.splitEntry, State.entry_modEntry]

include hpl hul in
theorem State.splitEntry_lower :
    (s.splitEntry p l u e axis cut).entry s.die l = lowerChild e p u ((s.entry s.die l).gen + 1) axis cut := by
  rw [State.splitEntry, State.entry_modEntry_ne _ _ hpl.symm, State.entry_modEntry_ne _ _ hul.symm, State.entry_modEntry]

include hpu in
theorem State.splitEntry_upper :
    (s.splitEntry p l u e axis cut).entry s.die u = upperChild e p l ((s.entry s.die u).gen + 1) axis cut := by
  rw [State.splitEntry, State.entry_modEntry_ne _ _ hpu.symm, State.entry_modEntry]

end

theorem lowerChild_part (e : TEntry) (p u : BitVec 16) (gen : BitVec 8) {axis cut : Nat} (ha : axis < 4) (hc : cut < 65536) :
    let y := lowerChild e p u gen axis cut
    y.state = .held ∧ y.parent = p ∧ y.sibling = u ∧ axisOf y.ext axis = cut ∧ y.org = e.org :=
  ⟨rfl, rfl, rfl, (axisOf_setAxis _ _ ha).trans (Nat.mod_eq_of_lt hc), rfl⟩

theorem upperChild_part (e : TEntry) (p l : BitVec 16) (gen : BitVec 8) {axis : Nat} (cut : Nat) (ha : axis < 4) :
    let y := upperChild e p l gen axis cut
    y.state = .held ∧ y.parent = p ∧ y.sibling = l ∧ axisOf y.ext axis = axisOf e.ext axis - cut ∧
      axisOf y.org axis = (axisOf e.org axis + cut) % 65536 :=
  ⟨rfl, rfl, rfl, (axisOf_setAxis _ _ ha).trans (Nat.mod_eq_of_lt ((Nat.sub_le ..).trans_lt (axisOf_lt ..))), axisOf_setAxis _ _ ha⟩

/-- The registers after HSPLIT: two handles, and the operand moved from unless one of them is in it (R338, R339). -/
theorem Thread.hsplit_regs (t : Thread) {a d : R} (v w : Word) (ha : a ≠ 0) (hd : d ≠ 0) (hd1 : d + 1 ≠ 0) :
    let r := ((t.moveFrom a).setG d v .handle).setG (d + 1) w .handle
    r.greg d = ⟨v, .handle⟩ ∧ r.greg (d + 1) = ⟨w, .handle⟩ ∧ (a ≠ d → a ≠ d + 1 → (r.greg a).tag = .movedFrom) := by
  have hne : d ≠ d + 1 := by bv_omega
  refine ⟨?_, Thread.greg_setG _ _ _ _ hd1, fun h h1 => ?_⟩
  · rw [Thread.greg_setG_ne _ _ _ hne, Thread.greg_setG _ _ _ _ hd]
  · rw [Thread.greg_setG_ne _ _ _ h1, Thread.greg_setG_ne _ _ _ h, Thread.moveFrom_tag _ ha]

/-- HSPLIT leaves a split entry with two held children, and their handles in gd and g(d + 1) (R339). -/
theorem hsplit_leaves (s : State) {a d : R} {p l u : BitVec 16} (e : TEntry) {axis cut : Nat} (hpl : p ≠ l) (hpu : p ≠ u) (hul : u ≠ l)
    (ha : axis < 4) (hc : cut < 65536) (h0 : a ≠ 0) (hd : d ≠ 0) (hd1 : d + 1 ≠ 0) (v w : BitVec 8) :
    let t := ((s.splitEntry p l u e axis cut).setMe
      (((s.me.moveFrom a).setG d (handleValue l v) .handle).setG (d + 1) (handleValue u w) .handle)).fell
    (t.entry s.die p).state = .split ∧
      (let y := t.entry s.die l; y.state = .held ∧ y.parent = p ∧ y.sibling = u ∧ axisOf y.ext axis = cut ∧ y.org = e.org) ∧
      (let y := t.entry s.die u; y.state = .held ∧ y.parent = p ∧ y.sibling = l ∧ axisOf y.ext axis = axisOf e.ext axis - cut ∧
        axisOf y.org axis = (axisOf e.org axis + cut) % 65536) ∧
      (t.me.greg d).tag = .handle ∧ (t.me.greg d).val.extractLsb' 48 16 = l ∧ (t.me.greg (d + 1)).val.extractLsb' 48 16 = u ∧
      (a ≠ d → a ≠ d + 1 → (t.me.greg a).tag = .movedFrom) := by
  intro t
  have hl : t.entry s.die l = _ := s.splitEntry_lower e axis cut hpl hul
  have hu : t.entry s.die u = _ := s.splitEntry_upper e axis cut hpu
  obtain ⟨hgd, hgd1, hga⟩ := s.me.hsplit_regs (handleValue l v) (handleValue u w) h0 hd hd1
  simp only [hl, hu, t, State.greg_setMe_fell, hgd, hgd1, handleValue_entry, true_and]
  exact ⟨s.splitEntry_parent e axis cut, lowerChild_part e p u _ ha hc, upperChild_part e p l _ cut ha, hga⟩

theorem hjoin_leaves (s : State) {m n q : BitVec 16} (hmn : m ≠ n) (hqm : q ≠ m) (hqn : q ≠ n) :
    let t := ((s.freeEntryAt s.die m).freeEntryAt s.die n).modEntry s.die q (fun e => { e with state := .held })
    (t.entry s.die q).state = .held ∧ (t.entry s.die q).gen = (s.entry s.die q).gen ∧ (t.entry s.die m).state = .free ∧
      (t.entry s.die n).state = .free := by
  intro t
  have hq : t.entry s.die q = _ := State.entry_modEntry ..
  have hm : t.entry s.die m = _ := State.entry_modEntry_ne _ _ hqm.symm
  have hn : t.entry s.die n = _ := State.entry_modEntry_ne _ _ hqn.symm
  refine ⟨by rw [hq], ?_, ?_, ?_⟩
  · rw [hq, State.entry_freeEntryAt_ne _ hqn, State.entry_freeEntryAt_ne _ hqm]
  · rw [hm, State.entry_freeEntryAt_ne _ hmn, State.entry_freeEntryAt]; rfl
  · rw [hn, State.entry_freeEntryAt]; rfl

end Sys2Proof.Machine
end

section
/-! Handles in pool words (O46). What an event changes, how a full/empty instruction reaches a word of its own pool, and PUTH and TAKEH. -/

namespace Sys2Proof.Machine

/-! ### What an event and an accounting change

A change of a full bit is an event, and the reply of an engine's access is accounted (R139, R406): waits end, continuations become
resumable, accumulators count. `Stirs` says that two states differ in no more than that. -/

/-- The core k' is k but for what its threads wait for, its parked continuations and its accumulators. -/
structure CoreStirs (k k' : Core) : Prop where
  rest   : k' = { k with threads := k'.threads, parked := k'.parked, sums := k'.sums, cnts := k'.cnts }
  thread : ∀ i, { k'.thread i with wait := none } = { k.thread i with wait := none }

/-- The state t is s but for such changes of its cores and free values used. -/
structure Stirs (s t : State) : Prop where
  rest : t = { s with cores := t.cores, fresh := t.fresh }
  core : ∀ c, CoreStirs (s.getCore c) (t.getCore c)

theorem CoreStirs.refl (k : Core) : CoreStirs k k := ⟨rfl, fun _ => rfl⟩

theorem CoreStirs.trans {k l m : Core} (h : CoreStirs k l) (h' : CoreStirs l m) : CoreStirs k m :=
  ⟨h'.rest.trans (by rw [h.rest]), fun i => (h'.thread i).trans (h.thread i)⟩

theorem Stirs.refl (s : State) : Stirs s s := ⟨rfl, fun _ => .refl _⟩

theorem Stirs.trans {s t u : State} (h : Stirs s t) (h' : Stirs t u) : Stirs s u :=
  ⟨h'.rest.trans (by rw [h.rest]), fun c => (h.core c).trans (h'.core c)⟩

theorem CoreStirs.pool {k l : Core} (h : CoreStirs k l) : l.pool = k.pool := by rw [h.rest]
theorem CoreStirs.full {k l : Core} (h : CoreStirs k l) : l.full = k.full := by rw [h.rest]
theorem CoreStirs.marks {k l : Core} (h : CoreStirs k l) : l.marks = k.marks := by rw [h.rest]
theorem CoreStirs.deferred {k l : Core} (h : CoreStirs k l) : l.deferred = k.deferred := by rw [h.rest]
theorem CoreStirs.owner {k l : Core} (h : CoreStirs k l) : l.owner = k.owner := by rw [h.rest]

theorem CoreStirs.regionOf {k l : Core} (h : CoreStirs k l) (w : Nat) : regionOf l w = regionOf k w := by rw [h.rest]; rfl

theorem Stirs.act {s t : State} (h : Stirs s t) : t.act = s.act := by rw [h.rest]
theorem Stirs.mem {s t : State} (h : Stirs s t) : t.mem = s.mem := by rw [h.rest]
theorem Stirs.hostLine {s t : State} (h : Stirs s t) : t.hostLine = s.hostLine := by rw [h.rest]
theorem Stirs.trellis {s t : State} (h : Stirs s t) : t.trellis = s.trellis := by rw [h.rest]

theorem Stirs.entry {s t : State} (h : Stirs s t) : t.entry = s.entry := by
  funext die n
  rw [State.entry, h.trellis, State.entry]

theorem Stirs.own {s t : State} (h : Stirs s t) : CoreStirs s.core t.core := by
  have hc := h.core s.act.core
  rw [State.core, State.core, h.act]
  exact hc

theorem Stirs.me {s t : State} (h : Stirs s t) : { t.me with wait := none } = { s.me with wait := none } := by
  have hi := (h.core s.act.core).thread s.act.thr
  rw [State.me, State.me, h.act]
  exact hi

theorem Stirs.g {s t : State} (h : Stirs s t) : t.me.g = s.me.g := by simpa using congrArg Thread.g h.me
theorem Stirs.pc {s t : State} (h : Stirs s t) : t.me.pc = s.me.pc := by simpa using congrArg Thread.pc h.me

theorem Stirs.greg {s t : State} (h : Stirs s t) (n : R) : t.me.greg n = s.me.greg n := by rw [Thread.greg, Thread.greg, h.g]

theorem Stirs.poolByte {s t : State} (h : Stirs s t) (c off : Nat) : t.poolByte c off = s.poolByte c off := by
  rw [State.poolByte, (h.core c).pool, State.poolByte]

/-! ### Changes of the cores -/

/-- A change of every core reaches the cores that hold state; the others are at reset. -/
theorem State.getCore_mapCores (s : State) (f : Nat → Core → Core) (c : Nat) :
    (s.mapCores f).getCore c = f c (s.getCore c) ∨ (s.mapCores f).getCore c = s.getCore c := by
  unfold State.mapCores State.getCore
  generalize s.cores = l
  induction l with
  | nil => exact .inr rfl
  | cons e r ih =>
    obtain ⟨n, k⟩ := e
    simp only [List.map_cons, getKey]
    split
    next h => subst h; exact .inl rfl
    next => exact ih

theorem CoreStirs.event (k : Core) (now : Nat) : CoreStirs k (k.event now) := by
  refine ⟨rfl, fun i => ?_⟩
  have e : (k.event now).thread i = (k.thread i).wakeParked := by simp [Core.event, Core.thread]
  rw [e, Thread.wakeParked]
  split
  · split <;> rfl
  · rfl

theorem CoreStirs.wakeIf (k : Core) (now : Nat) (f : Thread → Bool) : CoreStirs k (k.wakeIf now f) := ⟨rfl, fun _ => rfl⟩

theorem CoreStirs.account (k : Core) (ix : BitVec 6) (lat : Nat) : CoreStirs k (k.account ix lat) := ⟨rfl, fun _ => rfl⟩

/-- A core put for one that it stirs. -/
theorem Stirs.setCore {s t : State} (h : Stirs s t) (c : Nat) {k l : Core} (hk : CoreStirs k l) : Stirs (s.setCore c k) (t.setCore c l) := by
  refine ⟨by rw [h.rest]; rfl, fun d => ?_⟩
  by_cases hd : d = c
  · subst hd
    simpa using hk
  · simpa only [State.getCore_setCore_ne _ _ hd] using h.core d

theorem Stirs.setCore_setCore (s : State) (c : Nat) (k l : Core) : Stirs (s.setCore c l) ((s.setCore c k).setCore c l) := by
  refine ⟨rfl, fun d => ?_⟩
  by_cases hd : d = c
  · subst hd
    simpa using .refl l
  · simpa only [State.getCore_setCore_ne _ _ hd] using .refl _

theorem Stirs.setCore_self (s : State) (c : Nat) : Stirs s (s.setCore c (s.getCore c)) := by
  refine ⟨rfl, fun d => ?_⟩
  by_cases hd : d = c
  · subst hd
    simpa using .refl _
  · simpa only [State.getCore_setCore_ne _ _ hd] using .refl _

theorem Stirs.modEntry {s t : State} (h : Stirs s t) (die : Nat) (n : BitVec 16) (f : TEntry → TEntry) :
    Stirs (s.modEntry die n f) (t.modEntry die n f) :=
  ⟨by rw [h.rest]; rfl, h.core⟩

theorem Stirs.mapCores (s : State) {f : Nat → Core → Core} (h : ∀ c k, CoreStirs k (f c k)) : Stirs s (s.mapCores f) := by
  refine ⟨rfl, fun c => ?_⟩
  rcases s.getCore_mapCores f c with e | e <;> rw [e]
  · exact h ..
  · exact .refl _

theorem Stirs.accountAt (s : State) (c : Nat) (l : List (Option Nat)) : Stirs s (s.accountAt c l) := by
  have hs : Stirs s s.spent := ⟨rfl, fun _ => .refl _⟩
  unfold State.accountAt
  split
  · exact (hs.trans (.setCore_self _ c)).trans (.setCore (.refl _) c (.account ..))
  · exact hs

/-! ### Full bits and deferred lists -/

/-- The full bit of a word set or cleared. -/
def Core.withFull (k : Core) (off : Nat) (b : Bool) : Core :=
  { k with full := if b then k.full.filter (fun w => w != off) ++ [off] else k.full.filter (fun w => w != off) }

theorem Stirs.feSet (s : State) (c off : Nat) (b : Bool) : Stirs (s.setCore c ((s.getCore c).withFull off b)) (s.feSet c off b) :=
  .setCore (.refl s) c (.event ..)

theorem serveLoop_nil {s : State} {c : Nat} (h : (s.getCore c).deferred = []) (n off : Nat) : serveLoop n c off s = s := by
  cases n with
  | zero => rfl
  | succ n => simp [serveLoop, h]

/-- Where nothing waits in a core's deferred lists, a word serves none (R308). -/
theorem Stirs.serve {s : State} {c : Nat} (h : (s.getCore c).deferred = []) (off : Nat) : Stirs s (s.serve c off) := by
  have e : s.serve c off = s.wakeRoom c := by simp [State.serve, h, serveLoop_nil]
  rw [e, State.wakeRoom]
  split
  · exact .refl s
  · exact .mapCores s (fun _ k => .wakeIf ..)

/-! ### A full/empty instruction reaches a word of its own pool (R307) -/

theorem poolAddr_toNat {off : Nat} (h : off < 2 ^ 22) : (poolAddr off).toNat = 0xFFFE000000000000 + off := by
  rw [poolAddr, BitVec.toNat_add, BitVec.toNat_ofNat, Nat.mod_eq_of_lt (a := off) (by omega)]
  exact Nat.mod_eq_of_lt (by show 0xFFFE000000000000 + off < _; omega)

/-- The class, the window, the unused bits and the offset of an own-pool address (R176, R182). -/
theorem poolAddr_fields {off : Nat} (h : off < 2 ^ 22) :
    classOf (poolAddr off) = .own ∧ (poolAddr off).extractLsb' 36 12 = 0 ∧ (poolAddr off).extractLsb' 22 10 = 0 ∧
      (poolAddr off).extractLsb' 32 4 = 0 ∧ ((poolAddr off).extractLsb' 0 22).toNat = off := by
  have field : ∀ i n, ((poolAddr off).extractLsb' i n).toNat = (0xFFFE000000000000 + off) / 2 ^ i % 2 ^ n := fun i n => by
    rw [BitVec.extractLsb'_toNat, poolAddr_toNat h, Nat.shiftRight_eq_div_pow]
  have zero : ∀ i n, (0xFFFE000000000000 + off) / 2 ^ i % 2 ^ n = 0 → (poolAddr off).extractLsb' i n = 0 := fun i n hz =>
    BitVec.eq_of_toNat_eq (((field i n).trans hz).trans BitVec.toNat_zero.symm)
  refine ⟨?_, zero _ _ (by omega), zero _ _ (by omega), zero _ _ (by omega), by rw [field]; omega⟩
  have e : ((poolAddr off).extractLsb' 48 16).toNat = 0xFFFE := by rw [field]; omega
  simp [classOf, e]

section
variable {s : State} {off : Nat} (h : s.PoolSpan off 8)
include h

theorem State.PoolSpan.spanBad_none : spanBad s.core off 8 [1] = none := by
  obtain ⟨-, h1, h2, h3, -⟩ := h
  refine List.find?_eq_none.2 fun r hr => ?_
  obtain ⟨e, he, rfl⟩ := List.mem_map.1 hr
  have hb : off ≤ e ∧ e < off + 8 := by simpa using (List.mem_filter.1 he).2
  have hr : regionOf s.core e = 1 := by
    unfold regionOf
    rw [if_neg (by omega), if_neg (by omega), if_neg (by omega), if_pos (by omega)]
  simp [hr]

theorem State.feWord_own (write : Bool) : s.feWord (poolAddr off) write = .ok ((s.act.core, off), s) := by
  have hs := State.PoolSpan.spanBad_none h
  obtain ⟨h8, -, -, h3, hf⟩ := h
  have hlt : off < 2 ^ 22 := by omega
  obtain ⟨hc, hu, hv, hw, ho⟩ := poolAddr_fields hlt
  have ha : (poolAddr off).toNat % 8 = 0 := by rw [poolAddr_toNat hlt]; omega
  have hb : s.poolBarred = false := by simp [State.poolBarred, Thread.depth, hf]
  have hk : s.check (feAcc write) (poolAddr off) = .ok (.pool s.act.core off, s) := by
    simp [State.check, feAcc, ha, hc, hu, hv, hw, ho, hb, hs]
  simp only [State.feWord, hk, bind, Except.bind]

end

/-- Messages that no test names are not delivered. -/
theorem State.deliverMsgs_none {s : State} {f : Msg → Bool} (hf : ∀ m ∈ s.msgs, (m.refused.isNone && f m) = false) : s.deliverMsgs f = s := by
  have hm : s.msgs.filter (fun m => m.refused.isNone && f m) = [] := List.filter_eq_nil_iff.2 (fun m hm => by simp [hf m hm])
  have hr : s.msgs.filter (fun m => !(m.refused.isNone && f m)) = s.msgs := List.filter_eq_self.2 (fun m hm => by simp [hf m hm])
  simp only [State.deliverMsgs, List.partition_eq_filter_filter, hm, Function.comp_def, hr, List.foldl_nil]

section
variable {s : State} (h : s.NonePosted)
include h

theorem State.ahead_nonePosted (m : Msg) : s.ahead m = false := by
  simp only [State.ahead, Bool.and_eq_false_imp, decide_eq_true_eq, List.any_eq_false]
  intro hm y hy hc
  simp only [Bool.and_eq_true, decide_eq_true_eq] at hc
  obtain ⟨⟨⟨hsrc, hcont⟩, -⟩, -⟩ := hc
  exact h y hy ⟨hsrc.trans hm, hcont⟩

/-- A thread without posted messages releases a word of its own pool by doing nothing (R311). -/
theorem State.releaseOwn_nonePosted (off : Nat) : s.releaseOwn off = .ok s := by
  have hd : s.deliverMsgs (fun m => s.ahead m && !s.portShut m.dst) = s := State.deliverMsgs_none (fun m _ => by simp [s.ahead_nonePosted h])
  unfold State.releaseOwn
  split
  · exact State.release_nonePosted h .p
  · simp only [hd]
    simp only [s.ahead_nonePosted h, Bool.and_false, Bool.false_eq_true, if_false, List.map_id']

theorem State.releaseWord_own (off : Nat) : s.releaseWord s.act.core off = .ok s := by
  rw [State.releaseWord, if_pos rfl, s.releaseOwn_nonePosted h]

end

theorem State.acquireWord_own (s : State) (off : Nat) : s.acquireWord s.act.core off = .ok () := by
  simp [State.acquireWord, State.acquireSpan, State.unreleased]

theorem State.feReach_own (s : State) (parks : Bool) : s.feReach s.act.core parks = .ok s := if_pos rfl

theorem State.queuedAt_none {s : State} (h : s.core.deferred = []) (off : Nat) : s.queuedAt s.act.core off = false := by
  unfold State.core at h
  simp [State.queuedAt, h]

theorem State.wordServed_no {s : State} (h : s.me.wait = none) : s.wordServed = .no := by
  simp only [State.wordServed, h]

/-! ### PUTH and TAKEH (R345) -/

/-- A word of a core's pool holds a handle value, full and marked. -/
def Core.markWord (k : Core) (off : Nat) (v : Word) : Core :=
  { k.putAt off (placed 0 8 v.toNat) with marks := k.marks ++ [off] }.withFull off true

/-- A marked word of a core's pool is emptied. -/
def Core.unmarkWord (k : Core) (off : Nat) : Core := { k with marks := k.marks.filter (fun w => w != off) }.withFull off false

/-- Where no message to a word is under way, PUTH marks it and its entry becomes in-word. -/
theorem Stirs.putHandle {s : State} {c off : Nat} (hm : ∀ m ∈ s.msgs, m.dst = c → off ∉ m.words) (v : Word) (die : Nat) :
    Stirs ((s.setCore c ((s.getCore c).markWord off v)).modEntry die (handleEntry v)
      (fun e => { e with state := .inWord, word := some (c, off) })) (s.putHandle c off v die) := by
  have hd : s.drainWord c off = s := by
    have hn : s.msgs.filter (fun m => m.dst = c && m.refused.isNone && m.words.contains off) = [] :=
      List.filter_eq_nil_iff.2 (fun m h => by simpa using fun hc _ => hm m h hc)
    exact State.deliverMsgs_none (fun m _ => by simp only [hn, List.any_nil, Bool.and_false])
  unfold State.putHandle
  rw [hd]
  refine .modEntry (.trans ?_ (.feSet ..)) ..
  simpa [Core.markWord] using Stirs.setCore_setCore s c _ _

theorem Stirs.takeHandle (s : State) (c off : Nat) (v : Word) :
    Stirs ((s.setCore c ((s.getCore c).unmarkWord off)).modEntry (coreDie c) (handleEntry v) (fun e => { e with state := .held, word := none }))
      (s.takeHandle c off v) := by
  refine .modEntry (.trans ?_ (.feSet ..)) ..
  simpa [Core.unmarkWord] using Stirs.setCore_setCore s c _ _

section
variable {s : State} {a : R} {off : Nat} (hw : WordAt s a off) (hc : s.isCompute s.act.core = true)
include hw hc

theorem exec_puth {b : R} {n : BitVec 16} {e : TEntry} {v : Word} (hb : s.heldHandle b = .ok (n, e)) (hv : s.Reads b v)
    (hm : s.core.marks.length < 64) (hf : off ∉ s.core.full) :
    exec (.puth a b) s = .next (((s.setMe (s.me.moveFrom b)).fell.putHandle s.act.core off v s.die).serve s.act.core off) := by
  obtain ⟨hr, hp, -, hd, hwait, hn, -⟩ := hw
  unfold State.Reads at hr hv
  unfold State.core at hm hf
  show execPuth a b s = _
  simp only [execPuth, State.wordServed_no hwait, State.trellisPort_ok hc, hr, hb, hv, State.feWord_own hp, State.die, faultIf,
    State.queuedAt_none hd, State.releaseWord_own hn, State.feReach_own, List.contains_eq_mem, hf, maxMarks, Nat.not_le.2 hm, bind, Except.bind,
    ne_eq, not_true_eq_false, decide_false, Bool.false_eq_true, if_false]
  rfl

section
variable {d : R} (ht : s.Takes d)
include ht

theorem exec_takeh (hf : off ∈ s.core.full) (hm : off ∈ s.core.marks)
    (hd : (s.entry s.die (handleEntry (s.core.word off))).domain = s.me.domid) :
    exec (.takeh d a) s = .next (((s.setMe (s.me.setG d (s.core.word off) .handle)).fell.takeHandle s.act.core off (s.core.word off)).serve
      s.act.core off) := by
  obtain ⟨hr, hp, hs, hq, hwait, -, -⟩ := hw
  unfold State.Reads at hr
  unfold State.PoolSound at hs
  unfold State.core at hf hm hd hs ⊢
  unfold State.die at hd
  show execTakeh d a s = _
  simp only [execTakeh, State.wordServed_no hwait, State.trellisPort_ok hc, hr, Thread.freeG_ok ht, State.feWord_own hp, State.die, faultIf,
    State.queuedAt_none hq, State.acquireWord_own, State.feReach_own, State.soundPool_ok hs, State.keep_ok, List.contains_eq_mem, hf, hm, hd,
    bind, Except.bind, ne_eq, not_true_eq_false, decide_false, decide_true, Bool.not_true, Bool.false_eq_true, if_false, if_true]
  rfl

theorem exec_takeh_unmarked (hf : off ∈ s.core.full) (hm : off ∉ s.core.marks) :
    exec (.takeh d a) s = .next (s.trap (handleFault .handleMismatch 6 d)) := by
  obtain ⟨hr, hp, hs, hq, hwait, -, -⟩ := hw
  unfold State.Reads at hr
  unfold State.core at hf hm
  show execTakeh d a s = _
  simp only [execTakeh, State.wordServed_no hwait, State.trellisPort_ok hc, hr, Thread.freeG_ok ht, State.feWord_own hp, State.die, faultIf,
    State.queuedAt_none hq, State.acquireWord_own, State.feReach_own, List.contains_eq_mem, hf, hm, State.keep, raise,
    bind, Except.bind, ne_eq, not_true_eq_false, decide_false, decide_true, Bool.not_false, Bool.false_eq_true, if_false, if_true]
  rfl

theorem exec_takeh_empty (hf : off ∉ s.core.full) :
    exec (.takeh d a) s = .next ((s.modCore1 (fun k => { k with
      deferred := [⟨off, .takeh, s.cont, s.me.domid⟩] })).waits (some (.word s.act.core off))) := by
  obtain ⟨hr, hp, hs, hq, hwait, -, -⟩ := hw
  have hq' := State.queuedAt_none hq off
  unfold State.Reads at hr
  unfold State.core at hf hq
  show execTakeh d a s = _
  simp only [execTakeh, State.wordServed_no hwait, State.trellisPort_ok hc, hr, Thread.freeG_ok ht, State.feWord_own hp, State.die, faultIf,
    hq', State.acquireWord_own, State.feReach_own, List.contains_eq_mem, hf, State.feQueue, State.modCore_eq, State.modCore1_eq, hq,
    List.length_nil, List.nil_append, maxDeferred, bind, Except.bind, ne_eq, not_true_eq_false, decide_false, Bool.false_eq_true,
    if_false]
  rfl

end
end

/-! ### What PUTH and TAKEH leave (R345) -/

/-- A change of the executing core that leaves its threads leaves the executing thread. -/
theorem State.me_setCore {s : State} {k : Core} (h : k.threads = s.core.threads) : (s.setCore s.act.core k).me = s.me := by
  have hk : (s.setCore s.act.core k).getCore s.act.core = k := s.getCore_setCore ..
  simp only [State.me, State.getThread, State.setCore_act, hk, Core.thread, h]
  rfl

@[simp] theorem State.core_setCore (s : State) (k : Core) : (s.setCore s.act.core k).core = k := s.getCore_setCore ..

theorem State.getCore_setMe_ne (s : State) (t : Thread) {c : Nat} (h : c ≠ s.act.core) : (s.setMe t).getCore c = s.getCore c :=
  State.getCore_setCore_ne _ _ h

theorem State.poolByte_setMe_fell (s : State) (t : Thread) (c off : Nat) : (s.setMe t).fell.poolByte c off = s.poolByte c off := by
  unfold State.poolByte
  by_cases h : c = s.act.core
  · subst h
    have e : (s.setMe t).fell.core.pool = s.core.pool := by simp
    exact congrArg (memGet · off) e
  · rw [State.getCore_fell_ne (s.setMe t) h, State.getCore_setMe_ne _ _ h]

section
variable (k : Core) (off : Nat) (v : Word)

@[simp] theorem Core.markWord_pool : (k.markWord off v).pool = memWrite k.pool off 8 v.toNat := Core.putAt_pool ..
theorem Core.mem_full_markWord : off ∈ (k.markWord off v).full := List.mem_append_right _ (List.mem_singleton.2 rfl)
theorem Core.mem_marks_markWord : off ∈ (k.markWord off v).marks := List.mem_append_right _ (List.mem_singleton.2 rfl)

theorem Core.word_markWord (h : Memory.wf k.pool = true) : (k.markWord off v).word off = v := by
  rw [Core.word, Core.markWord_pool, memRead_memWrite _ _ _ h]
  exact BitVec.eq_of_toNat_eq (by simp [Nat.mod_eq_of_lt v.isLt])

theorem Core.not_mem_full_unmarkWord : off ∉ (k.unmarkWord off).full := by simp [Core.unmarkWord, Core.withFull]
theorem Core.not_mem_marks_unmarkWord : off ∉ (k.unmarkWord off).marks := by simp [Core.unmarkWord, Core.withFull]

end

theorem CoreStirs.word {k l : Core} (h : CoreStirs k l) (off : Nat) : l.word off = k.word off := by rw [Core.word, Core.word, h.pool]

section
variable {s : State} {off : Nat} (v : Word) (hq : s.core.deferred = [])
include hq

/-- A handle is put into a word of the executing core's pool for which nothing waits. -/
theorem putHandle_leaves (hk : Memory.wf s.core.pool = true) (hm : ∀ m ∈ s.msgs, m.dst = s.act.core → off ∉ m.words) (die : Nat) :
    let u := (s.putHandle s.act.core off v die).serve s.act.core off
    u.core.word off = v ∧ off ∈ u.core.full ∧ off ∈ u.core.marks ∧ (u.entry die (handleEntry v)).state = .inWord ∧
      (u.entry die (handleEntry v)).word = some (s.act.core, off) ∧ (∀ r : R, u.me.greg r = s.me.greg r) ∧ u.me.pc = s.me.pc ∧
      ∀ o : Nat, o < off ∨ off + 8 ≤ o → u.poolByte s.act.core o = s.poolByte s.act.core o := by
  intro u
  let k := s.core.markWord off v
  let p := (s.setCore s.act.core k).modEntry die (handleEntry v) (fun e => { e with state := .inWord, word := some (s.act.core, off) })
  have hp : Stirs p (s.putHandle s.act.core off v die) := Stirs.putHandle hm v die
  have hc : p.core = k := s.core_setCore k
  have hu : Stirs p u := hp.trans (.serve ((hp.core s.act.core).deferred.trans ((congrArg Core.deferred hc).trans hq)) off)
  have ho := hu.own
  rw [hc] at ho
  have hme : p.me = s.me := State.me_setCore (s := s) (k := k) rfl
  have he : u.entry die (handleEntry v) = _ := (congrFun (congrFun hu.entry die) _).trans (State.entry_modEntry ..)
  refine ⟨?_, ?_, ?_, by rw [he], by rw [he], fun r => ?_, ?_, fun o hlt => ?_⟩
  · rw [ho.word, Core.word_markWord _ _ _ hk]
  · rw [ho.full]; exact Core.mem_full_markWord ..
  · rw [ho.marks]; exact Core.mem_marks_markWord ..
  · rw [hu.greg, hme]
  · rw [hu.pc, hme]
  · have hb : p.poolByte s.act.core o = memGet k.pool o := congrArg (fun k => memGet (Core.pool k) o) hc
    rw [hu.poolByte, hb, Core.markWord_pool, memGet_memWrite_ne _ _ hlt]
    rfl

/-- A handle is taken out of a word of the executing core's pool for which nothing else waits. -/
theorem takeHandle_leaves :
    let u := (s.takeHandle s.act.core off v).serve s.act.core off
    off ∉ u.core.full ∧ off ∉ u.core.marks ∧ (u.entry s.die (handleEntry v)).state = .held ∧ u.core.pool = s.core.pool ∧
      (∀ r : R, u.me.greg r = s.me.greg r) ∧ u.me.pc = s.me.pc := by
  intro u
  let k := s.core.unmarkWord off
  let p := (s.setCore s.act.core k).modEntry s.die (handleEntry v) (fun e => { e with state := .held, word := none })
  have hp : Stirs p (s.takeHandle s.act.core off v) := Stirs.takeHandle ..
  have hc : p.core = k := s.core_setCore k
  have hu : Stirs p u := hp.trans (.serve ((hp.core s.act.core).deferred.trans ((congrArg Core.deferred hc).trans hq)) off)
  have ho := hu.own
  rw [hc] at ho
  have hme : p.me = s.me := State.me_setCore (s := s) (k := k) rfl
  have he : u.entry s.die (handleEntry v) = _ := (congrFun (congrFun hu.entry s.die) _).trans (State.entry_modEntry ..)
  refine ⟨?_, ?_, by rw [he], ?_, fun r => ?_, ?_⟩
  · rw [ho.full]; exact Core.not_mem_full_unmarkWord s.core off
  · rw [ho.marks]; exact Core.not_mem_marks_unmarkWord s.core off
  · rw [ho.pool]; rfl
  · rw [hu.greg, hme]
  · rw [hu.pc, hme]

end

end Sys2Proof.Machine
end

section
/-! Copies of tiles (O46). What HCPY.IN makes of the executing core's pool and full bits, element by element, HCPY.OUT, and the obligation. -/

namespace Sys2Proof.Machine

/-! ### The bytes that a copy writes -/

/-- Each byte of a number just written, lowest first. -/
theorem memGet_memWrite {m : Mem} (a : Nat) {n j : Nat} (v : Nat) (h : Memory.wf m = true) (hj : j < n) :
    memGet (memWrite m a n v) (a + j) = .ofNat 8 (v / 256 ^ j) := by
  induction n generalizing m a v j with
  | zero => exact absurd hj (Nat.not_lt_zero j)
  | succ n ih =>
    rw [memWrite]
    cases j with
    | zero => rw [memGet_memWrite_ne _ _ (by omega), Nat.add_zero, memGet_memPut _ _ h, Nat.pow_zero, Nat.div_one]
    | succ j =>
      have e := ih (a + 1) (v / 256) (memPut_wf a (.ofNat 8 v) h) (Nat.lt_of_succ_lt_succ hj)
      rw [Nat.add_right_comm] at e
      rw [← Nat.add_assoc, e, Nat.div_div_eq_div_mul, Nat.pow_succ, Nat.mul_comm]

theorem State.bytesAt_byte (s : State) (cell : Nat) {n j : Nat} (hj : j < n) :
    BitVec.ofNat 8 (s.bytesAt cell n / 256 ^ j) = s.byteAt (cell + j) := by
  induction n generalizing cell j with
  | zero => exact absurd hj (Nat.not_lt_zero j)
  | succ n ih =>
    have hb : (s.byteAt cell).toNat < 256 := (s.byteAt cell).isLt
    rw [State.bytesAt]
    cases j with
    | zero =>
      apply BitVec.eq_of_toNat_eq
      rw [BitVec.toNat_ofNat, Nat.pow_zero, Nat.div_one, Nat.add_zero cell]
      omega
    | succ j =>
      have e := ih (cell + 1) (Nat.lt_of_succ_lt_succ hj)
      rw [Nat.add_right_comm] at e
      rw [← Nat.add_assoc, ← e, Nat.pow_succ', ← Nat.div_div_eq_div_mul, Nat.add_mul_div_left _ _ (by decide),
        Nat.div_eq_of_lt hb, Nat.zero_add]

/-! ### Words of spans (R188) -/

theorem mem_spanWords {off n w : Nat} : w ∈ spanWords off n ↔ w % 8 = 0 ∧ off / 8 ≤ w / 8 ∧ w / 8 < (off + n + 7) / 8 := by
  simp only [spanWords, List.mem_map, List.mem_range]
  constructor
  · rintro ⟨i, hi, rfl⟩
    omega
  · rintro ⟨h8, h1, h2⟩
    exact ⟨w / 8 - off / 8, by omega, by omega⟩

theorem spanWords_word {w : Nat} (h : w % 8 = 0) : spanWords w 8 = [w] := by
  have e : (w + 8 + 7) / 8 - w / 8 = 1 := by omega
  simp only [spanWords, e, List.range_one, List.map_cons, List.map_nil]
  congr 1
  omega

/-- A word of one element of a span of elements is a word of the span. -/
theorem spanWords_element {o i size count w : Nat} (hi : i < count) (hw : w ∈ spanWords (o + i * size) size) :
    w ∈ spanWords o (count * size) := by
  have hs : (i + 1) * size ≤ count * size := Nat.mul_le_mul_right size hi
  rw [Nat.succ_mul] at hs
  rw [mem_spanWords] at hw ⊢
  omega

/-- Each word of an aligned span of elements is a word of one of them. -/
theorem exists_element {o size count w : Nat} (ho : o % 8 = 0) (hw : w ∈ spanWords o (count * size)) :
    ∃ i < count, w ∈ spanWords (o + i * size) size := by
  rw [mem_spanWords] at hw
  obtain ⟨h8, h1, h2⟩ := hw
  have hlt : w - o < count * size := by omega
  have hs : 0 < size := Nat.pos_of_ne_zero (by rintro rfl; omega)
  refine ⟨(w - o) / size, Nat.div_lt_of_lt_mul (by rwa [Nat.mul_comm]), mem_spanWords.2 ⟨h8, ?_⟩⟩
  have hd := Nat.div_add_mod' (w - o) size
  have hm := Nat.mod_lt (w - o) hs
  omega

/-! ### What a copy makes of a core -/

/-- A core's pool with elements i of a list written from an offset on. -/
def Core.copyAll (k : Core) (o size : Nat) (val : Nat → Nat) (l : List Nat) : Core :=
  l.foldl (fun k i => k.putAt (o + i * size) (placed 0 size (val i))) k

/-- A word of region S set full. -/
def Core.fillWord (k : Core) (w : Nat) : Core := if regionOf k w = 1 then k.withFull w true else k

/-- The words of a list that lie in region S set full. -/
def Core.fillAll (k : Core) (l : List Nat) : Core := l.foldl Core.fillWord k

theorem CoreStirs.putAt {k l : Core} (h : CoreStirs k l) (off : Nat) (bs : List (Nat × Byte)) : CoreStirs (k.putAt off bs) (l.putAt off bs) :=
  ⟨by rw [h.rest]; rfl, h.thread⟩

theorem CoreStirs.withFull {k l : Core} (h : CoreStirs k l) (off : Nat) (b : Bool) : CoreStirs (k.withFull off b) (l.withFull off b) :=
  ⟨by rw [h.rest]; rfl, h.thread⟩

theorem CoreStirs.copyAll {k k' : Core} (h : CoreStirs k k') (o size : Nat) (val : Nat → Nat) (l : List Nat) :
    CoreStirs (k.copyAll o size val l) (k'.copyAll o size val l) := by
  induction l generalizing k k' with
  | nil => exact h
  | cons i r ih => exact ih (h.putAt ..)

theorem CoreStirs.fillWord {k l : Core} (h : CoreStirs k l) (w : Nat) : CoreStirs (k.fillWord w) (l.fillWord w) := by
  unfold Core.fillWord
  rw [h.regionOf]
  split
  · exact h.withFull ..
  · exact h

theorem CoreStirs.fillAll {k k' : Core} (h : CoreStirs k k') (l : List Nat) : CoreStirs (k.fillAll l) (k'.fillAll l) := by
  induction l generalizing k k' with
  | nil => exact h
  | cons w r ih => exact ih (h.fillWord w)

theorem Core.copyAll_rest (k : Core) (o size : Nat) (val : Nat → Nat) (l : List Nat) :
    k.copyAll o size val l = { k with pool := (k.copyAll o size val l).pool, worn := (k.copyAll o size val l).worn } := by
  induction l generalizing k with
  | nil => rfl
  | cons i r ih => exact ih _

theorem Core.fillWord_rest (k : Core) (w : Nat) : k.fillWord w = { k with full := (k.fillWord w).full } := by
  unfold Core.fillWord
  split <;> rfl

theorem Core.fillAll_rest (k : Core) (l : List Nat) : k.fillAll l = { k with full := (k.fillAll l).full } := by
  induction l generalizing k with
  | nil => rfl
  | cons w r ih =>
    have e : ∀ f, { k.fillWord w with full := f } = { k with full := f } := fun f => by rw [k.fillWord_rest w]
    exact (ih _).trans (e _)

theorem Core.regionOf_copyAll (k : Core) (o size : Nat) (val : Nat → Nat) (l : List Nat) (w : Nat) :
    regionOf (k.copyAll o size val l) w = regionOf k w := by
  rw [k.copyAll_rest]
  rfl

theorem Core.copyAll_succ (k : Core) (o size : Nat) (val : Nat → Nat) (n : Nat) :
    (k.copyAll o size val (List.range (n + 1))).pool = memWrite (k.copyAll o size val (List.range n)).pool (o + n * size) size (val n) := by
  simp only [Core.copyAll, List.range_succ, List.foldl_append, List.foldl_cons, List.foldl_nil, Core.putAt_pool]

theorem Core.copyAll_wf {k : Core} (h : Memory.wf k.pool = true) (o size : Nat) (val : Nat → Nat) (n : Nat) :
    Memory.wf (k.copyAll o size val (List.range n)).pool = true := by
  induction n with
  | zero => exact h
  | succ n ih => rw [Core.copyAll_succ]; exact memWrite_wf _ _ _ ih

theorem Core.copyAll_byte {k : Core} (h : Memory.wf k.pool = true) (o size : Nat) (val : Nat → Nat) {n i j : Nat} (hi : i < n) (hj : j < size) :
    memGet (k.copyAll o size val (List.range n)).pool (o + i * size + j) = .ofNat 8 (val i / 256 ^ j) := by
  induction n with
  | zero => exact absurd hi (Nat.not_lt_zero i)
  | succ n ih =>
    rw [Core.copyAll_succ]
    rcases Nat.lt_succ_iff_lt_or_eq.1 hi with hi | rfl
    · have hs : (i + 1) * size ≤ n * size := Nat.mul_le_mul_right size hi
      rw [Nat.succ_mul] at hs
      rw [memGet_memWrite_ne _ _ (by omega), ih hi]
    · exact memGet_memWrite _ _ (Core.copyAll_wf h ..) hj

theorem Core.copyAll_frame (k : Core) (o size : Nat) (val : Nat → Nat) {n b : Nat} (hb : b < o ∨ o + n * size ≤ b) :
    memGet (k.copyAll o size val (List.range n)).pool b = memGet k.pool b := by
  induction n with
  | zero => rfl
  | succ n ih =>
    rw [Nat.succ_mul] at hb
    rw [Core.copyAll_succ, memGet_memWrite_ne _ _ (by omega), ih (by omega)]

theorem Core.mem_withFull {k : Core} {w off : Nat} (h : w ∈ k.full ∨ w = off) : w ∈ (k.withFull off true).full := by
  by_cases e : w = off
  · exact List.mem_append_right _ (List.mem_singleton.2 e)
  · exact List.mem_append_left _ (List.mem_filter.2 ⟨h.resolve_right e, by simpa using e⟩)

theorem Core.regionOf_fillWord (k : Core) (v w : Nat) : regionOf (k.fillWord v) w = regionOf k w := by
  rw [k.fillWord_rest]
  rfl

theorem Core.mem_fillWord {k : Core} (v : Nat) {w : Nat} (h : w ∈ k.full) : w ∈ (k.fillWord v).full := by
  unfold Core.fillWord
  split
  · exact Core.mem_withFull (.inl h)
  · exact h

/-- A word of a list that lies in region S is full afterwards. -/
theorem Core.mem_fillAll {k : Core} {l : List Nat} {w : Nat} (hr : regionOf k w = 1) (h : w ∈ k.full ∨ w ∈ l) : w ∈ (k.fillAll l).full := by
  induction l generalizing k with
  | nil => exact h.resolve_right (by simp)
  | cons v r ih =>
    refine ih ((k.regionOf_fillWord v w).trans hr) ?_
    rcases h with h | h
    · exact .inl (Core.mem_fillWord v h)
    · refine (List.mem_cons.1 h).imp_left (fun e => ?_)
      subst e
      rw [Core.fillWord, if_pos hr]
      exact Core.mem_withFull (.inr rfl)

/-! ### The run of HCPY.IN (R228, R342) -/

/-- No access of the engines of the executing core c is stopped, for its owner, and no word that the copy of a region to an offset writes
is marked. -/
structure State.CopyReady (s : State) (c o : Nat) (r : Region) : Prop where
  here     : s.act.core = c
  bad      : s.bad = []
  ucopies  : s.ucopies = []
  hostUp   : s.hostDown = false
  still    : ∀ p ∈ s.migTable, p.moving = false
  served   : s.Served (s.getCore c).owner
  unmarked : ∀ w ∈ spanWords o r.bytes, w ∉ (s.getCore c).marks

theorem Stirs.granted {s t : State} (h : Stirs s t) (o : BitVec 4) (r : Resource) : t.granted o r = s.granted o r := by
  rw [h.rest]
  rfl

section
variable {s : State} {c o : Nat} {r : Region} (hs : s.CopyReady c o r)
include hs

theorem State.CopyReady.stirs {t : State} (h : Stirs s t) : t.CopyReady c o r where
  here := h.act ▸ hs.here
  bad := by rw [h.rest]; exact hs.bad
  ucopies := by rw [h.rest]; exact hs.ucopies
  hostUp := by rw [h.rest]; exact hs.hostUp
  still := by rw [h.rest]; exact hs.still
  served := fun x => by rw [(h.core c).owner, h.granted]; exact hs.served x
  unmarked := by rw [(h.core c).marks]; exact hs.unmarked

theorem State.CopyReady.setCore {k : Core} (ho : k.owner = (s.getCore c).owner) (hm : k.marks = (s.getCore c).marks) :
    (s.setCore c k).CopyReady c o r where
  here := hs.here
  bad := hs.bad
  ucopies := hs.ucopies
  hostUp := hs.hostUp
  still := hs.still
  served := fun x => by rw [State.getCore_setCore, ho]; exact hs.served x
  unmarked := by rw [State.getCore_setCore, hm]; exact hs.unmarked

/-- An engine of the core reads the bytes that stand in memory. -/
theorem State.CopyReady.engRead (dom : BitVec 8) (pa n : Nat) (va : Word) :
    ∃ t, s.engRead c s.core.owner dom pa n va 0 = .ok (s.bytesAt (cellOf pa) n, t) ∧ Stirs s t := by
  have hmove : s.inMotion (cellOf pa) = false := by
    simp only [State.inMotion, List.any_eq_false]
    intro p hp
    simp [hs.still p hp]
  have hown : s.core.owner = (s.getCore c).owner := by rw [State.core, hs.here]
  have hstop : ∀ uc, s.engStop c s.core.owner uc pa va 0 = .ok () := fun uc => by
    simp [State.engStop, State.memStop, hs.hostUp, hmove, hown, State.starvedAt_served hs.served]
  refine ⟨s.accountAt c (engDests (s.engUncached dom pa va) pa), ?_, .accountAt ..⟩
  simp only [State.engRead, hstop, State.lineRead, hs.bad, List.any_nil, Bool.false_eq_true, if_false, State.recall_nil hs.ucopies, bind,
    Except.bind]

end

/-- What HCPY.IN does for an element: a read under the translations of the tile's pages, and a write to the own pool (R342). -/
def copyStep (c o : Nat) (r : Region) (x : List (Nat × Nat)) (s : State) (i : Nat) : Run State := do
  let va := BitVec.ofNat 64 (r.addr i)
  let (v, s) ← s.engRead c s.core.owner s.me.domid (paUnder x (r.addr i)) r.size va 0
  s.engPool c (o + i * r.size) r.size v (o + i * r.size) 0

/-- The element that HCPY.IN reads for an index. -/
def State.tileValue (s : State) (r : Region) (x : List (Nat × Nat)) (i : Nat) : Nat := s.bytesAt (cellOf (paUnder x (r.addr i))) r.size

/-- A state with the memory of another holds its tiles. -/
theorem State.tileValue_congr {s t : State} (hm : t.mem = s.mem) (hh : t.hostLine = s.hostLine) (r : Region) (x : List (Nat × Nat)) :
    t.tileValue r x = s.tileValue r x :=
  funext fun _ => State.bytesAt_congr hm hh ..

theorem copyStep_ok {s : State} {c o i : Nat} {r : Region} (x : List (Nat × Nat)) (hs : s.CopyReady c o r) (hi : i < r.count) :
    ∃ t, Stirs s t ∧ copyStep c o r x s i =
      .ok (t.setCore c ((t.getCore c).putAt (o + i * r.size) (placed 0 r.size (s.tileValue r x i)))) := by
  obtain ⟨t, ht, hst⟩ := hs.engRead s.me.domid (paUnder x (r.addr i)) r.size (.ofNat 64 (r.addr i))
  have hf : (spanWords (o + i * r.size) r.size).find? (fun w => (t.getCore c).marks.contains w) = none :=
    List.find?_eq_none.2 (fun w hw => by simpa using (hs.stirs hst).unmarked w (spanWords_element hi hw))
  refine ⟨t, hst, ?_⟩
  simp only [copyStep, ht, State.engPool, hf, bind, Except.bind]
  rfl

/-- A change of a core that a stirred core takes alike, after a run that has made the core k. -/
theorem Stirs.step {s t u : State} {c : Nat} {k : Core} {f : Core → Core} (hf : ∀ {k l : Core}, CoreStirs k l → CoreStirs (f k) (f l))
    (h : Stirs (s.setCore c k) t) (h' : Stirs (t.setCore c (f (t.getCore c))) u) : Stirs (s.setCore c (f k)) u := by
  have hk : CoreStirs k (t.getCore c) := by simpa using h.core c
  exact ((Stirs.setCore_setCore s c k (f k)).trans (h.setCore c (hf hk))).trans h'

theorem Stirs.setCore_same (s : State) (c : Nat) : Stirs (s.setCore c (s.getCore c)) s := by
  refine ⟨rfl, fun d => ?_⟩
  by_cases h : d = c
  · subst h
    simpa using .refl _
  · simpa only [State.getCore_setCore_ne _ _ h] using .refl _

/-- The elements of a list are copied one after the other. -/
theorem runEach_copy {s : State} {c o : Nat} {r : Region} (x : List (Nat × Nat)) (l : List Nat) (hs : s.CopyReady c o r)
    (hl : ∀ i ∈ l, i < r.count) :
    ∃ t, runEach (copyStep c o r x) l s = (t, none) ∧ Stirs (s.setCore c ((s.getCore c).copyAll o r.size (s.tileValue r x) l)) t := by
  induction l generalizing s with
  | nil => exact ⟨s, rfl, .setCore_same s c⟩
  | cons i l ih =>
    obtain ⟨t, hst, hc⟩ := copyStep_ok x hs (hl i List.mem_cons_self)
    let k := (t.getCore c).putAt (o + i * r.size) (placed 0 r.size (s.tileValue r x i))
    obtain ⟨u, hu, hsu⟩ := ih (s := t.setCore c k) ((hs.stirs hst).setCore rfl rfl) (fun j hj => hl j (List.mem_cons_of_mem _ hj))
    have hv : (t.setCore c k).tileValue r x = s.tileValue r x := State.tileValue_congr (t := t.setCore c k) hst.mem hst.hostLine r x
    have hk : Stirs (s.setCore c ((s.getCore c).putAt (o + i * r.size) (placed 0 r.size (s.tileValue r x i)))) (t.setCore c k) :=
      hst.setCore c ((hst.core c).putAt ..)
    rw [hv] at hsu
    exact ⟨u, by rw [runEach, hc]; exact hu, hk.step (fun h => h.copyAll ..) hsu⟩

/-! ### The words that a copy fills (R188) -/

theorem Stirs.fillSpan {s : State} {c w : Nat} (hq : (s.getCore c).deferred = []) (hw : w % 8 = 0) :
    Stirs (s.setCore c ((s.getCore c).fillWord w)) (s.fillSpan c w 8) := by
  unfold State.fillSpan Core.fillWord
  rw [spanWords_word hw]
  by_cases h : regionOf (s.getCore c) w = 1
  · have hf : Stirs (s.setCore c ((s.getCore c).withFull w true)) (s.feSet c w true) := .feSet ..
    have hd : ((s.feSet c w true).getCore c).deferred = [] := by
      rw [(hf.core c).deferred, State.getCore_setCore]
      exact hq
    simpa [h] using hf.trans (.serve hd w)
  · simpa [h] using .setCore_same s c

theorem Stirs.fillList {s : State} {c : Nat} (l : List (Nat × Nat)) (hq : (s.getCore c).deferred = [])
    (hl : ∀ e ∈ l, e.1 = c ∧ e.2 % 8 = 0) :
    Stirs (s.setCore c ((s.getCore c).fillAll (l.map Prod.snd))) (l.foldl (fun s e => s.fillSpan e.1 e.2 8) s) := by
  induction l generalizing s with
  | nil => exact .setCore_same s c
  | cons e l ih =>
    obtain ⟨rfl, hw⟩ := hl e List.mem_cons_self
    have h := Stirs.fillSpan hq hw
    have hd : ((s.fillSpan e.1 e.2 8).getCore e.1).deferred = [] := by
      rw [(h.core e.1).deferred, State.getCore_setCore, Core.fillWord_rest]
      exact hq
    exact h.step (fun h => h.fillAll ..) (ih hd (fun x hx => hl x (List.mem_cons_of_mem _ hx)))

/-- The words of the spans of the elements of a copy to a core, each once. -/
def copyWords (c o size n : Nat) : List (Nat × Nat) :=
  ((((List.range n).map (fun i => (c, o + i * size, size))).map (fun x => (spanWords x.2.1 x.2.2).map (fun w => (x.1, w)))).flatten).eraseDups

theorem mem_copyWords {c o size n : Nat} {e : Nat × Nat} :
    e ∈ copyWords c o size n ↔ e.1 = c ∧ ∃ i < n, e.2 ∈ spanWords (o + i * size) size := by
  obtain ⟨d, w⟩ := e
  simp only [copyWords, List.mem_eraseDups, List.map_map, List.mem_flatten, List.mem_map, List.mem_range, Function.comp_apply]
  constructor
  · rintro ⟨-, ⟨i, hi, rfl⟩, hw⟩
    obtain ⟨v, hv, he⟩ := List.mem_map.1 hw
    cases he
    exact ⟨rfl, i, hi, hv⟩
  · rintro ⟨rfl, i, hi, hw⟩
    exact ⟨_, ⟨i, hi, rfl⟩, List.mem_map.2 ⟨w, hw, rfl⟩⟩

/-- The core that HCPY.IN of a region to an offset makes of the executing core (R342). -/
def State.copied (s : State) (c o : Nat) (r : Region) (x : List (Nat × Nat)) : Core :=
  ((s.getCore c).copyAll o r.size (s.tileValue r x) (List.range r.count)).fillAll ((copyWords c o r.size r.count).map Prod.snd)

theorem runFill_copy {s : State} {c o : Nat} {r : Region} (x : List (Nat × Nat)) (hs : s.CopyReady c o r) (hq : (s.getCore c).deferred = []) :
    ∃ t, runFill (copyStep c o r x) (fun i => (c, o + i * r.size, r.size)) (List.range r.count) s = (t, none) ∧
      Stirs (s.setCore c (s.copied c o r x)) t := by
  obtain ⟨t, ht, hst⟩ := runEach_copy x (List.range r.count) hs (fun i hi => List.mem_range.1 hi)
  have hd : (t.getCore c).deferred = [] := by
    rw [(hst.core c).deferred, State.getCore_setCore, Core.copyAll_rest]
    exact hq
  refine ⟨_, ?_, hst.step (fun h => h.fillAll ..) (.fillList (copyWords c o r.size r.count) hd fun e he => ?_)⟩
  · simp only [runFill, ht]
    rfl
  · obtain ⟨hc, i, -, hw⟩ := mem_copyWords.1 he
    exact ⟨hc, (mem_spanWords.1 hw).1⟩

/-! ### HCPY (R342) -/

/-- The pool offset of HCPY is aligned where its checks pass. -/
theorem State.hcpyChecks_aligned {s s1 : State} {a : R} {p : P} {out : Bool} {n : BitVec 16} {e : TEntry} {r : Region} {o : Nat}
    {x : List (Nat × Nat)} (h : s.hcpyChecks a p out = .ok ((n, e, r, o), x, s1)) : o % 8 = 0 := by
  by_contra ho
  simp only [State.hcpyChecks, bind, Except.bind] at h
  repeat' split at h
  all_goals cases h
  next hp _ _ _ => simp [State.poolSpan, faultIf, ho, raise, bind, Except.bind] at hp

theorem exec_hcpyOut {s s1 : State} {a : R} {p : P} {n : BitVec 16} {e : TEntry} {r : Region} {o : Nat} {x : List (Nat × Nat)} (post : Bool)
    (hc : s.isCompute s.act.core = true) (hr : s.engReady .copy = .ok ()) (h : s.hcpyChecks a p true = .ok ((n, e, r, o), x, s1)) :
    let t := (s1.modEntry s1.die n (fun e => { e with pending := e.pending ++ [s1.nextId] })).submit .copy (.hcpyOut s1.die n o r)
      ⟨.c, 0, 0, 0, 0⟩ x []
    exec (.hcpyOut a p post) s = .next (t.setMe (t.me.bump p post)).fell := by
  show execHcpyOut a p post s = _
  simp only [execHcpyOut, State.trellisPort_ok hc, hr, h, bind, Except.bind]
  rfl

/-- A command enters its engine's queue under a new number, and a step is posted to start it (R226, R227). -/
theorem State.submit_leaves (s : State) (e : EngineId) (op : CmdOp) (f : EngF) (xlat : List (Nat × Nat)) (owned : List Nat) :
    let t := s.submit e op f xlat owned
    (∃ c : Cmd, t.core.cmds = s.core.cmds ++ [c] ∧ c.op = op ∧ c.id = s.nextId) ∧ t.trellis = s.trellis ∧
      t.agenda = s.agenda ++ [.commandStart s.act.core e] ∧ t.act = s.act ∧ t.me = s.me := by
  intro t
  let x : Cmd := ⟨s.nextId, e, op, f, s.cont, s.me.launch, s.core.owner, s.me.domid, s.me.level, s.me.depth, true, false, false, none,
    xlat, owned, [], .no, none, []⟩
  let k : Core := { s.core with cmds := s.core.cmds ++ [x] }
  have ht : t = ({ s with nextId := s.nextId + 1 }.setCore s.act.core k).post (.commandStart s.act.core e) := rfl
  have hk : t.core = k := by rw [ht, State.core_post]; exact State.core_setCore _ k
  exact ⟨⟨x, by rw [hk], rfl, rfl⟩, rfl, rfl, rfl, State.me_setCore (s := { s with nextId := s.nextId + 1 }) (k := k) rfl⟩

theorem hcpyOut_leaves (s : State) (n : BitVec 16) (r : Region) (o : Nat) (x : List (Nat × Nat)) (p : P) (post : Bool) :
    let u := (s.modEntry s.die n (fun e => { e with pending := e.pending ++ [s.nextId] })).submit .copy (.hcpyOut s.die n o r)
      ⟨.c, 0, 0, 0, 0⟩ x []
    let t := (u.setMe (u.me.bump p post)).fell
    ∃ c : Cmd, t.core.cmds = s.core.cmds ++ [c] ∧ c.op = .hcpyOut s.die n o r ∧
      (t.entry s.die n).pending = (s.entry s.die n).pending ++ [c.id] ∧ t.agenda = s.agenda ++ [.commandStart s.act.core .copy] ∧
      t.me = { (s.me.bump p post) with pc := s.act.next, wait := none } := by
  intro u t
  obtain ⟨⟨c, hcmd, hop, hid⟩, htr, hag, hact, hme⟩ : (∃ c : Cmd, u.core.cmds = _ ∧ _) ∧ u.trellis = _ ∧ u.agenda = _ ∧
      u.act = _ ∧ u.me = _ := State.submit_leaves ..
  have he : t.entry s.die n = { s.entry s.die n with pending := (s.entry s.die n).pending ++ [s.nextId] } :=
    (congrArg (getKey (entryKey s.die n) freeEntry) htr).trans (State.entry_modEntry ..)
  have hid : c.id = s.nextId := hid
  exact ⟨c, by simpa [t] using hcmd, hop, by rw [he, hid], hag, by simp [t, hme, hact]⟩

section
variable {s s1 : State} {a : R} {p : P} {n : BitVec 16} {e : TEntry} {r : Region} {o : Nat} {x : List (Nat × Nat)} (post : Bool)
  (h : s.hcpyChecks a p false = .ok ((n, e, r, o), x, s1))
include h

theorem exec_hcpyIn_waits (he : e.pending ≠ []) : exec (.hcpyIn a p post) s = .next (s.waits (some (.handle s1.die [n]))) := by
  show execHcpyIn a p post s = _
  simp only [execHcpyIn, h, he, bind, Except.bind, ne_eq, not_false_eq_true, if_true]
  rfl

theorem exec_hcpyIn {t : State} (he : e.pending = []) (hm : ∀ w ∈ spanWords o r.bytes, w ∉ s1.core.marks)
    (ht : runFill (copyStep s1.act.core o r x) (fun i => (s1.act.core, o + i * r.size, r.size)) (List.range r.count) s1 = (t, none)) :
    exec (.hcpyIn a p post) s = .next (t.setMe (t.me.bump p post)).fell := by
  have hf : (spanWords o r.bytes).find? (fun w => s1.core.marks.contains w) = none :=
    List.find?_eq_none.2 (fun w hw => by simpa using hm w hw)
  show execHcpyIn a p post s = _
  simp only [execHcpyIn, h, he, hf, bind, Except.bind, ne_eq, not_true_eq_false, if_false]
  generalize hx : runFill _ _ _ _ = y
  have hy : y = (t, none) := hx.symm.trans ht
  rw [hy]
  rfl

end

section
variable (s : State) (c o : Nat) (r : Region) (x : List (Nat × Nat))

theorem State.copied_pool : (s.copied c o r x).pool = ((s.getCore c).copyAll o r.size (s.tileValue r x) (List.range r.count)).pool := by
  rw [State.copied, Core.fillAll_rest]

theorem State.copied_threads : (s.copied c o r x).threads = (s.getCore c).threads := by
  rw [State.copied, Core.fillAll_rest, Core.copyAll_rest]

variable {s c o r}

theorem State.copied_byte (hk : Memory.wf (s.getCore c).pool = true) {i j : Nat} (hi : i < r.count) (hj : j < r.size) :
    memGet (s.copied c o r x).pool (o + i * r.size + j) = s.byteAt (cellOf (paUnder x (r.addr i)) + j) := by
  rw [State.copied_pool, Core.copyAll_byte hk _ _ _ hi hj]
  exact s.bytesAt_byte _ hj

theorem State.copied_frame {b : Nat} (hb : b < o ∨ o + r.bytes ≤ b) : memGet (s.copied c o r x).pool b = memGet (s.getCore c).pool b := by
  rw [State.copied_pool, Core.copyAll_frame _ _ _ _ hb]

theorem State.copied_full (ho : o % 8 = 0) {w : Nat} (hw : w ∈ spanWords o r.bytes) (hr : regionOf (s.getCore c) w = 1) :
    w ∈ (s.copied c o r x).full := by
  obtain ⟨i, hi, hw⟩ := exists_element ho hw
  exact Core.mem_fillAll ((Core.regionOf_copyAll ..).trans hr) (.inr (List.mem_map.2 ⟨(c, w), mem_copyWords.2 ⟨rfl, i, hi, hw⟩, rfl⟩))

end

theorem Thread.bump_wait (t : Thread) (p : P) (post : Bool) (w : Option WaitRec) :
    { t.bump p post with wait := w } = { t with wait := w }.bump p post := by
  unfold Thread.bump
  split <;> rfl

/-- What HCPY.IN leaves once its run has ended. -/
theorem hcpyIn_leaves {s u : State} {o : Nat} {r : Region} {x : List (Nat × Nat)} (p : P) (post : Bool) (hk : s.MemOk) (ho : o % 8 = 0)
    (hu : Stirs (s.setCore s.act.core (s.copied s.act.core o r x)) u) :
    let t := (u.setMe (u.me.bump p post)).fell
    t.mem = s.mem ∧ t.me = { (s.me.bump p post) with pc := s.act.next, wait := none } ∧
      (∀ i j, i < r.count → j < r.size → t.poolByte s.act.core (o + i * r.size + j) = s.byteAt (cellOf (paUnder x (r.addr i)) + j)) ∧
      (∀ w ∈ spanWords o r.bytes, regionOf s.core w = 1 → w ∈ t.core.full) ∧
      ∀ c b, (c = s.act.core → b < o ∨ o + r.bytes ≤ b) → t.poolByte c b = s.poolByte c b := by
  intro t
  have hb : ∀ c b, t.poolByte c b = (s.setCore s.act.core (s.copied s.act.core o r x)).poolByte c b := fun c b =>
    (u.poolByte_setMe_fell ..).trans (hu.poolByte c b)
  have hme : { u.me with wait := none } = { s.me with wait := none } :=
    hu.me.trans (by rw [State.me_setCore (s := s) (k := s.copied s.act.core o r x) (State.copied_threads ..)])
  have hact : u.act = s.act := hu.act
  have hfull : t.core.full = (s.copied s.act.core o r x).full := by
    have e : t.core.full = u.core.full := by simp [t]
    rw [e, hu.own.full, State.core_setCore]
  refine ⟨hu.mem, ?_, fun i j hi hj => ?_, fun w hw hr => ?_, fun c b hc => ?_⟩
  · have e : t.me = { { u.me.bump p post with wait := none } with pc := s.act.next } := by simp [t, hact]
    rw [e, Thread.bump_wait, hme, ← Thread.bump_wait]
  · rw [hb, State.poolByte, State.getCore_setCore]
    exact State.copied_byte x (hk.pool _) hi hj
  · rw [hfull]
    exact State.copied_full x ho hw hr
  · rw [hb, State.poolByte]
    by_cases h : c = s.act.core
    · subst h
      rw [State.getCore_setCore, State.copied_frame x (hc rfl)]
      rfl
    · rw [State.getCore_setCore_ne _ _ h]
      rfl

/-! ### The obligation -/

/-- Settles O46: it holds, form by form. Each form on operands that pass its checks ends in one state, and what that state holds is read off
it; a change of a full bit adds no more than the end of waits, and HCPY.IN copies element by element. -/
theorem handleInstructions : Obligations.HandleInstructions := by
  refine ⟨fun s hc => ⟨?_, ?_, ?_, ?_, ?_⟩, ?_, ?_⟩
  · intro d a va w x n s1 s2 s3 hd hr ha hw ht type ext size hx ho hn
    exact ⟨_, exec_halloc hc hd hr ha hw ht hx ho hn, halloc_leaves s3 d w n⟩
  · intro a n e h
    have hh := State.heldHandle_holds h
    refine ⟨fun hp hq => ⟨_, exec_hfree_root hc h hp hq, ?_⟩, exec_hfree_waits hc h, fun hp hs => ?_, fun d => exec_hmov hc h,
      exec_hmov_self hc h, fun d sel => exec_hinfo hc h sel⟩
    · rw [hh.entry]
      exact hfree_leaves s n hh.ne_zero
    · rw [exec_hfree_child hc h hp hs, handleFault_eq _ _ (by decide)]
  · intro d a b p l u e x s1 s2 h hx hd hd1 h0 h10 axis at_ hz ha hp hlt hl hu hpl hpu
    have h2 : s2 = s.spent.spent := by rw [State.takeEntry_spent hu, State.takeEntry_spent hl]
    have ht := hsplit_leaves s2 e hpl hpu (State.takeEntry_ne hu) (x.extractLsb' 16 2).isLt (x.extractLsb' 0 16).isLt
      (State.heldHandle_holds h).ne_zero h0 h10
    have hdie : s2.die = s.die := by rw [h2]; rfl
    rw [hdie] at ht
    exact ⟨_, exec_hsplit hc h hx hd hd1 hz ha hp hlt hl hu, ht _ _⟩
  · intro d a b m n x y ha hb h0 hd hmn hxm hp hpn hxn hym
    refine ⟨fun hx hy => ⟨_, exec_hjoin hc ha hb hd hmn hxm hp hxn hym hx hy, ?_⟩, exec_hjoin_waits hc ha hb hd hmn hxm hp hxn hym⟩
    obtain ⟨hq, hg, hm, hn⟩ := hjoin_leaves s hmn hxm hpn
    refine ⟨hq, hm, hn, ?_⟩
    rw [State.greg_setMe_fell, Thread.greg_setG _ _ _ _ h0, hg]
    rfl
  · intro a p post n e r o x s1
    refine ⟨fun hr h => ?_, exec_hcpyIn_waits post, fun h he hclear hserved _ hq hm => ?_⟩
    · obtain ⟨c, ht⟩ := hcpyOut_leaves s1 n r o x p post
      exact ⟨_, c, exec_hcpyOut post hc hr h, ht⟩
    · obtain ⟨hmem, hbad, hu, hup, hmv⟩ := hclear
      obtain ⟨t, ht, hst⟩ := runFill_copy x (s := s1) (c := s1.act.core) (o := o) (r := r) ⟨rfl, hbad, hu, hup, hmv, hserved, hm⟩ hq
      exact ⟨_, exec_hcpyIn post h he hm ht, hcpyIn_leaves p post hmem (State.hcpyChecks_aligned h) hst⟩
  · intro a b off n e v s hw hc hb hv hm hf hmsg
    have hh := State.heldHandle_holds hb
    obtain ⟨-, -, -, hq, -, -, hk⟩ := id hw
    have hwf : Memory.wf (s.setMe (s.me.moveFrom b)).fell.core.pool = true := (hk.setMe (s.me.moveFrom b)).fell.pool s.act.core
    have hn : n = handleEntry v := by
      have hr : s.me.rdG b = .ok (s.me.greg b).val := hh.reads
      rw [hh.number, Except.ok.inj (hr.symm.trans hv)]
    obtain ⟨hword, hfull, hmark, hst, hwd, hg, hpc, hfr⟩ :=
      putHandle_leaves (s := (s.setMe (s.me.moveFrom b)).fell) (off := off) v (by simpa using hq) hwf hmsg s.die
    refine ⟨_, exec_puth hw hc hb hv hm hf, hword, hfull, hmark, hn ▸ hst, hn ▸ hwd, ?_, hpc.trans (by simp),
      fun o ho => (hfr o ho).trans (State.poolByte_setMe_fell ..)⟩
    exact (congrArg GReg.tag ((hg b).trans (State.greg_setMe_fell ..))).trans (Thread.moveFrom_tag _ hh.ne_zero)
  · intro d a off s hw hc ht h0 v
    refine ⟨fun hf hm hd => ?_, fun hf hm => ?_, exec_takeh_empty hw hc ht⟩
    · obtain ⟨-, -, -, hq, -, -, -⟩ := id hw
      obtain ⟨hnf, hnm, hst, hpool, hg, hpc⟩ :=
        takeHandle_leaves (s := (s.setMe (s.me.setG d v .handle)).fell) (off := off) v (by simpa using hq)
      refine ⟨_, exec_takeh hw hc ht hf hm hd, ?_, hnf, hnm, hst, hpool.trans (by simp), hpc.trans (by simp)⟩
      exact ((hg d).trans (State.greg_setMe_fell ..)).trans (Thread.greg_setG _ _ _ _ h0)
    · rw [exec_takeh_unmarked hw hc ht hf hm, handleFault_eq _ _ (by decide)]

end Sys2Proof.Machine
end

section
/-! Return from an exception (O10). The test of the privilege level, what ERET writes in the thread, and the obligation. -/

namespace Sys2Proof.Machine

/-! ### The test of the level (R83, R140) -/

@[simp] theorem Level.code_ofCode : ∀ c : BitVec 2, (Level.ofCode c).code = c := by decide

/-- Every level but user is at least guest. -/
theorem Level.atLeast_guest {l : Level} (h : l ≠ .user) : l.atLeast .guest = true := by
  cases l with
  | user => exact absurd rfl h
  | guest | hyper | maker => rfl

theorem State.needLevel_ok {s : State} {l : Level} (h : s.me.level.atLeast l = true) : s.needLevel l = .ok () := by
  simp [State.needLevel, faultIf, h]

/-- The detail of PRIVILEGE: the head in bits 0 to 15, and the level that is needed above it (R84). -/
theorem privilegeDetail_eq (head : Half) (l : Level) :
    head.setWidth 64 ||| (l.code.setWidth 64 <<< 16) = BitVec.ofNat 64 (head.toNat + l.code.toNat * 0x10000) := by
  apply BitVec.eq_of_toNat_eq
  have hh : head.toNat < 2 ^ 16 := head.isLt
  have hc : l.code.toNat < 2 ^ 2 := l.code.isLt
  have hor : head.toNat ||| l.code.toNat <<< 16 = head.toNat + l.code.toNat * 0x10000 := by
    rw [Nat.or_comm, ← Nat.shiftLeft_add_eq_or_of_lt hh, Nat.shiftLeft_eq, Nat.add_comm]
  have hs : l.code.toNat <<< 16 < 2 ^ 64 := by rw [Nat.shiftLeft_eq]; omega
  rw [BitVec.toNat_or, BitVec.toNat_shiftLeft, BitVec.toNat_setWidth, BitVec.toNat_setWidth, BitVec.toNat_ofNat,
    Nat.mod_eq_of_lt (by omega : head.toNat < 2 ^ 64), Nat.mod_eq_of_lt (by omega : l.code.toNat < 2 ^ 64), Nat.mod_eq_of_lt hs, hor,
    Nat.mod_eq_of_lt (by omega)]

/-- Below the level that an instruction needs, the test raises PRIVILEGE at the instruction. -/
theorem State.needLevel_fault {s : State} {l : Level} (h : s.me.level.atLeast l = false) :
    s.needLevel l = raise ⟨.privilege, s.me.pc, .ofNat 64 (s.act.head.toNat + l.code.toNat * 0x10000)⟩ := by
  simp only [State.needLevel, faultIf, h, Bool.not_false, if_true, fltAt, State.here, privilegeDetail_eq]

/-! ### Replacing the executing thread -/

/-- Replacing the executing thread, however the instruction ends, leaves everything elsewhere. -/
theorem sameElsewhere_out (s : State) (t : Thread) (o : Out) : SameElsewhere s ((s.setMe t).out o) := by
  refine ⟨fun c i h => State.getThread_setThread_ne _ _ h, fun c => ?_, rfl⟩
  rw [State.getCore_out]
  by_cases hc : c = s.act.core
  · subst hc
    exact (congrArg (fun k : Core => { k with threads := s.core.threads }) (State.core_setMe s t)).trans (Core.setThread_rest ..)
  · rw [State.setMe, State.setThread, State.getCore_setCore_ne _ _ hc]

/-! ### What ERET writes in the thread (R379) -/

theorem Thread.eret_lc_active {t : Thread} (h : t.active = true) : t.eret.lc = t.shadow := if_pos h

theorem Thread.eret_lc_inactive {t : Thread} (h : t.active = false) : t.eret.lc = Vector.replicate 3 zeroLoop := by
  simp [Thread.eret, h]

/-- Bit 15 of TCAUSE is `active`; ERET clears it and leaves the other fields. -/
theorem Thread.eret_tcause (t : Thread) {i : Nat} (h : i ≠ 15) : t.eret.sys.tcause.getLsbD i = t.sys.tcause.getLsbD i := by
  have hmask : (0xFFFFFFFFFFFF7FFF : Word) = ~~~BitVec.twoPow 64 15 := by decide
  have hlt : t.sys.tcause.getLsbD i = true → i < 64 := BitVec.lt_of_getLsbD
  show (t.sys.tcause &&& 0xFFFFFFFFFFFF7FFF).getLsbD i = _
  rw [hmask, BitVec.getLsbD_and, BitVec.getLsbD_not, BitVec.getLsbD_twoPow]
  cases hb : t.sys.tcause.getLsbD i with
  | false => rfl
  | true => simp [hlt hb, Ne.symm h]

/-! ### The meaning of ERET -/

theorem exec_eret {s : State} (h : s.me.level ≠ .user) : exec .eret s = .next ((s.setMe s.me.eret).out .crossed) := by
  show execEret s = _
  simp [execEret, State.needLevel_ok (Level.atLeast_guest h), bind, Except.bind]

theorem exec_eret_user {s : State} (h : s.me.level = .user) :
    exec .eret s = .next (s.trap ⟨.privilege, s.me.pc, .ofNat 64 (s.act.head.toNat + 0x10000)⟩) := by
  have hl : s.me.level.atLeast .guest = false := by rw [h]; rfl
  show execEret s = _
  simp only [execEret, State.needLevel_fault hl]
  rfl

/-! ### The obligation -/

/-- Settles O10: it holds. At guest level or above ERET replaces the executing thread by `Thread.eret` and changes nothing else, and the
fields of that thread are those that R379 names; at user level the test of the level raises PRIVILEGE. -/
theorem exceptionReturn : Obligations.ExceptionReturn := by
  refine ⟨fun s h => ⟨_, exec_eret h, ?_⟩, fun s h => exec_eret_user h⟩
  obtain ⟨hpc, hlevel, hactive, hg, hv, hp⟩ := Thread.eret_fields s.me
  have hme : ((s.setMe s.me.eret).out .crossed).me = s.me.eret := State.me_setMe ..
  rw [hme]
  exact ⟨hpc, by rw [hlevel, Level.code_ofCode], Thread.eret_lc_active, Thread.eret_lc_inactive, hactive, fun i => Thread.eret_tcause s.me,
    hg, hv, hp, rfl, rfl, sameElsewhere_out ..⟩

end Sys2Proof.Machine
end
